-- ==== Sys2Proof/Word.lean ====
section
/-! DEFINITION. The words of OTN1-A00 (spec 00 R3, R4): 64-bit registers, bytes, and the sorted key and value lists in
which the model keeps everything that is sparse. Only the types stand here; what reads and writes them is in
Machine/Map.lean and Machine/Bits.lean. -/

namespace Sys2Proof

/-- A register of 64 bits (R3). -/
abbrev Word := BitVec 64

/-- A byte of memory (R3). -/
abbrev Byte := BitVec 8

/-- A sequence of bytes, lowest address first (R3). -/
abbrev Bytes := List (BitVec 8)

/-- Sparse storage: pairs of key and value, keys strictly rising, no pair equal to what an unlisted key reads as. -/
abbrev SMap (α : Type) := List (Nat × α)

end Sys2Proof
end

