-- ==== Sys2Proof/Syntax/Operand.lean ====
section
/-! DEFINITION. What the commands carry: pages and writers of the register space (R27 to R30, R38), units and contexts
(R15, R114), packets (R300), time packets (R330, R331), and what the outside world reports with an event. -/

namespace Sys2Proof

/-- The blocks of the page map, R30, in the order of its table. -/
inductive Block where
  | cell | solv | comb | pool | upd | field | coll | lake | basin | chk | dig | port | cal | host
  | region | router | time | barr | scale | ring | ras | keep | sec | pwr | clk
deriving DecidableEq, Repr

/-- One page: a block and its instance number (R27 INSTANCE, R30). -/
structure Page where
  blk : Block
  idx : Nat
deriving DecidableEq, Repr

/-- Who writes a register: the host of port A or B, or the keeper (R38). -/
inductive Writer where
  | hostA | hostB | keeper
deriving DecidableEq, Repr

/-- Which part of a 64-bit register a write covers: all of it, or one aligned half (R39). -/
inductive Lanes where
  | full | low | high
deriving DecidableEq, Repr

/-- A write of one register of one page: who, which part, which value. For a 32-bit write the value stands in the
low half of `val`. -/
structure RegWrite where
  src : Writer
  lanes : Lanes
  val : Word
deriving DecidableEq, Repr

/-- A physical unit that runs contexts: 0 to 179 are CELL[0..179], 180 to 203 are SOLV[0..23] (R15). -/
abbrev UnitId := Fin 204

/-- A hardware context of a unit (R114). -/
abbrev CtxId := Fin 16

/-- A register number field of an instruction (R123). -/
abbrev RegNo := BitVec 5

/-- A solver cell SOLV[0..23] (R15). -/
abbrev SolvId := Fin 24

/-- A pool slice (R13). -/
abbrev SliceId := Fin 20

/-- A comb (R13). -/
abbrev CombId := Fin 20

/-- A field F0 to F3 (R13), and its collective engine (R358). -/
abbrev FieldId := Fin 4

/-- A stage queue (R204). -/
abbrev QueueId := Fin 1024

/-- A digest engine (R398). -/
abbrev DigId := Fin 8

/-- A check unit (R403). -/
abbrev ChkId := Fin 96

/-- The optical ports in the numbering of R27: XP 0, XN 1, YP 2, YN 3. -/
abbrev PortId := Fin 4

/-- The host ports: A 0, B 1 (R27, R433). -/
abbrev HostId := Fin 2

/-- A packet: the header fields of R300, the payload and its poison marks, one per 8 bytes. `rsv` says that a reserved
bit of the header is set. -/
structure Packet where
  tc : BitVec 2
  epoch : Bool
  demoted : Bool
  detour : Bool
  dl : Bool
  mcast : Bool
  axis : Bool
  dir : Bool
  mflow : Bool
  rsv : Bool
  dstX : BitVec 8
  dstY : BitVec 8
  srcX : BitVec 8
  srcY : BitVec 8
  len : BitVec 8
  seq : BitVec 32
  index : BitVec 13
  kind : BitVec 3
  injTime : Word
  crc : BitVec 32
  ctx : BitVec 32
  payload : Bytes
  marks : List Bool
  /-- the dimension D that a detour left, 0 X and 1 Y: it goes along beside the header, which has no field for it (R307, log 51) -/
  blocked : BitVec 1
deriving DecidableEq, Repr

/-- The adaptive credits, in units of 64 bytes, that each output has occupied at its neighbour (R304, R306), by port
number. -/
structure Occupancy where
  xp : Nat
  xn : Nat
  yp : Nat
  yn : Nat
deriving DecidableEq, Repr

/-- A flow, as its sender names it (R310): the class, and the destination of a unicast flow or the axis and direction of
a multicast flow. -/
structure FlowId where
  tc : BitVec 2
  mflow : Bool
  x : BitVec 8
  y : BitVec 8
  axis : Bool
  dir : Bool
deriving DecidableEq, Repr

/-- The lanes that passed training in each direction (R295), whether the peer answered, and the port name and coordinates that it
gave (R487). -/
structure TrainReport where
  peer : Bool
  name : PortId
  x : BitVec 8
  y : BitVec 8
  rx : BitVec 52
  tx : BitVec 52
deriving DecidableEq, Repr

/-- A wrong value left by a defect of an array: the segment, array, row and column (64 is the checksum column) and the
40-bit code that stands there instead (R86, R91). -/
structure Upset where
  seg : Nat
  arr : Nat
  row : Nat
  col : Nat
  code : Nat
deriving DecidableEq, Repr

/-- The upsets of the run of an instruction and of its retry (R91). -/
structure ArrayUpsets where
  first : List Upset
  retry : List Upset
deriving DecidableEq, Repr

/-- A time packet as it is received, with the four timestamps of R330 in ps and the advertisement of R331. -/
structure TimePkt where
  t1 : Int
  t2 : Int
  t3 : Int
  t4 : Int
  state : BitVec 3
  depth : BitVec 8
  rootPrio : BitVec 4
  rootX : BitVec 8
  rootY : BitVec 8
  heartbeat : BitVec 32
  /-- the sender's hive time at reception, in ns: what a first lock sets the count to (R328) -/
  now : Word
  /-- its end-to-end CRC is right (R314): the spec gives its payload no layout -/
  crcGood : Bool
deriving DecidableEq, Repr

/-- The message by which a child reports a generation, or a parent releases one (R349, R350). -/
structure BarMsg where
  obj : BitVec 12
  /-- the module that sent it -/
  srcX : BitVec 8
  srcY : BitVec 8
  /-- parity of the generation -/
  parity : Bool
  /-- summed count of an arrival -/
  count : Nat
  /-- release instant of a release message -/
  tRel : Word
deriving DecidableEq, Repr

/-- What a host answers to one read of its memory, of at most 4,096 bytes (R433): the bytes, each with the EP mark of the completion
that brought it, or an error (R443 HOST_ERR), for which only the length counts. -/
structure HostRead where
  err : Bool
  data : List (Byte × Bool)
deriving DecidableEq, Repr

/-- What a host answers to the reads of a range of its memory, in the order of their addresses. -/
abbrev HostData := List HostRead

/-- Some read returned an error. -/
def HostData.err (d : HostData) : Bool := d.any (fun r => r.err)

/-- Some completion of a read without error had EP set. -/
def HostData.ep (d : HostData) : Bool := d.any (fun r => !r.err && r.data.any (fun b => b.2))

/-- The bytes with their EP marks, and without. -/
def HostData.marked (d : HostData) : List (Byte × Bool) := d.flatMap (fun r => r.data)
def HostData.bytes (d : HostData) : Bytes := (HostData.marked d).map (fun b => b.1)

/-- The reads fit the port: none is empty or longer than the maximum read request (R433). -/
def HostData.ok (d : HostData) : Bool := d.all (fun r => decide (r.data.length ≠ 0 ∧ r.data.length ≤ 4096))

/-- A write of the MSI-X table of BAR2 (R434, R435): the vector, the 32-bit word of its entry (0 and 1 message address, 2 message data,
3 vector control with the mask in bit 0, as PCI Express lays it out), whether 64 bits are written, and the value. -/
structure MsixWrite where
  vec : BitVec 11
  dword : BitVec 2
  qword : Bool
  val : Word
deriving DecidableEq, Repr

/-- A block of lake or basin: the target (0 to 255 lake channel k = 8c + t, 256 to 279 basin device d) and the offset of
the block in units of 64 bytes (R269, R270). -/
structure MemBlock where
  target : Nat
  block : Nat
deriving DecidableEq, Repr

/-- What a controller finds when it reads a block: how many symbols are in error and which lanes carry them, and whether
the stored block (not only the transfer) is in error (R277 to R279). -/
structure EccReport where
  symbols : Nat
  lanes : List Nat
  stored : Bool
deriving DecidableEq, Repr

/-- A request of a host to BAR4 (R287, R288). -/
inductive WindowReq where
  | read (off : Nat) (len : Nat)
  | write (off : Nat) (data : Bytes) (ep : Bool)
  | atomic (off : Nat)
deriving DecidableEq, Repr

/-- An access that arrives at a home slice or slice scratch (R259): the atomic or bulk part of a started DMA descriptor
of a unit, or a read or write by another requester of the die. -/
inductive PoolReq where
  | dma (unit : UnitId) (pos : Nat)
  | read (addr : BitVec 48) (len : Nat)
  | write (addr : BitVec 48) (data : Bytes) (poison : Bool)
deriving DecidableEq, Repr

/-- An outcome of the boot steps of R452 that the module finds out by measuring itself. -/
structure BootReport where
  romOk : Bool
  /-- lake channels k that fail training with more than 2 bad lanes -/
  lakeFail : List Nat
  /-- basin devices that are lost -/
  basinFail : List Nat
  /-- lanes for which training switches a spare in: (target, lane) -/
  spared : List (Nat × Nat)
  /-- physical units that fail BIST: a cell or solver cell with its pond by its number, pool slice s as 204 + s, the collective engine of
  Ff as 224 + f -/
  bistFail : List Nat
  /-- how the training of the ports XP, XN, YP, YN ends that are enabled in step 7 -/
  ports : List TrainReport
  /-- the time packets received in step 8 -/
  time : List (PortId × TimePkt)
  /-- the boot attestation report could be signed in step 9 -/
  signOk : Bool
  readyMs : BitVec 32
deriving DecidableEq, Repr

/-- The sensors and inputs of R468, R485, R491 as one reading. -/
structure PowerReading where
  watts : BitVec 16
  millivoltDiv16 : BitVec 16
  coolantIn : BitVec 8
  coolantOut : BitVec 8
deriving DecidableEq, Repr

end Sys2Proof
end

