-- ==== Sys2Proof/Syntax.lean ====
section
/-! DEFINITION. The commands of the block: one constructor per row of the table of operations and events, in the
table's order. Where the row is a register write, the operand says who writes what; where it is an instruction of a
context, the operands are the unit, the context and the fields of the instruction word (R72, R123, R147, R205, R251,
R359); where it is an event of the outside world, the operand is what the outside world supplies with it. -/

namespace Sys2Proof

/-- A command (the rows of spec/opcode_table.json). -/
inductive Instr where
  /-- R32. A write to a page's staged area changes only the staged copy; while a commit is pending or being checked it is ignored and raises STAGE_LOCKED. -/
  | stagedWrite (pg : Page) (off : BitVec 12) (w : RegWrite)
  /-- R33. Writing COMMIT.GO (with AT when a scheduled commit is wanted) starts the consistency check of the whole staged area and sets CHECKING. -/
  | commitGo (pg : Page) (w : RegWrite)
  /-- R33. The consistency check ends within 1 µs and sets PENDING, or sets REJECTED with CFG_REJECT and the first broken rule's REASON. -/
  | commitCheckDone (pg : Page)
  /-- R35. Writing COMMIT.ABORT cancels a pending commit or a running check, setting REJECTED with REASON 0x06; it is ignored when nothing is pending. -/
  | commitAbort (pg : Page) (w : RegWrite)
  /-- R34. At the block's commit point a pending commit applies the whole staged set at one instant, increments CONFIG_EPOCH and sets CFG_APPLIED. -/
  | commitApply (pg : Page)
  /-- R38. A write to OWNER hands the page to the other host; it is accepted only from the owner or when the owning port has failed. -/
  | ownerWrite (pg : Page) (w : RegWrite)
  /-- R40. A write to EVENT clears each W1C bit written as 1 and ignores 1s in reserved bits without an event. -/
  | eventClear (pg : Page) (w : RegWrite)
  /-- R27. A write of 1 to an EVENT_INJECT bit makes the detector behind that bit report once as if it had detected an error. -/
  | eventInject (pg : Page) (w : RegWrite)
  /-- R40. A write to a register without behaviour of its own is performed, or ignored with or without CFG_REJECT under the reserved-bit and access rules. -/
  | registerWrite (src : Writer) (addr : BitVec 28) (bytes : Nat) (val : Word)
  /-- R124. ALU register ADD writes ga + gb to gd. -/
  | add (u : UnitId) (c : CtxId) (gd ga gb : RegNo)
  /-- R124. ALU register SUB writes ga − gb to gd. -/
  | sub (u : UnitId) (c : CtxId) (gd ga gb : RegNo)
  /-- R124. ALU register AND writes the bitwise AND of ga and gb to gd. -/
  | and (u : UnitId) (c : CtxId) (gd ga gb : RegNo)
  /-- R124. ALU register OR writes the bitwise OR of ga and gb to gd. -/
  | or (u : UnitId) (c : CtxId) (gd ga gb : RegNo)
  /-- R124. ALU register XOR writes the bitwise XOR of ga and gb to gd. -/
  | xor (u : UnitId) (c : CtxId) (gd ga gb : RegNo)
  /-- R124. SLL shifts ga left by gb[5:0]. -/
  | sll (u : UnitId) (c : CtxId) (gd ga gb : RegNo)
  /-- R124. SRL shifts ga right logically by gb[5:0]. -/
  | srl (u : UnitId) (c : CtxId) (gd ga gb : RegNo)
  /-- R124. SRA shifts ga right arithmetically by gb[5:0]. -/
  | sra (u : UnitId) (c : CtxId) (gd ga gb : RegNo)
  /-- R124. SLT writes 1 when ga < gb as signed values, otherwise 0. -/
  | slt (u : UnitId) (c : CtxId) (gd ga gb : RegNo)
  /-- R124. SLTU writes 1 when ga < gb as unsigned values, otherwise 0. -/
  | sltu (u : UnitId) (c : CtxId) (gd ga gb : RegNo)
  /-- R124. MUL writes the low 64 bits of ga × gb. -/
  | mul (u : UnitId) (c : CtxId) (gd ga gb : RegNo)
  /-- R124. MULH writes the high 64 bits of the signed 128-bit product. -/
  | mulh (u : UnitId) (c : CtxId) (gd ga gb : RegNo)
  /-- R124. MULHU writes the high 64 bits of the unsigned 128-bit product. -/
  | mulhu (u : UnitId) (c : CtxId) (gd ga gb : RegNo)
  /-- R124. ADDI writes ga plus the sign-extended immediate. -/
  | addi (u : UnitId) (c : CtxId) (gd ga : RegNo) (imm : BitVec 12)
  /-- R124. ANDI writes ga AND the zero-extended immediate. -/
  | andi (u : UnitId) (c : CtxId) (gd ga : RegNo) (imm : BitVec 12)
  /-- R124. ORI writes ga OR the zero-extended immediate. -/
  | ori (u : UnitId) (c : CtxId) (gd ga : RegNo) (imm : BitVec 12)
  /-- R124. XORI writes ga XOR the zero-extended immediate. -/
  | xori (u : UnitId) (c : CtxId) (gd ga : RegNo) (imm : BitVec 12)
  /-- R124. SLLI shifts ga left by imm[5:0]. -/
  | slli (u : UnitId) (c : CtxId) (gd ga : RegNo) (imm : BitVec 12)
  /-- R124. SRLI shifts ga right logically by imm[5:0]. -/
  | srli (u : UnitId) (c : CtxId) (gd ga : RegNo) (imm : BitVec 12)
  /-- R124. SRAI shifts ga right arithmetically by imm[5:0]. -/
  | srai (u : UnitId) (c : CtxId) (gd ga : RegNo) (imm : BitVec 12)
  /-- R124. SLTI compares ga with the sign-extended immediate as signed values. -/
  | slti (u : UnitId) (c : CtxId) (gd ga : RegNo) (imm : BitVec 12)
  /-- R124. SLTIU compares ga with the sign-extended immediate as unsigned values. -/
  | sltiu (u : UnitId) (c : CtxId) (gd ga : RegNo) (imm : BitVec 12)
  /-- R124. JALR writes the return address to gd and jumps to ga plus the immediate, with bits [1:0] cleared. -/
  | jalr (u : UnitId) (c : CtxId) (gd ga : RegNo) (imm : BitVec 12)
  /-- R124. ORIU ORs the zero-extended immediate, shifted left by 12, into ga. -/
  | oriu (u : UnitId) (c : CtxId) (gd ga : RegNo) (imm : BitVec 12)
  /-- R124. Load upper writes the immediate to gd[31:16], zero to gd[15:0] and copies bit 31 into gd[63:32]. -/
  | loadUpper (u : UnitId) (c : CtxId) (gd : RegNo) (imm : BitVec 16)
  /-- R115. A scalar load reads 1 to 8 aligned bytes from the pond into gd, with or without sign extension, and faults on a bad address or on poison. -/
  | load (u : UnitId) (c : CtxId) (gd ga : RegNo) (size : BitVec 3) (off : BitVec 13)
  /-- R264. A scalar store enters the store buffer and reaches the pond, possibly held under the array hazards. -/
  | store (u : UnitId) (c : CtxId) (gs ga : RegNo) (size : BitVec 3) (off : BitVec 13)
  /-- R124. A branch compares ga and gb under its condition and, when taken, adds 4 × offset to PC. -/
  | branch (u : UnitId) (c : CtxId) (ga gb : RegNo) (cond : BitVec 3) (off : BitVec 13)
  /-- R124. Jump and link writes PC + 4 to gd and jumps by the 21-bit word offset. -/
  | jumpAndLink (u : UnitId) (c : CtxId) (gd : RegNo) (off : BitVec 21)
  /-- R116. YIELD gives the core to the next ready context. -/
  | yield (u : UnitId) (c : CtxId) (gd ga gb : RegNo)
  /-- R120. The HALT instruction moves its context to HALTED, with PC at the next instruction. -/
  | halt (u : UnitId) (c : CtxId) (gd ga gb : RegNo)
  /-- R257. WAIT.DMA deschedules the context until no descriptor with the tag remains outstanding, then writes the refusal and status bits. -/
  | waitDma (u : UnitId) (c : CtxId) (gd ga gb : RegNo)
  /-- R206. WAIT.QIN waits until the consumer ring holds a delivered record, or returns an error code at once. -/
  | waitQin (u : UnitId) (c : CtxId) (gd ga gb : RegNo)
  /-- R206. WAIT.QOUT waits until the slot named by QU.PSLOT is free, or returns an error code at once. -/
  | waitQout (u : UnitId) (c : CtxId) (gd ga gb : RegNo)
  /-- R348. WAIT.BAR enters a barrier object as participant p, counting toward generation g or g + 1, and waits for release unless NOWAIT. -/
  | waitBar (u : UnitId) (c : CtxId) (gd ga gb : RegNo)
  /-- R329. WAIT.TIME deschedules the context until hive time reaches ga ns, or completes at once when that time has passed. -/
  | waitTime (u : UnitId) (c : CtxId) (gd ga gb : RegNo)
  /-- R329. Hive time reaches the instant of a WAIT.TIME and the waiting context becomes ready. -/
  | waitTimeExpire (u : UnitId) (c : CtxId)
  /-- R265. FENCE.L stalls the context until its earlier accesses within the cell's own pond scope are performed. -/
  | fenceL (u : UnitId) (c : CtxId) (gd ga gb : RegNo)
  /-- R265. FENCE.C stalls until earlier accesses within the comb scope are performed. -/
  | fenceC (u : UnitId) (c : CtxId) (gd ga gb : RegNo)
  /-- R265. FENCE.D stalls until earlier accesses within the die scope, every memory address included, are performed. -/
  | fenceD (u : UnitId) (c : CtxId) (gd ga gb : RegNo)
  /-- R265. FENCE.G also waits for the transfers handed to collective engines to be performed at their destinations. -/
  | fenceG (u : UnitId) (c : CtxId) (gd ga gb : RegNo)
  /-- R125. FLAGRD writes the context's numeric flags to gd. -/
  | flagrd (u : UnitId) (c : CtxId) (gd ga gb : RegNo)
  /-- R125. FLAGCLR clears the context's flags set in ga. -/
  | flagclr (u : UnitId) (c : CtxId) (gd ga gb : RegNo)
  /-- R125. TIMERD writes hive time in ns to gd. -/
  | timerd (u : UnitId) (c : CtxId) (gd ga gb : RegNo)
  /-- R135. VPDN powers the vector unit down once its in-flight instructions complete. -/
  | vpdn (u : UnitId) (c : CtxId) (gd ga gb : RegNo)
  /-- R136. VRAND fills a vector register with spring blocks of a USE 0x8 stream, faulting on any other USE. -/
  | vrand (u : UnitId) (c : CtxId) (gd ga gb : RegNo)
  /-- R128. VADD adds va and vb lane-wise, rounding once into FMT. -/
  | vadd (u : UnitId) (c : CtxId) (sat : Bool) (vd va vb : RegNo) (pm : BitVec 3) (fmt : BitVec 4)
  /-- R128. VSUB subtracts vb from va lane-wise. -/
  | vsub (u : UnitId) (c : CtxId) (sat : Bool) (vd va vb : RegNo) (pm : BitVec 3) (fmt : BitVec 4)
  /-- R128. VMUL multiplies va and vb lane-wise. -/
  | vmul (u : UnitId) (c : CtxId) (sat : Bool) (vd va vb : RegNo) (pm : BitVec 3) (fmt : BitVec 4)
  /-- R128. VFMA forms va × vb + vd with one rounding. -/
  | vfma (u : UnitId) (c : CtxId) (sat : Bool) (vd va vb : RegNo) (pm : BitVec 3) (fmt : BitVec 4)
  /-- R64. VMIN takes the lane-wise minimumNumber. -/
  | vmin (u : UnitId) (c : CtxId) (sat : Bool) (vd va vb : RegNo) (pm : BitVec 3) (fmt : BitVec 4)
  /-- R64. VMAX takes the lane-wise maximumNumber. -/
  | vmax (u : UnitId) (c : CtxId) (sat : Bool) (vd va vb : RegNo) (pm : BitVec 3) (fmt : BitVec 4)
  /-- R127. VABS writes the magnitude of va. -/
  | vabs (u : UnitId) (c : CtxId) (sat : Bool) (vd va vb : RegNo) (pm : BitVec 3) (fmt : BitVec 4)
  /-- R129. VCMUL multiplies lane pairs as complex values, each part rounded once. -/
  | vcmul (u : UnitId) (c : CtxId) (sat : Bool) (vd va vb : RegNo) (pm : BitVec 3) (fmt : BitVec 4)
  /-- R129. VCMULC multiplies va by the conjugate of vb as complex values. -/
  | vcmulc (u : UnitId) (c : CtxId) (sat : Bool) (vd va vb : RegNo) (pm : BitVec 3) (fmt : BitVec 4)
  /-- R134. VCMPEQ writes a predicate of lane-wise equality, 0 for poisoned lanes. -/
  | vcmpeq (u : UnitId) (c : CtxId) (sat : Bool) (vd va vb : RegNo) (pm : BitVec 3) (fmt : BitVec 4)
  /-- R134. VCMPLT writes a predicate of lane-wise less-than, 0 for poisoned lanes. -/
  | vcmplt (u : UnitId) (c : CtxId) (sat : Bool) (vd va vb : RegNo) (pm : BitVec 3) (fmt : BitVec 4)
  /-- R131. VCVT converts lanes between formats, optionally scaled through a bound slot and stochastically rounded, and advances EBASE. -/
  | vcvt (u : UnitId) (c : CtxId) (sat : Bool) (vd va vb : RegNo) (pm : BitVec 3) (fmt : BitVec 4)
  /-- R126. VSEL writes va or vb to every active lane as the predicate selects. -/
  | vsel (u : UnitId) (c : CtxId) (sat : Bool) (vd va vb : RegNo) (pm : BitVec 3) (fmt : BitVec 4)
  /-- R130. VLD loads a contiguous or strided vector after checking every enabled lane address. -/
  | vld (u : UnitId) (c : CtxId) (vd ga gs : RegNo) (pm : BitVec 3) (fmt : BitVec 4)
  /-- R130. VST stores a contiguous or strided vector after checking every enabled lane address. -/
  | vst (u : UnitId) (c : CtxId) (vd ga gs : RegNo) (pm : BitVec 3) (fmt : BitVec 4)
  /-- R130. VLD2 de-interleaves two fields into consecutive registers. -/
  | vld2 (u : UnitId) (c : CtxId) (vd ga gs : RegNo) (pm : BitVec 3) (fmt : BitVec 4)
  /-- R130. VLD3 de-interleaves three fields into consecutive registers. -/
  | vld3 (u : UnitId) (c : CtxId) (vd ga gs : RegNo) (pm : BitVec 3) (fmt : BitVec 4)
  /-- R130. VLD4 de-interleaves four fields into consecutive registers. -/
  | vld4 (u : UnitId) (c : CtxId) (vd ga gs : RegNo) (pm : BitVec 3) (fmt : BitVec 4)
  /-- R130. VST2 interleaves two registers into memory. -/
  | vst2 (u : UnitId) (c : CtxId) (vd ga gs : RegNo) (pm : BitVec 3) (fmt : BitVec 4)
  /-- R130. VST3 interleaves three registers into memory. -/
  | vst3 (u : UnitId) (c : CtxId) (vd ga gs : RegNo) (pm : BitVec 3) (fmt : BitVec 4)
  /-- R130. VST4 interleaves four registers into memory. -/
  | vst4 (u : UnitId) (c : CtxId) (vd ga gs : RegNo) (pm : BitVec 3) (fmt : BitVec 4)
  /-- R126. VSETVL sets VL to min(ga, VLMAX(FMT)) and writes it to gd. -/
  | vsetvl (u : UnitId) (c : CtxId) (d ga gb : RegNo) (fmt : BitVec 4)
  /-- R131. VSETSR sets SRSTATE.TENSOR, BIND and EBASE for stochastic and bound conversions. -/
  | vsetsr (u : UnitId) (c : CtxId) (d ga gb : RegNo) (fmt : BitVec 4)
  /-- R131. VBCAST writes the low bits of ga, read as FMT, to every active lane. -/
  | vbcast (u : UnitId) (c : CtxId) (d ga gb : RegNo) (fmt : BitVec 4)
  /-- R132. VREDSUM reads its descriptor and starts a canonical tree reduction, descheduling its context until completion. -/
  | vredsum (u : UnitId) (c : CtxId) (gd ga : RegNo) (rest : BitVec 12)
  /-- R132. VTOPK reads its descriptor and starts a top-k reduction with positions, descheduling its context until completion. -/
  | vtopk (u : UnitId) (c : CtxId) (gd ga : RegNo) (rest : BitVec 12)
  /-- R132. A VREDSUM or VTOPK completes, writes its result at DST and its code to gd, and readies its context. -/
  | vreduceDone (u : UnitId) (c : CtxId)
  /-- R119. The save of the owner's vector state and the restore or clear of the issuer's completes, and the issuer becomes the vector owner. -/
  | vstateMoveDone (u : UnitId)
  /-- R135. After VIDLE idle cycles the vector unit powers down, keeping its registers. -/
  | vectorIdlePowerDown (u : UnitId)
  /-- R135. The vector unit finishes waking within 200 cycles and the descheduled issuer continues. -/
  | vectorWakeDone (u : UnitId)
  /-- R120. The START command moves a HALTED context to READY at CTX[c].PC. -/
  | ctxStart (u : UnitId) (c : CtxId) (w : RegWrite)
  /-- R120. The HALT command stops a context at its next instruction boundary, or after a barrier release when it waits in WAIT.BAR. -/
  | ctxHalt (u : UnitId) (c : CtxId) (w : RegWrite)
  /-- R120. The RESET command returns a HALTED or FAULTED context to its reset state and discards its tile and vector ownership. -/
  | ctxReset (u : UnitId) (c : CtxId) (w : RegWrite)
  /-- R120. A write to CTX[c].PC sets the start address of a HALTED context, and otherwise raises CTX_BUSY. -/
  | ctxPcWrite (u : UnitId) (c : CtxId) (w : RegWrite)
  /-- R73. MX.RUN reads a matrix descriptor, checks it at queue entry and places it in the matrix queue, descheduling the context when the queue is full. -/
  | mxRun (u : UnitId) (c : CtxId) (gd ga : RegNo) (imm : BitVec 13)
  /-- R93. MX.WAIT waits for every MX.RUN of the context to complete, then writes TAG, refusal and poison bits. -/
  | mxWait (u : UnitId) (c : CtxId) (gd ga : RegNo) (imm : BitVec 13)
  /-- R72. MX.POLL writes the number of the context's uncompleted MX.RUN instructions to gD. -/
  | mxPoll (u : UnitId) (c : CtxId) (gd ga : RegNo) (imm : BitVec 13)
  /-- R81. The arrays take the next queued instruction, read its scales, check its expansion records and start forming products. -/
  | mxDispatch (u : UnitId)
  /-- R73. A matrix instruction completes when its last output is written, or with DRAIN = 0 when its last product is accumulated. -/
  | mxComplete (u : UnitId) (up : ArrayUpsets)
  /-- R148. SV.RUN reads a solver descriptor, checks it at queue entry and places it in the solver queue, waiting when the queue is full. -/
  | svRun (u : UnitId) (c : CtxId) (gd ga : RegNo) (imm : BitVec 13)
  /-- R147. SV.WAIT waits for every SV.RUN of the context to complete, then writes TAG, flags and status. -/
  | svWait (u : UnitId) (c : CtxId) (gd ga : RegNo) (imm : BitVec 13)
  /-- R147. SV.POLL writes the number of the context's uncompleted SV.RUN instructions to gD. -/
  | svPoll (u : UnitId) (c : CtxId) (gd ga : RegNo) (imm : BitVec 13)
  /-- R164. The sequencer takes the next descriptor: a forward solve passes or fails its start test, a backward passes its slot checks and starts, a release frees its slot. -/
  | solverDispatch (n : SolvId)
  /-- R156. An interior-point iteration ends, the best iterate is updated and the stopping tests decide whether another iteration starts. -/
  | solveIterationEnd (n : SolvId)
  /-- R165. A forward solve that has stopped, after any retained factorisation, posts its result record and counters. -/
  | solveComplete (n : SolvId)
  /-- R167. At a time tick a queued forward descriptor that can no longer pass its start test is completed early with LATE_START and SV_EXPIRED. -/
  | descriptorExpire (n : SolvId)
  /-- R193. A backward descriptor finishes, writes its gradients and header, and releases its slot when RELEASE = 1. -/
  | backwardComplete (n : SolvId)
  /-- R251. DM.RUN issues a DMA descriptor to the engine's queue, or writes 1 to gD when the queue is full. -/
  | dmRun (u : UnitId) (c : CtxId) (gd ga : RegNo) (imm : BitVec 13)
  /-- R251. DM.POLL writes the number of the context's uncompleted DMA descriptors. -/
  | dmPoll (u : UnitId) (c : CtxId) (gd ga : RegNo) (imm : BitVec 13)
  /-- R258. A queued DMA descriptor starts once no earlier overlapping descriptor of the engine is outstanding. -/
  | dmaStart (u : UnitId) (pos : Nat)
  /-- R258. A DMA descriptor completes when every write has been performed at its target. -/
  | dmaComplete (u : UnitId) (pos : Nat) (collide : List Nat)
  /-- R249. A DMA access that has waited more than STARVE_THR cycles raises DMA_STARVE once for its descriptor. -/
  | dmaStarve (u : UnitId) (pos : Nat)
  /-- R259. An access, atomic or bulk add arrives at its home slice and is performed through the slice cache or scratch. -/
  | poolAccess (req : PoolReq)
  /-- R263. A write to ORD[g].NEXT refuses every buffered descriptor of the group and sets the counter. -/
  | ordNextWrite (sl : SliceId) (g : BitVec 6) (w : RegWrite)
  /-- R261. Once accepted pool operations have drained, the slice writes back the affected lines, applies the new scratch size and releases held operations. -/
  | poolScratchApply (sl : SliceId)
  /-- R275. After the affected dirty lines are written back and dropped, the new region table applies and the held accesses proceed. -/
  | regionRemapApply
  /-- R279. A lake or basin block read completes, corrected and written back, or delivered poisoned when uncorrectable. -/
  | memoryBlockRead (blk : MemBlock) (ecc : EccReport)
  /-- R280. The patrol scrub reads and checks the next block of its stack or devices. -/
  | patrolScrub (blk : MemBlock) (ecc : EccReport)
  /-- R281. In-place retraining of a channel or device ends with a spare lane in use and held accesses performed. -/
  | laneRetrainDone (target : Nat)
  /-- R283. The copy of a retired lake channel into its stack's reserves ends and CH_RETIRED is raised. -/
  | channelCopyDone (target : Nat)
  /-- R288. A PCI Express request to BAR4 is served through the home slice, with poison and unsupported requests handled as stated. -/
  | hostWindowAccess (port : HostId) (req : WindowReq)
  /-- R205. QU.PSLOT writes the pond address of the slot that the next push publishes. -/
  | quPslot (u : UnitId) (c : CtxId) (gd ga : RegNo) (imm : BitVec 13)
  /-- R207. QU.PUSH publishes the producer slot as the next record after earlier stores reach the pond. -/
  | quPush (u : UnitId) (c : CtxId) (gd ga : RegNo) (imm : BitVec 13)
  /-- R205. QU.CSLOT writes the pond address of the oldest record. -/
  | quCslot (u : UnitId) (c : CtxId) (gd ga : RegNo) (imm : BitVec 13)
  /-- R207. QU.POP releases the oldest record and frees its slot. -/
  | quPop (u : UnitId) (c : CtxId) (gd ga : RegNo) (imm : BitVec 13)
  /-- R205. QU.LEVEL writes the records held and the free slots of a queue. -/
  | quLevel (u : UnitId) (c : CtxId) (gd ga : RegNo) (imm : BitVec 13)
  /-- R208. The mover starts carrying a pushed record once its destination ring has a free slot. -/
  | moverStart (q : QueueId)
  /-- R208. The mover writes the last byte of a record, delivering it and freeing its producer slot. -/
  | moverDeliver (q : QueueId)
  /-- R200. A write of SMLOAD.GO starts reading and checking a stage map. -/
  | smloadGo (n : CombId) (w : RegWrite)
  /-- R200. The stage-map load ends as loaded, or failed with its error code and STAGEMAP_ERR. -/
  | smloadDone (n : CombId)
  /-- R221. A write through the scale-slot window makes its fields pending for the next advance, or clears SILENT at once. -/
  | scaleWindowWrite (off : BitVec 12) (w : RegWrite)
  /-- R229. A write of ARM arms the update list to wait for the step's gate result. -/
  | updArm (sl : SliceId) (w : RegWrite)
  /-- R229. A write to LIST.ADDR, LIST.COUNT or LIST.STEP sets the list, or is ignored with UPD_ARM_IGNORED while armed or running. -/
  | updListWrite (sl : SliceId) (off : BitVec 12) (w : RegWrite)
  /-- R234. The update engine finishes its armed list and writes the new weights and moments. -/
  | updListDone (sl : SliceId)
  /-- R358. CO.RUN issues a collective descriptor to the field's engine, checked at queue entry. -/
  | coRun (u : UnitId) (c : CtxId) (gd ga : RegNo) (imm : BitVec 13)
  /-- R359. CO.WAIT waits for the context's descriptors to complete and writes TAG, flags and code. -/
  | coWait (u : UnitId) (c : CtxId) (gd ga : RegNo) (imm : BitVec 13)
  /-- R359. CO.POLL writes the number of the context's uncompleted collective descriptors. -/
  | coPoll (u : UnitId) (c : CtxId) (gd ga : RegNo) (imm : BitVec 13)
  /-- R374. CO.LWAIT waits until a named layer of a GATHER_AHEAD has been written. -/
  | coLwait (u : UnitId) (c : CtxId) (gd ga : RegNo) (imm : BitVec 13)
  /-- R374. CO.LREL releases the oldest unreleased layer of a GATHER_AHEAD, letting a later layer start. -/
  | coLrel (u : UnitId) (c : CtxId) (gd ga : RegNo) (imm : BitVec 13)
  /-- R358. The engine starts the next queued collective descriptor. -/
  | collStart (f : FieldId)
  /-- R366. A collective descriptor completes and writes its completion record. -/
  | collComplete (f : FieldId) (pos : Nat)
  /-- R361. A write of GLOAD.GO starts loading a group record. -/
  | gloadGo (f : FieldId) (w : RegWrite)
  /-- R361. The group load ends, putting the record in force or pending, or failing with GLOAD_ERR. -/
  | gloadDone (f : FieldId)
  /-- R295. Training of an optical port ends at full width, half width or FAILED. -/
  | portTrainDone (p : PortId) (rep : TrainReport)
  /-- R297. Loss of signal or handshake takes a port down and discards its output and replay buffers. -/
  | portDown (p : PortId) (replay : Nat)
  /-- R296. A port retrains in place after 16 replays within 1 ms or a lane made permanently failed. -/
  | linkRetrain (p : PortId) (replays : Nat) (lane : BitVec 6)
  /-- R300. An endpoint's packet, admitted by its flow window, is stamped with INJ_TIME and EPOCH and enters the router, or is refused. -/
  | packetInject (pk : Packet) (occ : Occupancy)
  /-- R304. A packet arrives at a router input and is routed, detoured, or dropped for age or lack of route. -/
  | packetArrive (p : PortId) (vc : BitVec 5) (pk : Packet) (occ : Occupancy) (bad : Nat)
  /-- R302. An output port, when free, sends the next packet chosen by class priority outside TC0 slots. -/
  | packetForward (p : PortId)
  /-- R309. A packet at its destination is CRC-checked, de-duplicated, handed to its endpoint and acknowledged or NAKed. -/
  | packetDeliver (pk : Packet)
  /-- R312. An ACK retires the acknowledged packets of a flow. -/
  | ackReceive (pk : Packet)
  /-- R316. A NAK completes the refused packet with the code for its cause, without resend. -/
  | nakReceive (pk : Packet)
  /-- R315. A receiver answers RESYNC with RESYNC_ACK and resets the flow's CUM. -/
  | resyncReceive (pk : Packet)
  /-- R315. A RESYNC_ACK carrying the flow's SEQ lets the flow admit packets again. -/
  | resyncAckReceive (pk : Packet)
  /-- R313. A packet unacknowledged for E2E_RTO is resent, or fails the flow after E2E_RETRY resends. -/
  | e2eResend (fl : FlowId) (seq : BitVec 32) (occ : Occupancy)
  /-- R315. An unanswered RESYNC is sent again every E2E_RTO. -/
  | resyncTimeout (fl : FlowId)
  /-- R320. At T + 201,000 ns the draining routing bank is released and becomes writable. -/
  | epochDrainEnd
  /-- R321. A write through the routing bank window updates the idle bank, or raises TABLE_BUSY for a bank in force or draining. -/
  | bankWindowWrite (off : BitVec 12) (w : RegWrite)
  /-- R323. RESET.ROUTER resets the router domain and stops its forwarding. -/
  | routerReset (w : RegWrite)
  /-- R323. The router domain leaves reset within 100 µs and its links start training. -/
  | routerResetDone
  /-- R330. Every 10 µs each link sends a time packet to its neighbour. -/
  | timeExchange (p : PortId)
  /-- R331. A received time packet updates delay, offset, parent choice, root and lock state. -/
  | timePacketReceive (p : PortId) (tp : TimePkt)
  /-- R336. After 40 µs without time packets from the parent the module enters HOLDOVER and re-parents. -/
  | parentTimeout
  /-- R332. A root heartbeat stalled for 2 ms makes the module treat that root as lost. -/
  | rootHeartbeatTimeout
  /-- R332. A candidate that hears of no better candidate for 2 ms enters ROOT. -/
  | rootClaim
  /-- R336. A module in HOLDOVER longer than HOLD_LIMIT enters FREE and raises TIME_LOST. -/
  | holdLimitExpire
  /-- R337. A port excluded from parent choice for 1 s becomes eligible again. -/
  | portExcludeExpire (p : PortId)
  /-- R355. A write of TIME.SET steps the count in FREE with ROOT_PRIO ≥ 1, and is otherwise refused. -/
  | timeSet (w : RegWrite)
  /-- R333. A 1 PPS edge lets an external-reference root slew its count to a whole second. -/
  | ppsEdge
  /-- R333. A time input missing or out of tolerance for 2 s raises EXTREF_LOSS. -/
  | extrefLoss (inp : BitVec 2)
  /-- R353. FREEZE.ARM arms a counter snapshot at FREEZE.AT, or is ignored with FREEZE_LATE. -/
  | freezeArm (w : RegWrite)
  /-- R353. At the armed tick every unit copies its counters into shadows and sets SNAP_ID. -/
  | freezeSnapshot
  /-- R343. A write through the calendar window sets an entry of the idle bank, or raises CAL_BUSY for the bank in force. -/
  | calWindowWrite (p : PortId) (off : BitVec 12) (w : RegWrite)
  /-- R340. A calendar slot opens and sends its TC0 packet, or is released, with late packets demoted. -/
  | calSlotStart (p : PortId) (slot : BitVec 10) (busy : Bool)
  /-- R349. An arrival message from a child counts toward a generation; the root sets the release instant or raises BAR_COUNT. -/
  | barrierArrival (msg : BarMsg)
  /-- R350. A release message schedules the local release instant, or releases at once when late. -/
  | barrierReleaseMessage (msg : BarMsg)
  /-- R350. At T_rel the module releases the generation's participants and starts the next generation. -/
  | barrierRelease (obj : BitVec 12)
  /-- R352. A write through the barrier window sets an idle object after checks, or raises BAR_BUSY. -/
  | barrierWindowWrite (off : BitVec 12) (w : RegWrite)
  /-- R352. A write of DESTROY invalidates the object and ends its waiting entries with DESTROYED. -/
  | barrierDestroy (off : BitVec 12) (w : RegWrite)
  /-- R421. The copy into the reserve ends, the sparing map changes and held accesses proceed. -/
  | spareDone (u : UnitId)
  /-- R399. OPEN starts a digest window in SNOOP or SCAN mode. -/
  | digOpen (e : DigId) (w : RegWrite)
  /-- R399. CLOSE ends snooping and starts the rescans and the root. -/
  | digClose (e : DigId) (w : RegWrite)
  /-- R400. ABORT stops the digest engine without a result. -/
  | digAbort (e : DigId) (w : RegWrite)
  /-- R402. COMPOSE forms RUNDIG from PROG, WSET, INPUT, seed and step. -/
  | digCompose (e : DigId) (w : RegWrite)
  /-- R400. Hashing ends DONE, POISONED or RACED, writing the trailer when requested. -/
  | digestDone (e : DigId)
  /-- R411. CLEAR resets a check unit's CRC, alive state and partial record. -/
  | chkClear (n : ChkId) (w : RegWrite)
  /-- R413. A register parity error reloads the register from the keeper's copy within 1 µs. -/
  | regParity (pg : Page) (off : BitVec 12)
  /-- R426. SLOTIMG.CMD = 1 arms a save of every scale slot at the next advance. -/
  | slotimgSave (w : RegWrite)
  /-- R426. SLOTIMG.CMD = 2 arms a restore of every scale slot and RESBANK at the next advance. -/
  | slotimgRestore (w : RegWrite)
  /-- R429. FW.CMD = 1 starts the check of a new firmware image. -/
  | fwLoad (w : RegWrite)
  /-- R429. The image check ends: written to the idle slot with FW_LOADED, or refused. -/
  | fwVerifyDone
  /-- R429. FW.CMD = 2 requests handover to the loaded image at the keeper's next quiescent point. -/
  | fwActivate (w : RegWrite)
  /-- R432. FW.CMD = 3 aborts a LOAD in progress. -/
  | fwAbort (w : RegWrite)
  /-- R429. At the quiescent point the keeper hands over to the new image, or rolls back if it fails its self-test. -/
  | fwHandover (selfTestOk : Bool)
  /-- R430. An unserviced watchdog resets the keeper. -/
  | watchdogExpire
  /-- R430. A host write of KRESET resets the keeper when its heartbeat echo has stalled, and is otherwise refused. -/
  | kreset (port : HostId) (w : RegWrite)
  /-- R430. The keeper restarts from ROM and resumes within 2 s. -/
  | keeperRestartDone
  /-- R430. A host write of HEARTBEAT arms or disarms heartbeat supervision of its port. -/
  | heartbeat (port : HostId) (w : RegWrite)
  /-- R430. The keeper copies HEARTBEAT to HB_ECHO within 10 ms. -/
  | hbEcho (port : HostId)
  /-- R447. An armed heartbeat unchanged for HB_TIMEOUT_MS puts its port into FAILED. -/
  | hbTimeout (port : HostId)
  /-- R436. A doorbell write sets SQ_TAIL and CQ_HEAD, is ignored, or puts the ring into ERROR. -/
  | doorbell (port : HostId) (ring : BitVec 13) (half : Bool) (bytes : Nat) (val : Word)
  /-- R435. A write of the MSI-X table: unmasking a vector sends its pending message. -/
  | msixUnmask (port : HostId) (w : MsixWrite)
  /-- R438. A write to a DISABLED ring's entry sets its fields, and is otherwise refused. -/
  | ringWindowWrite (off : BitVec 12) (w : RegWrite)
  /-- R438. ENABLE = 1 checks a DISABLED ring and makes it ACTIVE with cleared pointers. -/
  | ringEnable (off : BitVec 12) (w : RegWrite)
  /-- R438. ENABLE = 0 moves an ACTIVE or ERROR ring to DRAINING. -/
  | ringDisable (off : BitVec 12) (w : RegWrite)
  /-- R438. A draining ring becomes DISABLED once every started entry has posted. -/
  | ringDrained (ring : BitVec 13)
  /-- R449. DISCARD on an ORPHANED ring discards its held completions and gives it to the writing port once its entries complete. -/
  | ringDiscard (off : BitVec 12) (w : RegWrite)
  /-- R441. A ring fetches its next submission entry once the previous is placed, FENCE and AT allow, and completion room exists. -/
  | ringFetch (ring : BitVec 13) (d : HostData)
  /-- R440. A NOP entry completes at once. -/
  | ringNop (ring : BitVec 13) (idx : BitVec 32)
  /-- R440. COPY_IN moves LEN bytes from host memory to a module address. -/
  | ringCopyIn (ring : BitVec 13) (idx : BitVec 32) (d : HostData)
  /-- R440. COPY_OUT moves LEN bytes from a module address to host memory. -/
  | ringCopyOut (ring : BitVec 13) (idx : BitVec 32)
  /-- R440. START writes a context's PC and starts it. -/
  | ringStart (ring : BitVec 13) (idx : BitVec 32)
  /-- R440. HALT stops the target context. -/
  | ringHalt (ring : BitVec 13) (idx : BitVec 32)
  /-- R440. WAITSTOP completes when the target context is HALTED or FAULTED. -/
  | ringWaitstop (ring : BitVec 13) (idx : BitVec 32)
  /-- R440. DESC fetches a 128-byte descriptor from the host and places it in a solver or collective queue. -/
  | ringDesc (ring : BitVec 13) (idx : BitVec 32) (d : HostData)
  /-- R444. SEND moves up to 8,128 bytes as one packet to a ring of another module. -/
  | ringSend (ring : BitVec 13) (idx : BitVec 32) (d : HostData)
  /-- R473. A KREQ ATTEST writes the signed attestation report over the nonce. -/
  | kreqAttest (ring : BitVec 13) (idx : BitVec 32)
  /-- R445. A KREQ SPARING_MAP writes the sparing map record in force. -/
  | kreqSparingMap (ring : BitVec 13) (idx : BitVec 32)
  /-- R445. A KREQ FAULT_LOG writes the 256 fault-log entries, oldest first. -/
  | kreqFaultLog (ring : BitVec 13) (idx : BitVec 32)
  /-- R442. A ring entry's target finishes and the 32-byte completion is posted, or held for an orphaned ring. -/
  | ringEntryComplete (ring : BitVec 13) (idx : BitVec 32)
  /-- R442. The oldest unsignalled completion reaching COAL_US sends the ring's interrupt. -/
  | coalTimer (ring : BitVec 13)
  /-- R446. A write of IFLEVEL.MIN and MAX chooses the port's interface level, or 0 with IFLEVEL_NONE. -/
  | iflevelWrite (port : HostId) (w : RegWrite)
  /-- R447. Assertion of a port's PERST puts the port into FAILED at once and orphans its rings. -/
  | perstAssert (port : HostId)
  /-- R447. A host link down for 100 ms puts its port into FAILED. -/
  | linkDownTimeout (port : HostId)
  /-- R448. A failed port with PERST deasserted, link up and heartbeat changing leaves FAILED. -/
  | hostRecovered (port : HostId)
  /-- R452. The rising edge of PWR_OK starts the cold boot, whose steps end in ready. -/
  | powerOn (rep : BootReport)
  /-- R486. PWR_OK falling stops the module within 10 µs, keeping only the module flash. -/
  | powerOff
  /-- R485. Input below 45 V resets the module domain. -/
  | undervoltage (p : PowerReading)
  /-- R461. RESET.COMPUTE writes back the pool, puts memory in self-refresh and resets the compute domain. -/
  | computeReset (w : RegWrite)
  /-- R461. RESET.COMPUTE with BIST also reruns boot step 6. -/
  | computeResetBist (w : RegWrite)
  /-- R461. The compute-domain reset ends and the default region table is applied. -/
  | computeResetDone (rep : BootReport)
  /-- R459. A PLL losing lock raises PLL_UNLOCK and acts on its stack, controller, port or the whole module. -/
  | pllUnlock (pll : BitVec 6)
  /-- R459. A PLL regaining lock raises PLL_RELOCK. -/
  | pllRelock (pll : BitVec 6)
  /-- R463. After IDLE_US with no ready work the compute domain enters Idle. -/
  | idleEnter
  /-- R464. PWR.REQ = 1 asks for Retain, entered once the Idle conditions hold. -/
  | retainRequest (w : RegWrite)
  /-- R464. PWR.REQ = 2 cancels a Retain request or wakes the module from Retain. -/
  | wakeRequest (w : RegWrite)
  /-- R464. The module enters Retain once no work prevents it. -/
  | retainEnter
  /-- R464. The wake from Retain ends within 4 µs and held accesses proceed. -/
  | wakeDone
  /-- R465. Assertion of FORCE_RETAIN_N forces the module into Retain within 1 ms. -/
  | forceRetainAssert
  /-- R465. Deassertion of FORCE_RETAIN_N wakes the module and the contexts continue. -/
  | forceRetainDeassert
  /-- R468. Every 10 µs input power is measured and the cap value moves by one. -/
  | powerCapMeasure (p : PowerReading)
  /-- R468. A field's sensor above T_HOT steps its issue value down each 100 µs, or sets it to 1 above T_HOT + 10 °C. -/
  | thermal (f : FieldId) (tempC : Int)
  /-- R468. After 1 ms above T_HOT + 15 °C the compute domain resets. -/
  | thermalTrip (f : FieldId) (tempC : Int)
  /-- R468. A droop sensor sets its field's issue value to 8 within 4 cycles. -/
  | droop (f : FieldId)
  /-- R468. The droop value recovers by one every 1 µs. -/
  | droopRecovery (f : FieldId)
  /-- R481. A change of TRAY_ID while PWR_OK is high updates KEEP.BOARD. -/
  | trayIdChange (id : BitVec 4)
  /-- R483. An SMBus read returns one status byte by command code. -/
  | smbusRead (code : Byte)
  /-- R484. A UDP datagram on port 4,747 carrying a NOP or KREQ entry is answered by the keeper. -/
  | mgmtDatagram (src : BitVec 64) (data : Bytes)
  /-- R295. An enabled optical port that is DOWN with no peer or signal detects its peer answering and enters TRAINING. -/
  | peerAnswers (p : PortId)
  /-- R447. A host port's PCI Express link goes down, LINK.SPEED reads 0 and the 100 ms down timer starts. -/
  | hostLinkDown (port : HostId)
  /-- R433. A host port's PCI Express link finishes training and HOST.LINK reports speed, width and flit mode. -/
  | hostLinkUp (port : HostId) (speed width : BitVec 4) (flit : Bool)
  /-- R333. The 10 MHz and 1 PPS inputs come back within tolerance and the root resumes disciplining to them. -/
  | extrefReturn
  /-- R285. A lake stack crosses 85 °C, doubling its refresh and setting or clearing LAKE.HOT with REFRESH_HOT. -/
  | refreshHot (stack : BitVec 3) (above : Bool)
  /-- R468. Every 100 µs while a field's hottest sensor stays below T_HOT − 5 °C its thermal issue value rises by 1. -/
  | thermalRecovery (f : FieldId) (tempC : Int)
  /-- R415. A PLL that has not relocked within 10 ms of losing lock is counted as a retry failure. -/
  | pllRelockTimeout (pll : BitVec 6)
  /-- R418. The copy of a failing SRAM row into a spare row ends, the address is redirected and held accesses proceed. -/
  | rowRepairDone (key : BitVec 48)
  /-- R426. The write or read of the scale-slot image ends within 1 ms, replacing the slot state or leaving SLOTIMG.STATE failed. -/
  | slotimgDone
  /-- R463. 1 µs before a known instant (WAIT.TIME, barrier release, scheduled commit, FREEZE) the compute domain begins waking from Idle. -/
  | idleEarlyWake
  /-- R156. A forward solve finishes widening and the initial residual evaluation, sets best and applies the stopping tests before the first iteration. -/
  | initialResidualsDone (n : SolvId)
  /-- R485. The input rail returns above 45 V after an undervoltage lockout reset of the module domain. -/
  | undervoltageRecovery (rep : BootReport)
deriving DecidableEq, Repr

end Sys2Proof
end

