-- ==== Sys2Proof/Decode.lean ====
section
/-! DEFINITION. The table gives no row any bits, so no word spells a command. Beside that, the 32-bit words of the instructions
that a context runs (R123 to R125, and R72, R147, R205, R251, R359 for the groups MX, SV, QU, DM and CO): which row a
word stands for, and the word of such a row. -/

namespace Sys2Proof

/-- The command that a word spells by the table's bits: the table gives bits to no row. -/
def decodeTableWord (_nbits _w : Nat) : Option Instr := none

/-! ## Fields (R72, R123) -/

def fMajor (w : BitVec 32) : Nat := (w.extractLsb' 26 6).toNat
def fD (w : BitVec 32) : RegNo := w.extractLsb' 21 5
def fA (w : BitVec 32) : RegNo := w.extractLsb' 16 5
def fB (w : BitVec 32) : RegNo := w.extractLsb' 11 5
def fFn (w : BitVec 32) : Nat := (w.extractLsb' 0 11).toNat
def fImm12 (w : BitVec 32) : BitVec 12 := w.extractLsb' 0 12
def fOff (w : BitVec 32) : BitVec 13 := w.extractLsb' 0 13
def fSize (w : BitVec 32) : BitVec 3 := w.extractLsb' 13 3
def fPm (w : BitVec 32) : BitVec 3 := w.extractLsb' 8 3
def fFmt (w : BitVec 32) : BitVec 4 := w.extractLsb' 4 4
def fOp (w : BitVec 32) : Nat := (w.extractLsb' 0 4).toNat
/-- FUNC, GA and GD of the MX layout. -/
def fFunc (w : BitVec 32) : Nat := (w.extractLsb' 23 3).toNat
def fGa (w : BitVec 32) : RegNo := w.extractLsb' 18 5
def fGd (w : BitVec 32) : RegNo := w.extractLsb' 13 5

/-! ## Groups (R124, R125) -/

/-- ALU register functions. -/
def decodeAlu (u : UnitId) (c : CtxId) (w : BitVec 32) : Option Instr :=
  let k := fun (f : UnitId → CtxId → RegNo → RegNo → RegNo → Instr) => some (f u c (fD w) (fA w) (fB w))
  match fFn w with
  | 0x000 => k .add | 0x001 => k .sub | 0x002 => k .and | 0x003 => k .or | 0x004 => k .xor | 0x005 => k .sll
  | 0x006 => k .srl | 0x007 => k .sra | 0x008 => k .slt | 0x009 => k .sltu | 0x00A => k .mul | 0x00B => k .mulh
  | 0x00C => k .mulhu
  | _ => none

/-- ALU immediate functions. -/
def decodeAluImm (u : UnitId) (c : CtxId) (w : BitVec 32) : Option Instr :=
  let k := fun (f : UnitId → CtxId → RegNo → RegNo → BitVec 12 → Instr) => some (f u c (fD w) (fA w) (fImm12 w))
  match (w.extractLsb' 12 4).toNat with
  | 0x0 => k .addi | 0x1 => k .andi | 0x2 => k .ori | 0x3 => k .xori | 0x4 => k .slli | 0x5 => k .srli
  | 0x6 => k .srai | 0x7 => k .slti | 0x8 => k .sltiu | 0x9 => k .jalr | 0xA => k .oriu
  | _ => none

/-- System functions. -/
def decodeSystem (u : UnitId) (c : CtxId) (w : BitVec 32) : Option Instr :=
  let k := fun (f : UnitId → CtxId → RegNo → RegNo → RegNo → Instr) => some (f u c (fD w) (fA w) (fB w))
  match fFn w with
  | 0x000 => k .yield | 0x001 => k .halt | 0x010 => k .waitDma | 0x011 => k .waitQin | 0x012 => k .waitQout
  | 0x013 => k .waitBar | 0x014 => k .waitTime | 0x020 => k .fenceL | 0x021 => k .fenceC | 0x022 => k .fenceD
  | 0x023 => k .fenceG | 0x030 => k .flagrd | 0x031 => k .flagclr | 0x040 => k .vpdn | 0x041 => k .vrand
  | 0x050 => k .timerd
  | _ => none

/-- Vector arithmetic, with SAT from MAJOR bit 28. -/
def decodeVector (u : UnitId) (c : CtxId) (sat : Bool) (w : BitVec 32) : Option Instr :=
  let k := fun (f : UnitId → CtxId → Bool → RegNo → RegNo → RegNo → BitVec 3 → BitVec 4 → Instr) =>
    some (f u c sat (fD w) (fA w) (fB w) (fPm w) (fFmt w))
  match fOp w with
  | 0x0 => k .vadd | 0x1 => k .vsub | 0x2 => k .vmul | 0x3 => k .vfma | 0x4 => k .vmin | 0x5 => k .vmax
  | 0x6 => k .vabs | 0x7 => k .vcmul | 0x8 => k .vcmulc | 0x9 => k .vcmpeq | 0xA => k .vcmplt | 0xB => k .vcvt
  | 0xC => k .vsel
  | _ => none

/-- Vector memory. -/
def decodeVecMem (u : UnitId) (c : CtxId) (w : BitVec 32) : Option Instr :=
  let k := fun (f : UnitId → CtxId → RegNo → RegNo → RegNo → BitVec 3 → BitVec 4 → Instr) =>
    some (f u c (fD w) (fA w) (fB w) (fPm w) (fFmt w))
  match fOp w with
  | 0x0 => k .vld | 0x1 => k .vst | 0x2 => k .vld2 | 0x3 => k .vld3 | 0x4 => k .vld4 | 0x5 => k .vst2
  | 0x6 => k .vst3 | 0x7 => k .vst4
  | _ => none

/-- Vector configuration. -/
def decodeVecCfg (u : UnitId) (c : CtxId) (w : BitVec 32) : Option Instr :=
  let k := fun (f : UnitId → CtxId → RegNo → RegNo → RegNo → BitVec 4 → Instr) => some (f u c (fD w) (fA w) (fB w) (fFmt w))
  match fOp w with
  | 0x0 => k .vsetvl | 0x1 => k .vsetsr | 0x2 => k .vbcast
  | _ => none

/-- Vector reduction; bits [15:4] are handed on, and the meaning refuses them when they are not zero. -/
def decodeVecRed (u : UnitId) (c : CtxId) (w : BitVec 32) : Option Instr :=
  match fOp w with
  | 0x0 => some (.vredsum u c (fD w) (fA w) (w.extractLsb' 4 12))
  | 0x1 => some (.vtopk u c (fD w) (fA w) (w.extractLsb' 4 12))
  | _ => none

/-- The groups of the MX layout: MX, SV, DM, CO and QU. -/
def decodeDesc (u : UnitId) (c : CtxId) (fs : List (UnitId → CtxId → RegNo → RegNo → BitVec 13 → Instr)) (w : BitVec 32) :
    Option Instr :=
  (fs[fFunc w]?).map (fun f => f u c (fGd w) (fGa w) (fOff w))

/-- The row that a word at the PC of context c of unit u stands for; none for a word that is illegal under R121 by its
MAJOR, function or operation code. -/
def decodeWord (u : UnitId) (c : CtxId) (w : BitVec 32) : Option Instr :=
  match fMajor w with
  | 0b000001 => decodeAlu u c w
  | 0b000010 => decodeAluImm u c w
  | 0b000011 => some (.loadUpper u c (fD w) (w.extractLsb' 0 16))
  | 0b000100 => some (.load u c (fD w) (fA w) (fSize w) (fOff w))
  | 0b000101 => some (.store u c (fD w) (fA w) (fSize w) (fOff w))
  | 0b000110 => some (.branch u c (fD w) (fA w) (fSize w) (fOff w))
  | 0b000111 => some (.jumpAndLink u c (fD w) (w.extractLsb' 0 21))
  | 0b001000 => decodeSystem u c w
  | 0b101010 => decodeDesc u c [.coRun, .coWait, .coPoll, .coLwait, .coLrel] w
  | 0b101100 => decodeDesc u c [.dmRun, .dmPoll] w
  | 0b101101 => decodeDesc u c [.mxRun, .mxWait, .mxPoll] w
  | 0b101110 => decodeDesc u c [.svRun, .svWait, .svPoll] w
  | 0b101111 => decodeDesc u c [.quPslot, .quPush, .quCslot, .quPop, .quLevel] w
  | 0b110000 => decodeVector u c false w
  | 0b110100 => decodeVector u c true w
  | 0b110001 => decodeVecMem u c w
  | 0b110010 => decodeVecCfg u c w
  | 0b110011 => decodeVecRed u c w
  | _ => none

/-! ## The word of an instruction -/

def wReg (maj : BitVec 6) (d a b : RegNo) (fn : BitVec 11) : BitVec 32 := maj ++ d ++ a ++ b ++ fn
def wImm (fn : BitVec 4) (d a : RegNo) (imm : BitVec 12) : BitVec 32 := 0b000010#6 ++ d ++ a ++ fn ++ imm
def wOff (maj : BitVec 6) (d a : RegNo) (size : BitVec 3) (off : BitVec 13) : BitVec 32 := maj ++ d ++ a ++ size ++ off
def wVec (sat : Bool) (d a b : RegNo) (pm : BitVec 3) (fmt op : BitVec 4) : BitVec 32 :=
  (if sat then 0b110100#6 else 0b110000#6) ++ d ++ a ++ b ++ pm ++ fmt ++ op
def wVMem (d a s : RegNo) (pm : BitVec 3) (fmt op : BitVec 4) : BitVec 32 := 0b110001#6 ++ d ++ a ++ s ++ pm ++ fmt ++ op
def wCfg (d a b : RegNo) (fmt op : BitVec 4) : BitVec 32 := 0b110010#6 ++ d ++ a ++ b ++ 0#3 ++ fmt ++ op
def wRed (d a : RegNo) (rest : BitVec 12) (op : BitVec 4) : BitVec 32 := 0b110011#6 ++ d ++ a ++ rest ++ op
def wDesc (maj : BitVec 6) (func : BitVec 3) (ga gd : RegNo) (imm : BitVec 13) : BitVec 32 := maj ++ func ++ ga ++ gd ++ imm

/-- The unit, the context and the word of a row that is an instruction of a context; none for the other rows. -/
def encode : Instr → Option (UnitId × CtxId × BitVec 32)
  | .add u c d a b => some (u, c, wReg 0b000001 d a b 0x000)
  | .sub u c d a b => some (u, c, wReg 0b000001 d a b 0x001)
  | .and u c d a b => some (u, c, wReg 0b000001 d a b 0x002)
  | .or u c d a b => some (u, c, wReg 0b000001 d a b 0x003)
  | .xor u c d a b => some (u, c, wReg 0b000001 d a b 0x004)
  | .sll u c d a b => some (u, c, wReg 0b000001 d a b 0x005)
  | .srl u c d a b => some (u, c, wReg 0b000001 d a b 0x006)
  | .sra u c d a b => some (u, c, wReg 0b000001 d a b 0x007)
  | .slt u c d a b => some (u, c, wReg 0b000001 d a b 0x008)
  | .sltu u c d a b => some (u, c, wReg 0b000001 d a b 0x009)
  | .mul u c d a b => some (u, c, wReg 0b000001 d a b 0x00A)
  | .mulh u c d a b => some (u, c, wReg 0b000001 d a b 0x00B)
  | .mulhu u c d a b => some (u, c, wReg 0b000001 d a b 0x00C)
  | .addi u c d a i => some (u, c, wImm 0x0 d a i)
  | .andi u c d a i => some (u, c, wImm 0x1 d a i)
  | .ori u c d a i => some (u, c, wImm 0x2 d a i)
  | .xori u c d a i => some (u, c, wImm 0x3 d a i)
  | .slli u c d a i => some (u, c, wImm 0x4 d a i)
  | .srli u c d a i => some (u, c, wImm 0x5 d a i)
  | .srai u c d a i => some (u, c, wImm 0x6 d a i)
  | .slti u c d a i => some (u, c, wImm 0x7 d a i)
  | .sltiu u c d a i => some (u, c, wImm 0x8 d a i)
  | .jalr u c d a i => some (u, c, wImm 0x9 d a i)
  | .oriu u c d a i => some (u, c, wImm 0xA d a i)
  | .loadUpper u c d i => some (u, c, 0b000011#6 ++ d ++ 0#5 ++ i)
  | .load u c d a z o => some (u, c, wOff 0b000100 d a z o)
  | .store u c d a z o => some (u, c, wOff 0b000101 d a z o)
  | .branch u c a b z o => some (u, c, wOff 0b000110 a b z o)
  | .jumpAndLink u c d o => some (u, c, 0b000111#6 ++ d ++ o)
  | .yield u c d a b => some (u, c, wReg 0b001000 d a b 0x000)
  | .halt u c d a b => some (u, c, wReg 0b001000 d a b 0x001)
  | .waitDma u c d a b => some (u, c, wReg 0b001000 d a b 0x010)
  | .waitQin u c d a b => some (u, c, wReg 0b001000 d a b 0x011)
  | .waitQout u c d a b => some (u, c, wReg 0b001000 d a b 0x012)
  | .waitBar u c d a b => some (u, c, wReg 0b001000 d a b 0x013)
  | .waitTime u c d a b => some (u, c, wReg 0b001000 d a b 0x014)
  | .fenceL u c d a b => some (u, c, wReg 0b001000 d a b 0x020)
  | .fenceC u c d a b => some (u, c, wReg 0b001000 d a b 0x021)
  | .fenceD u c d a b => some (u, c, wReg 0b001000 d a b 0x022)
  | .fenceG u c d a b => some (u, c, wReg 0b001000 d a b 0x023)
  | .flagrd u c d a b => some (u, c, wReg 0b001000 d a b 0x030)
  | .flagclr u c d a b => some (u, c, wReg 0b001000 d a b 0x031)
  | .vpdn u c d a b => some (u, c, wReg 0b001000 d a b 0x040)
  | .vrand u c d a b => some (u, c, wReg 0b001000 d a b 0x041)
  | .timerd u c d a b => some (u, c, wReg 0b001000 d a b 0x050)
  | .vadd u c s d a b p f => some (u, c, wVec s d a b p f 0x0)
  | .vsub u c s d a b p f => some (u, c, wVec s d a b p f 0x1)
  | .vmul u c s d a b p f => some (u, c, wVec s d a b p f 0x2)
  | .vfma u c s d a b p f => some (u, c, wVec s d a b p f 0x3)
  | .vmin u c s d a b p f => some (u, c, wVec s d a b p f 0x4)
  | .vmax u c s d a b p f => some (u, c, wVec s d a b p f 0x5)
  | .vabs u c s d a b p f => some (u, c, wVec s d a b p f 0x6)
  | .vcmul u c s d a b p f => some (u, c, wVec s d a b p f 0x7)
  | .vcmulc u c s d a b p f => some (u, c, wVec s d a b p f 0x8)
  | .vcmpeq u c s d a b p f => some (u, c, wVec s d a b p f 0x9)
  | .vcmplt u c s d a b p f => some (u, c, wVec s d a b p f 0xA)
  | .vcvt u c s d a b p f => some (u, c, wVec s d a b p f 0xB)
  | .vsel u c s d a b p f => some (u, c, wVec s d a b p f 0xC)
  | .vld u c d a g p f => some (u, c, wVMem d a g p f 0x0)
  | .vst u c d a g p f => some (u, c, wVMem d a g p f 0x1)
  | .vld2 u c d a g p f => some (u, c, wVMem d a g p f 0x2)
  | .vld3 u c d a g p f => some (u, c, wVMem d a g p f 0x3)
  | .vld4 u c d a g p f => some (u, c, wVMem d a g p f 0x4)
  | .vst2 u c d a g p f => some (u, c, wVMem d a g p f 0x5)
  | .vst3 u c d a g p f => some (u, c, wVMem d a g p f 0x6)
  | .vst4 u c d a g p f => some (u, c, wVMem d a g p f 0x7)
  | .vsetvl u c d a b f => some (u, c, wCfg d a b f 0x0)
  | .vsetsr u c d a b f => some (u, c, wCfg d a b f 0x1)
  | .vbcast u c d a b f => some (u, c, wCfg d a b f 0x2)
  | .vredsum u c d a r => some (u, c, wRed d a r 0x0)
  | .vtopk u c d a r => some (u, c, wRed d a r 0x1)
  | .mxRun u c d a i => some (u, c, wDesc 0b101101 0 a d i)
  | .mxWait u c d a i => some (u, c, wDesc 0b101101 1 a d i)
  | .mxPoll u c d a i => some (u, c, wDesc 0b101101 2 a d i)
  | .svRun u c d a i => some (u, c, wDesc 0b101110 0 a d i)
  | .svWait u c d a i => some (u, c, wDesc 0b101110 1 a d i)
  | .svPoll u c d a i => some (u, c, wDesc 0b101110 2 a d i)
  | .dmRun u c d a i => some (u, c, wDesc 0b101100 0 a d i)
  | .dmPoll u c d a i => some (u, c, wDesc 0b101100 1 a d i)
  | .coRun u c d a i => some (u, c, wDesc 0b101010 0 a d i)
  | .coWait u c d a i => some (u, c, wDesc 0b101010 1 a d i)
  | .coPoll u c d a i => some (u, c, wDesc 0b101010 2 a d i)
  | .coLwait u c d a i => some (u, c, wDesc 0b101010 3 a d i)
  | .coLrel u c d a i => some (u, c, wDesc 0b101010 4 a d i)
  | .quPslot u c d a i => some (u, c, wDesc 0b101111 0 a d i)
  | .quPush u c d a i => some (u, c, wDesc 0b101111 1 a d i)
  | .quCslot u c d a i => some (u, c, wDesc 0b101111 2 a d i)
  | .quPop u c d a i => some (u, c, wDesc 0b101111 3 a d i)
  | .quLevel u c d a i => some (u, c, wDesc 0b101111 4 a d i)
  | .stagedWrite .. | .commitGo .. | .commitCheckDone .. | .commitAbort .. | .commitApply .. | .ownerWrite ..
  | .eventClear .. | .eventInject .. | .registerWrite .. | .waitTimeExpire .. | .vreduceDone .. | .vstateMoveDone ..
  | .vectorIdlePowerDown .. | .vectorWakeDone .. | .ctxStart .. | .ctxHalt .. | .ctxReset .. | .ctxPcWrite ..
  | .mxDispatch .. | .mxComplete .. | .solverDispatch .. | .solveIterationEnd .. | .solveComplete ..
  | .descriptorExpire .. | .backwardComplete .. | .dmaStart .. | .dmaComplete .. | .dmaStarve .. | .poolAccess ..
  | .ordNextWrite .. | .poolScratchApply .. | .regionRemapApply | .memoryBlockRead .. | .patrolScrub ..
  | .laneRetrainDone .. | .channelCopyDone .. | .hostWindowAccess .. | .moverStart .. | .moverDeliver ..
  | .smloadGo .. | .smloadDone .. | .scaleWindowWrite .. | .updArm .. | .updListWrite .. | .updListDone ..
  | .collStart .. | .collComplete .. | .gloadGo .. | .gloadDone .. | .portTrainDone .. | .portDown ..
  | .linkRetrain .. | .packetInject .. | .packetArrive .. | .packetForward .. | .packetDeliver .. | .ackReceive ..
  | .nakReceive .. | .resyncReceive .. | .resyncAckReceive .. | .e2eResend .. | .resyncTimeout .. | .epochDrainEnd
  | .bankWindowWrite .. | .routerReset .. | .routerResetDone | .timeExchange .. | .timePacketReceive ..
  | .parentTimeout | .rootHeartbeatTimeout | .rootClaim | .holdLimitExpire | .portExcludeExpire .. | .timeSet ..
  | .ppsEdge | .extrefLoss .. | .freezeArm .. | .freezeSnapshot | .calWindowWrite .. | .calSlotStart ..
  | .barrierArrival .. | .barrierReleaseMessage .. | .barrierRelease .. | .barrierWindowWrite .. | .barrierDestroy ..
  | .spareDone .. | .digOpen .. | .digClose .. | .digAbort .. | .digCompose .. | .digestDone .. | .chkClear ..
  | .regParity .. | .slotimgSave .. | .slotimgRestore .. | .fwLoad .. | .fwVerifyDone | .fwActivate .. | .fwAbort ..
  | .fwHandover .. | .watchdogExpire | .kreset .. | .keeperRestartDone | .heartbeat .. | .hbEcho .. | .hbTimeout ..
  | .doorbell .. | .msixUnmask .. | .ringWindowWrite .. | .ringEnable .. | .ringDisable .. | .ringDrained ..
  | .ringDiscard .. | .ringFetch .. | .ringNop .. | .ringCopyIn .. | .ringCopyOut .. | .ringStart .. | .ringHalt ..
  | .ringWaitstop .. | .ringDesc .. | .ringSend .. | .kreqAttest .. | .kreqSparingMap .. | .kreqFaultLog ..
  | .ringEntryComplete .. | .coalTimer .. | .iflevelWrite .. | .perstAssert .. | .linkDownTimeout ..
  | .hostRecovered .. | .powerOn .. | .powerOff | .undervoltage .. | .computeReset .. | .computeResetBist ..
  | .computeResetDone .. | .pllUnlock .. | .pllRelock .. | .idleEnter | .retainRequest .. | .wakeRequest ..
  | .retainEnter | .wakeDone | .forceRetainAssert | .forceRetainDeassert | .powerCapMeasure .. | .thermal ..
  | .thermalTrip .. | .droop .. | .droopRecovery .. | .trayIdChange .. | .smbusRead .. | .mgmtDatagram ..
  | .peerAnswers .. | .hostLinkDown .. | .hostLinkUp .. | .extrefReturn | .refreshHot .. | .thermalRecovery ..
  | .pllRelockTimeout .. | .rowRepairDone .. | .slotimgDone | .idleEarlyWake | .initialResidualsDone ..
  | .undervoltageRecovery .. => none

end Sys2Proof
end

