-- ==== Sys2Proof/Machine/Bits.lean ====
section
/-! DEFINITION. Bit fields (R3, R4), sign extension (R124) and byte order (R3). -/

namespace Sys2Proof.Machine

/-- Bits hi down to lo of a number. -/
def natBits (n hi lo : Nat) : Nat := n >>> lo % 2 ^ (hi + 1 - lo)

/-- Field [hi:lo] of a word, R4. -/
def fld (w : Word) (hi lo : Nat) : Nat := natBits w.toNat hi lo

/-- One bit of a word. -/
def bit (w : Word) (i : Nat) : Bool := w.toNat.testBit i

/-- The mask of field [hi:lo]. -/
def maskNat (hi lo : Nat) : Nat := (2 ^ (hi + 1 - lo) - 1) <<< lo

/-- The mask of field [hi:lo] as a word. -/
def mask (hi lo : Nat) : Word := BitVec.ofNat 64 (maskNat hi lo)

/-- Replace field [hi:lo] of a word. -/
def setFld (w : Word) (hi lo v : Nat) : Word :=
  (w &&& ~~~(mask hi lo)) ||| (BitVec.ofNat 64 ((v % 2 ^ (hi + 1 - lo)) <<< lo))

/-- A truth value as a number. -/
def b2n (b : Bool) : Nat := if b then 1 else 0

/-- A natural number as a word, modulo 2^64. -/
def w64 (n : Nat) : Word := BitVec.ofNat 64 n

/-- The number that the low w bits of n stand for in two's complement (R45, R123). -/
def sextNat (w n : Nat) : Int :=
  let m := n % 2 ^ w
  if w ≠ 0 ∧ 2 ^ (w - 1) ≤ m then (m : Int) - (2 ^ w : Nat) else (m : Int)

/-- Two's complement of an integer in w bits. -/
def wrapInt (w : Nat) (i : Int) : Nat := (i % (2 ^ w : Nat)).toNat

/-- The number held by bytes, lowest first (R3). -/
def ofBytes : Bytes → Nat
  | [] => 0
  | b :: bs => b.toNat + 256 * ofBytes bs

/-- The n low bytes of a number, lowest first (R3). -/
def toBytes : Nat → Nat → Bytes
  | 0, _ => []
  | n + 1, v => BitVec.ofNat 8 v :: toBytes n (v / 256)

/-- The little-endian 64-bit words of a list of bytes. -/
def wordsOf : Nat → Bytes → List Nat
  | 0, _ => []
  | n + 1, bs => ofBytes (bs.take 8) :: wordsOf n (bs.drop 8)

/-- Word k of a list of words. -/
def wordAt (ws : List Nat) (k : Nat) : Nat := ws.getD k 0

/-- Field [hi:lo] of word k. -/
def wfld (ws : List Nat) (k hi lo : Nat) : Nat := natBits (wordAt ws k) hi lo

/-- Bit i of word k. -/
def wbit (ws : List Nat) (k i : Nat) : Bool := (wordAt ws k).testBit i

/-- Division rounding up. -/
def ceilDiv (a b : Nat) : Nat := (a + b - 1) / b

/-- The numbers from 0 to n − 1. -/
def upTo (n : Nat) : List Nat := List.range n

/-- Add a run to a list of runs that are rising and apart. -/
def addRun (s e : Nat) : List (Nat × Nat) → List (Nat × Nat)
  | [] => [(s, e)]
  | (a, b) :: l =>
    if e < a then (s, e) :: (a, b) :: l
    else if b < s then (a, b) :: addRun s e l
    else addRun (min s a) (max e b) l

end Sys2Proof.Machine
end

