-- ==== Sys2Proof/Machine/Crypto.lean ====
section
/-! DEFINITION. The algorithms that the spec takes from published standards: AES-128 (FIPS 197, R396), SHA-256 (FIPS 180-4,
R398, R470), CRCs (R314, R404), and the check of an RSASSA signature (R470). -/

namespace Sys2Proof.Machine

/-! ## AES-128 -/

/-- The S-box of FIPS 197: entry i in bits [8i+7:8i]. -/
def aesSboxBits : Nat :=
  (0x75b227ebe28012079a059618c323c7041531d871f1e5a534ccf73f362693fdb7c072a49cafa2d4adf04759fa7dc982ca76abd7fe2b670130c56f6bf27b777c63 <<< 0) +
  (0xd2f3ff1021dab6bcf5389d928f40a351a89f3c507f02f94585334d43fbaaefd0cf584c4a39becb6a5bb1fc20ed00d153842fe329b3d63b52a05a6e1b1a2c8309 <<< 512) +
  (0x08ae7a65eaf4566ca94ed58d6d37c8e779e4959162acd3c25c2406490a3a32e0db0b5ede14b8ee4688902a22dc4f816073195d643d7ea7c41744975fec130ccd <<< 1024) +
  (0x16bb54b00f2d99416842e6bf0d89a18cdf2855cee9871e9b948ed9691198f8e19e1dc186b95735610ef6034866b53e708a8bbd4b1f74dde8c6b4a61c2e2578ba <<< 1536)

def aesSbox (b : Nat) : Nat := natBits aesSboxBits (8 * b + 7) (8 * b)

/-- Multiplication by x in GF(2^8). -/
def aesXtime (a : Nat) : Nat := if 128 ≤ a then (2 * a % 256) ^^^ 0x1B else 2 * a

def xorBytes (a b : List Nat) : List Nat := List.zipWith (fun x y => x ^^^ y) a b

/-- One round of key expansion: the next 16 bytes of round key. -/
def aesNextKey (rcon : Nat) (k : List Nat) : List Nat :=
  let t := [aesSbox (k.getD 13 0) ^^^ rcon, aesSbox (k.getD 14 0), aesSbox (k.getD 15 0), aesSbox (k.getD 12 0)]
  let w0 := xorBytes (k.take 4) t
  let w1 := xorBytes ((k.drop 4).take 4) w0
  let w2 := xorBytes ((k.drop 8).take 4) w1
  let w3 := xorBytes (k.drop 12) w2
  w0 ++ w1 ++ w2 ++ w3

def aesShiftRows (s : List Nat) : List Nat :=
  (upTo 16).map (fun i => s.getD ((i + 4 * (i % 4)) % 16) 0)

def aesMixColumn (c : List Nat) : List Nat :=
  let a := fun i => c.getD (i % 4) 0
  (upTo 4).map (fun i => aesXtime (a i) ^^^ (aesXtime (a (i + 1)) ^^^ a (i + 1)) ^^^ a (i + 2) ^^^ a (i + 3))

def aesMixColumns (s : List Nat) : List Nat :=
  aesMixColumn (s.take 4) ++ aesMixColumn ((s.drop 4).take 4) ++ aesMixColumn ((s.drop 8).take 4) ++ aesMixColumn (s.drop 12)

/-- The rounds after the first key addition; the last one has no MixColumns. -/
def aesRounds : List Nat → List Nat → List Nat → List Nat
  | [], _, s => s
  | rc :: rcs, k, s =>
    let k' := aesNextKey rc k
    let t := aesShiftRows (s.map aesSbox)
    aesRounds rcs k' (xorBytes (if rcs.isEmpty then t else aesMixColumns t) k')

/-- AES-128 of one block of 16 bytes. -/
def aes128 (key blk : List Nat) : List Nat :=
  aesRounds [0x01, 0x02, 0x04, 0x08, 0x10, 0x20, 0x40, 0x80, 0x1B, 0x36] key (xorBytes blk key)

/-- The n low bytes of a number. -/
def natBytes (n v : Nat) : List Nat := (toBytes n v).map BitVec.toNat

/-- The number held by bytes, lowest first. -/
def bytesNat (l : List Nat) : Nat := l.foldr (fun b a => b + 256 * a) 0

/-- A block of the spring: counter STREAM · 2^64 + INDEX under the seed as key (R109, R396). -/
def springBlock (seed stream index : Nat) : Nat :=
  bytesNat (aes128 (natBytes 16 seed) (natBytes 16 (stream % 2 ^ 64 * 2 ^ 64 + index % 2 ^ 64)))

/-- STREAM of R109. -/
def springStream (use tensor step : Nat) : Nat := use % 16 * 2 ^ 60 + tensor % 2 ^ 20 * 2 ^ 40 + step % 2 ^ 40

/-- The 24 random bits of element e of a stream (R109). -/
def springR (seed stream e : Nat) : Nat :=
  let e := e % 2 ^ 64
  natBits (springBlock seed stream (e / 5)) (24 * (e % 5) + 23) (24 * (e % 5))

/-! ## SHA-256 -/

/-- The round constants of FIPS 180-4: constant i in bits [32i+31:32i]. -/
def shaKBits : Nat :=
  (0xc19bf1749bdc06a780deb1fe72be5d74550c7dc3243185be12835b01d807aa98ab1c5ed5923f82a459f111f13956c25be9b5dba5b5c0fbcf71374491428a2f98 <<< 0) +
  (0x1429296706ca6351d5a79147c6e00bf3bf597fc7b00327c8a831c66d983e515276f988da5cb0a9dc4a7484aa2de92c6f240ca1cc0fc19dc6efbe4786e49b69c1 <<< 512) +
  (0x106aa070f40e3585d6990624d192e819c76c51a3c24b8b70a81a664ba2bfe8a192722c8581c2c92e766a0abb650a735453380d134d2c6dfc2e1b213827b70a85 <<< 1024) +
  (0xc67178f2bef9a3f7a4506ceb90befffa8cc7020884c8781478a5636f748f82ee682e6ff35b9cca4f4ed8aa4a391c0cb334b0bcb52748774c1e376c0819a4c116 <<< 1536)

/-- The initial hash value of FIPS 180-4. -/
def shaH0Bits : Nat :=
  (0x00000000000000000000000000000000000000000000000000000000000000005be0cd191f83d9ab9b05688c510e527fa54ff53a3c6ef372bb67ae856a09e667 <<< 0)

def rotr32 (x n : Nat) : Nat := (x >>> n ||| x <<< (32 - n)) % 2 ^ 32

/-- The message schedule, latest word first, extended by n words. -/
def shaSchedule : Nat → List Nat → List Nat
  | 0, w => w
  | n + 1, w =>
    let a := w.getD 1 0
    let b := w.getD 14 0
    let s1 := rotr32 a 17 ^^^ rotr32 a 19 ^^^ a >>> 10
    let s0 := rotr32 b 7 ^^^ rotr32 b 18 ^^^ b >>> 3
    shaSchedule n (((s1 + w.getD 6 0 + s0 + w.getD 15 0) % 2 ^ 32) :: w)

/-- One round on the working variables a to h. -/
def shaRound (v : List Nat) (kw : Nat) : List Nat :=
  let a := v.getD 0 0
  let b := v.getD 1 0
  let c := v.getD 2 0
  let e := v.getD 4 0
  let f := v.getD 5 0
  let g := v.getD 6 0
  let t1 := v.getD 7 0 + (rotr32 e 6 ^^^ rotr32 e 11 ^^^ rotr32 e 25) + ((e &&& f) ^^^ ((2 ^ 32 - 1 - e) &&& g)) + kw
  let t2 := (rotr32 a 2 ^^^ rotr32 a 13 ^^^ rotr32 a 22) + ((a &&& b) ^^^ (a &&& c) ^^^ (b &&& c))
  [(t1 + t2) % 2 ^ 32, a, b, c, (v.getD 3 0 + t1) % 2 ^ 32, e, f, g]

/-- The rounds with their constants. -/
def shaRounds : Nat → List Nat → List Nat → List Nat
  | _, [], v => v
  | i, w :: ws, v => shaRounds (i + 1) ws (shaRound v (natBits shaKBits (32 * i + 31) (32 * i) + w))

/-- The sixteen big-endian words of a block of 64 bytes. -/
def shaWords : Nat → List Nat → List Nat
  | 0, _ => []
  | n + 1, b => (b.getD 0 0 * 2 ^ 24 + b.getD 1 0 * 2 ^ 16 + b.getD 2 0 * 2 ^ 8 + b.getD 3 0) :: shaWords n (b.drop 4)

/-- One block. -/
def shaBlock (h : List Nat) (blk : List Nat) : List Nat :=
  let w := (shaSchedule 48 (shaWords 16 blk).reverse).reverse
  List.zipWith (fun x y => (x + y) % 2 ^ 32) h (shaRounds 0 w h)

/-- The blocks of a padded message; n bounds their number. -/
def shaBlocks : Nat → List Nat → List Nat → List Nat
  | 0, h, _ => h
  | n + 1, h, m => if m.isEmpty then h else shaBlocks n (shaBlock h (m.take 64)) (m.drop 64)

/-- Padding of FIPS 180-4. -/
def shaPad (m : List Nat) : List Nat :=
  let l := m.length
  m ++ [0x80] ++ List.replicate ((119 - l % 64) % 64) 0 ++ (natBytes 8 (8 * l)).reverse

/-- SHA-256 of a message, as 32 bytes in the order of the standard. -/
def sha256 (m : List Nat) : List Nat :=
  let p := shaPad m
  let h0 := (upTo 8).map (fun i => natBits shaH0Bits (32 * i + 31) (32 * i))
  ((shaBlocks (p.length / 64) h0 p).map (fun w => (natBytes 4 w).reverse)).flatten

/-! ## CRC -/

/-- Parameters of a CRC: width, polynomial, initial value, input and output reflection, final XOR. -/
structure CrcParams where
  width : Nat
  poly : Nat
  init : Nat
  refIn : Bool
  refOut : Bool
  xorOut : Nat
deriving DecidableEq, Repr

/-- Reverse the low w bits. -/
def reflect : Nat → Nat → Nat
  | 0, _ => 0
  | w + 1, n => (if n.testBit 0 then 2 ^ w else 0) + reflect w (n / 2)

/-- Feed one bit, most significant first. -/
def crcBit (p : CrcParams) (r : Nat) (b : Bool) : Nat :=
  let top := r.testBit (p.width - 1)
  let r' := 2 * r % 2 ^ p.width
  if top != b then r' ^^^ p.poly else r'

/-- Feed one byte. -/
def crcByte (p : CrcParams) (r b : Nat) : Nat :=
  (upTo 8).foldl (fun r i => crcBit p r (b.testBit (if p.refIn then i else 7 - i))) r

def crcFeed (p : CrcParams) (r : Nat) (bs : List Nat) : Nat := bs.foldl (crcByte p) r

/-- The value that a register stands for. -/
def crcOut (p : CrcParams) (r : Nat) : Nat := (if p.refOut then reflect p.width r else r) ^^^ p.xorOut

/-- CRC-32C of R314. -/
def crc32c : CrcParams := ⟨32, 0x1EDC6F41, 0xFFFFFFFF, true, true, 0xFFFFFFFF⟩

def crcOf (p : CrcParams) (bs : List Nat) : Nat := crcOut p (crcFeed p p.init bs)

/-! ## Modular arithmetic of RSA -/

/-- b^e mod n, with the bits of e taken from the lowest; fuel is the number of bits. -/
def powMod (n : Nat) : Nat → Nat → Nat → Nat
  | 0, _, _ => 1 % n
  | k + 1, b, e =>
    let r := powMod n k (b * b % n) (e / 2)
    if e % 2 = 1 then b * r % n else r

end Sys2Proof.Machine
end

