-- ==== Sys2Proof/Machine/Flags.lean ====
section
/-! DEFINITION. The numeric flags of R66, in the bit order of NUMCTL.FLAGS (R137). -/

namespace Sys2Proof.Machine.Flag

def invalid : BitVec 8 := 0x01
def divzero : BitVec 8 := 0x02
def overflow : BitVec 8 := 0x04
def saturated : BitVec 8 := 0x08
def wrapped : BitVec 8 := 0x10
def underflow : BitVec 8 := 0x20
def flushed : BitVec 8 := 0x40
def inexact : BitVec 8 := 0x80

/-- A flag when a condition holds. -/
def when (c : Bool) (f : BitVec 8) : BitVec 8 := if c then f else 0

end Sys2Proof.Machine.Flag
end

