-- ==== Sys2Proof/State/Num.lean ====
section
/-! DEFINITION. Exact values: what a code of a format stands for before it is rounded again (R43 to R49, R54). -/

namespace Sys2Proof.Machine

/-- A value: NaN (signalling or not), an infinity, or (−1)^neg · num / den · 2^exp with den > 0; num = 0 is a zero of
that sign. -/
inductive Num where
  | nan (signalling : Bool)
  | inf (neg : Bool)
  | fin (neg : Bool) (num den : Nat) (exp : Int)
deriving DecidableEq, Repr

/-- How a value is rounded: RNE, SR with 24 random bits (R55, R56), or up (R220). -/
inductive Rnd where
  | rne
  | sr (r : Nat)
  | up
deriving DecidableEq, Repr

/-- A floating-point layout (R43): widths of exponent and fraction, bias, and whether it has infinities. `top` is the
largest finite significand as an integer of fraction + 1 bits, at the exponent `emax`. -/
structure Layout where
  eb : Nat
  fb : Nat
  bias : Nat
  emax : Int
  top : Nat
  hasInf : Bool
  nanCode : Nat
deriving DecidableEq, Repr

/-- A code and the flags that writing it raises (R66). -/
structure Coded where
  code : Nat
  flags : BitVec 8
deriving DecidableEq, Repr

/-- One element written into a slot's tensor (R67): the value presented, what was written, whether it is poisoned. -/
structure SlotElem where
  pres : Num
  coded : Coded
  bad : Bool
deriving DecidableEq, Repr

end Sys2Proof.Machine
end

