-- ==== Sys2Proof/Machine/Numeric.lean ====
section
/-! DEFINITION. Number formats: decoding to exact values, exact arithmetic, and the one rounding into a format
(R41 to R69). -/

namespace Sys2Proof.Machine

/-! ## Formats (R41, R43, R47) -/

/-- Width in bits of a format code; 0 for a reserved code (R41). -/
def fmtWidth : Nat → Nat
  | 0x0 => 64 | 0x1 => 32 | 0x2 => 16 | 0x3 => 16 | 0x4 => 8 | 0x5 => 8 | 0x6 => 8 | 0x7 => 4
  | 0x8 => 8 | 0x9 => 4 | 0xA => 8 | 0xB => 32 | 0xC => 40 | _ => 0

/-- The layout of a floating-point code other than T8 (R43, R47). -/
def layout : Nat → Layout
  | 0x0 => ⟨11, 52, 1023, 1023, 2 ^ 53 - 1, true, 0x7FF8000000000000⟩
  | 0x1 => ⟨8, 23, 127, 127, 2 ^ 24 - 1, true, 0x7FC00000⟩
  | 0x2 => ⟨8, 7, 127, 127, 2 ^ 8 - 1, true, 0x7FC0⟩
  | 0x3 => ⟨5, 10, 15, 15, 2 ^ 11 - 1, true, 0x7E00⟩
  | 0x4 => ⟨4, 3, 7, 8, 14, false, 0x7F⟩
  | 0x5 => ⟨5, 2, 15, 15, 7, true, 0x7E⟩
  | 0x7 => ⟨2, 1, 1, 2, 3, false, 0⟩
  | _ => ⟨9, 30, 255, 255, 2 ^ 31 - 1, true, 0x7FE0000000⟩

/-- An integer format: INT8, INT4, UINT8, INT32 (R45). -/
def fmtIsInt (f : Nat) : Bool := decide (f = 0x8 ∨ f = 0x9 ∨ f = 0xA ∨ f = 0xB)

/-- The formats whose subnormals DENORM governs (R51). -/
def fmtDenorm (f : Nat) : Bool := decide (1 ≤ f ∧ f ≤ 5)

/-- Range of an integer format. -/
def intRange : Nat → Int × Int
  | 0x8 => (-128, 127) | 0x9 => (-8, 7) | 0xA => (0, 255) | 0xB => (-2147483648, 2147483647)
  | _ => (-9223372036854775808, 9223372036854775807)

/-- An integer as a value. -/
def Num.ofInt (i : Int) : Num := .fin (decide (i < 0)) i.natAbs 1 0

/-- Magnitude of a T8 code 1 to 127 as (significand, exponent), R49. -/
def t8Mag (c : Nat) : Nat × Int :=
  if c ≤ 15 then (1, (c : Int) - 28)
  else if c ≤ 31 then (2 + (c - 16) % 2, -12 + (((c - 16) / 2 : Nat) : Int) - 1)
  else if c ≤ 95 then (8 + (c - 32) % 8, -4 + (((c - 32) / 8 : Nat) : Int) - 3)
  else if c ≤ 111 then (2 + (c - 96) % 2, 4 + (((c - 96) / 2 : Nat) : Int) - 1)
  else (1, (c : Int) - 100)

/-- What a code of a floating-point layout stands for (R43, R44, R47). -/
def decodeFloat (l : Layout) (fmt code : Nat) : Num :=
  let f := code % 2 ^ l.fb
  let e := code >>> l.fb % 2 ^ l.eb
  let neg := code.testBit (l.fb + l.eb)
  if e = 2 ^ l.eb - 1 ∧ l.hasInf then
    (if f = 0 then .inf neg else .nan (!(f.testBit (l.fb - 1))))
  else if fmt = 0x4 ∧ e = 15 ∧ f = 7 then .nan false
  else if e = 0 then .fin neg f 1 (1 - (l.bias : Int) - l.fb)
  else .fin neg (2 ^ l.fb + f) 1 ((e : Int) - l.bias - l.fb)

/-- What a code of a format stands for. -/
def decode (fmt code : Nat) : Num :=
  if fmtIsInt fmt then
    (if fmt = 0xA then Num.ofInt (code % 256) else Num.ofInt (sextNat (fmtWidth fmt) code))
  else if fmt = 0x6 then
    (let c := code % 128
     if code % 256 = 0x80 then .nan false
     else if c = 0 then .fin false 0 1 0
     else .fin (code.testBit 7) (t8Mag c).1 1 (t8Mag c).2)
  else decodeFloat (layout fmt) fmt code

/-- A subnormal code of a format that DENORM governs (R43, R51). -/
def isSubnormal (fmt code : Nat) : Bool :=
  fmtDenorm fmt &&
    (let l := layout fmt
     decide (code >>> l.fb % 2 ^ l.eb = 0 ∧ code % 2 ^ l.fb ≠ 0))

/-- Read an operand under DENORM (R51). -/
def readNum (denorm : Bool) (fmt code : Nat) : Num × BitVec 8 :=
  match decode fmt code with
  | .fin neg n d e =>
    if !denorm && isSubnormal fmt code then (.fin neg 0 1 0, Flag.flushed) else (.fin neg n d e, 0)
  | v => (v, 0)

/-! ## Values -/

def Num.isNan : Num → Bool
  | .nan _ => true
  | _ => false

def Num.isSnan : Num → Bool
  | .nan s => s
  | _ => false

/-- Neither NaN nor infinite. -/
def Num.finite : Num → Bool
  | .fin .. => true
  | _ => false

def Num.isZero : Num → Bool
  | .fin _ n _ _ => decide (n = 0)
  | _ => false

def Num.neg : Num → Num
  | .nan s => .nan s
  | .inf b => .inf (!b)
  | .fin b n d e => .fin (!b) n d e

def Num.abs : Num → Num
  | .nan s => .nan s
  | .inf _ => .inf false
  | .fin _ n d e => .fin false n d e

/-- INVALID for a signalling operand (R48). -/
def snanFlag (vs : List Num) : BitVec 8 := Flag.when (vs.any Num.isSnan) Flag.invalid

/-- Numerators of two finite values over one denominator and exponent: (a, b, den, exp). -/
def common (n1 d1 : Nat) (e1 : Int) (n2 d2 : Nat) (e2 : Int) : Nat × Nat × Nat × Int :=
  let e := min e1 e2
  (n1 * d2 * 2 ^ (e1 - e).toNat, n2 * d1 * 2 ^ (e2 - e).toNat, d1 * d2, e)

/-- Exact sum; a sum of opposite equal values is +0, two zeros of one sign keep it (R44, R69). -/
def Num.add (x y : Num) : Num × BitVec 8 :=
  match x, y with
  | .nan _, _ => (.nan false, snanFlag [x, y])
  | _, .nan _ => (.nan false, snanFlag [x, y])
  | .inf a, .inf b => if a = b then (.inf a, 0) else (.nan false, Flag.invalid)
  | .inf a, _ => (.inf a, 0)
  | _, .inf b => (.inf b, 0)
  | .fin s1 n1 d1 e1, .fin s2 n2 d2 e2 =>
    let (a, b, d, e) := common n1 d1 e1 n2 d2 e2
    if s1 = s2 then (.fin s1 (a + b) d e, 0)
    else if b < a then (.fin s1 (a - b) d e, 0)
    else if a < b then (.fin s2 (b - a) d e, 0)
    else (.fin false 0 1 0, 0)

def Num.sub (x y : Num) : Num × BitVec 8 := Num.add x y.neg

/-- Exact product. -/
def Num.mul (x y : Num) : Num × BitVec 8 :=
  match x, y with
  | .nan _, _ => (.nan false, snanFlag [x, y])
  | _, .nan _ => (.nan false, snanFlag [x, y])
  | .inf a, .inf b => (.inf (a != b), 0)
  | .inf a, .fin b n _ _ => if n = 0 then (.nan false, Flag.invalid) else (.inf (a != b), 0)
  | .fin a n _ _, .inf b => if n = 0 then (.nan false, Flag.invalid) else (.inf (a != b), 0)
  | .fin a n1 d1 e1, .fin b n2 d2 e2 => (.fin (a != b) (n1 * n2) (d1 * d2) (e1 + e2), 0)

/-- Exact quotient (R57, R69). -/
def Num.div (x y : Num) : Num × BitVec 8 :=
  match x, y with
  | .nan _, _ => (.nan false, snanFlag [x, y])
  | _, .nan _ => (.nan false, snanFlag [x, y])
  | .inf _, .inf _ => (.nan false, Flag.invalid)
  | .inf a, .fin b _ _ _ => (.inf (a != b), 0)
  | .fin a _ _ _, .inf b => (.fin (a != b) 0 1 0, 0)
  | .fin a n1 d1 e1, .fin b n2 d2 e2 =>
    if n2 = 0 then (if n1 = 0 then (.nan false, Flag.invalid) else (.inf (a != b), Flag.divzero))
    else (.fin (a != b) (n1 * d2) (d1 * n2) (e1 - e2), 0)

/-- Fused multiply-add, exact. -/
def Num.fma (x y z : Num) : Num × BitVec 8 :=
  if z.isNan ∧ !x.isNan ∧ !y.isNan then (.nan false, snanFlag [x, y, z])
  else
    let p := Num.mul x y
    let s := Num.add p.1 z
    (s.1, p.2 ||| s.2)

/-- x < y for values that are not NaN; the two zeros are equal (R65). -/
def Num.lt (x y : Num) : Bool :=
  match x, y with
  | .nan _, _ => false
  | _, .nan _ => false
  | .inf a, .inf b => a && !b
  | .inf a, .fin .. => a
  | .fin .., .inf b => !b
  | .fin s1 n1 d1 e1, .fin s2 n2 d2 e2 =>
    let (a, b, _, _) := common n1 d1 e1 n2 d2 e2
    if s1 then (if s2 then decide (b < a) else decide (a ≠ 0 ∨ b ≠ 0))
    else (if s2 then false else decide (a < b))

/-- x = y for values that are not NaN (R65). -/
def Num.eqv (x y : Num) : Bool := !x.isNan && !y.isNan && !Num.lt x y && !Num.lt y x

def Num.negative : Num → Bool
  | .fin b _ _ _ => b
  | .inf b => b
  | .nan _ => false

/-- maximumNumber (R64). -/
def Num.max (x y : Num) : Num × BitVec 8 :=
  match x, y with
  | .nan _, .nan _ => (.nan false, snanFlag [x, y])
  | .nan _, _ => (y, snanFlag [x, y])
  | _, .nan _ => (x, snanFlag [x, y])
  | _, _ =>
    if Num.lt x y then (y, 0) else if Num.lt y x then (x, 0) else if x.negative then (y, 0) else (x, 0)

/-- minimumNumber (R64). -/
def Num.min (x y : Num) : Num × BitVec 8 :=
  match x, y with
  | .nan _, .nan _ => (.nan false, snanFlag [x, y])
  | .nan _, _ => (y, snanFlag [x, y])
  | _, .nan _ => (x, snanFlag [x, y])
  | _, _ =>
    if Num.lt x y then (x, 0) else if Num.lt y x then (y, 0) else if x.negative then (x, 0) else (y, 0)

/-! ## Rounding (R54 to R58) -/

/-- floor(log2(n / d · 2^e)) for n > 0. -/
def floorLog2 (n d : Nat) (e : Int) : Int :=
  let g : Int := (Nat.log2 n : Int) - Nat.log2 d
  let ok := if 0 ≤ g then decide (d * 2 ^ g.toNat ≤ n) else decide (d ≤ n * 2 ^ (-g).toNat)
  (if ok then g else g - 1) + e

/-- n / d · 2^e in units of 2^q, as an integer quotient, remainder and divisor. -/
def inUnits (n d : Nat) (e q : Int) : Nat × Nat × Nat :=
  let a := n * 2 ^ (e - q).toNat
  let b := d * 2 ^ (q - e).toNat
  (a / b, a % b, b)

/-- Whether a magnitude with integer part k and fraction r / b goes up (R55, R56). -/
def goesUp (md : Rnd) (k r b : Nat) : Bool :=
  match md with
  | .rne => decide (b < 2 * r ∨ (2 * r = b ∧ k % 2 = 1))
  | .sr rn => decide (2 ^ 24 ≤ r * 2 ^ 24 / b + rn)
  | .up => decide (r ≠ 0)

/-- Round n / d · 2^e to a multiple of 2^q: the multiple, and whether it differs. -/
def roundAt (md : Rnd) (n d : Nat) (e q : Int) : Nat × Bool :=
  let (k, r, b) := inUnits n d e q
  (if goesUp md k r b then k + 1 else k, decide (r ≠ 0))

/-- a · 2^p < b · 2^q. -/
def ltScaled (a : Nat) (p : Int) (b : Nat) (q : Int) : Bool :=
  let e := min p q
  decide (a * 2 ^ (p - e).toNat < b * 2 ^ (q - e).toNat)

/-- n / d · 2^e < 2^q. -/
def belowPow (n d : Nat) (e q : Int) : Bool := ltScaled n e d q

/-- The fields of a rounded magnitude k · 2^q in a layout, without sign. -/
def packMag (l : Layout) (k : Nat) (q : Int) : Nat :=
  if k < 2 ^ l.fb then k
  else
    let up := decide (2 ^ (l.fb + 1) ≤ k)
    let k' := if up then k / 2 else k
    let q' := if up then q + 1 else q
    ((q' + l.fb + l.bias).toNat) * 2 ^ l.fb + (k' - 2 ^ l.fb)

/-- Code of a layout's infinity or, where it has none, its largest magnitude (R58). -/
def overCode (l : Layout) : Nat :=
  if l.hasInf then (2 ^ l.eb - 1) * 2 ^ l.fb else (l.emax + l.bias).toNat * 2 ^ l.fb + (l.top - 2 ^ l.fb)

def signCode (l : Layout) (neg : Bool) : Nat := if neg then 2 ^ (l.fb + l.eb) else 0

/-- Write a finite magnitude into a layout (R54, R55, R58, R66). `flush` is DENORM = 0 where it applies (R51). `ieee`
asks for the underflow rule of R69. A clamped float or T8 result raises INEXACT beside SATURATED, since it differs from
the exact value; a clamped integer (`packInt`) raises SATURATED alone. DEDUCED, log 95. -/
def packFinite (l : Layout) (md : Rnd) (flush ieee : Bool) (neg : Bool) (n d : Nat) (e : Int) : Coded :=
  if n = 0 then ⟨signCode l neg, 0⟩
  else
    let emin : Int := 1 - (l.bias : Int)
    if flush && belowPow n d e emin then ⟨signCode l neg, Flag.flushed ||| Flag.inexact⟩
    else
      let lg := floorLog2 n d e
      let q := max lg emin - l.fb
      let (k, inex) := roundAt md n d e q
      let topQ := l.emax - l.fb
      let beyond := match md with
        | .sr _ => decide (¬ (ltScaled n e (l.top * d) topQ || decide (¬ ltScaled (l.top * d) topQ n e)))
        | _ => ltScaled l.top topQ k q
      if beyond then
        ⟨signCode l neg + overCode l, (if l.hasInf then Flag.overflow else Flag.saturated) ||| Flag.inexact⟩
      else
        let tiny := let (k', _) := roundAt md n d e (lg - l.fb)
          ltScaled k' (lg - l.fb) 1 emin
        let under := if ieee then tiny && inex else decide (k = 0)
        ⟨signCode l neg + packMag l k q, Flag.when inex Flag.inexact ||| Flag.when under Flag.underflow⟩

/-- Write a value into T8 (R49, R50). -/
def packT8 (md : Rnd) (v : Num) : Coded :=
  match v with
  | .nan _ => ⟨0x80, Flag.invalid⟩
  | .inf _ => ⟨0x80, Flag.invalid⟩
  | .fin neg n d e =>
    let s := if neg then 0x80 else 0
    if n = 0 then ⟨0, 0⟩
    else if ltScaled d 27 n e then ⟨s + 0x7F, Flag.saturated ||| Flag.inexact⟩
    else if belowPow n d e (-27) then ⟨0, Flag.underflow ||| Flag.inexact⟩
    else
      let lg := floorLog2 n d e
      let (base, lo, nb) : Nat × Int × Nat :=
        if lg < -12 then (1, -27, 0) else if lg < -4 then (16, -12, 1) else if lg < 4 then (32, -4, 3)
        else if lg < 12 then (96, 4, 1) else (112, 12, 0)
      let (k, r, b) := inUnits n d e (lg - nb)
      let c := base + (lg - lo).toNat * 2 ^ nb + (k - 2 ^ nb)
      let c' := if goesUp md c r b then c + 1 else c
      ⟨s + c', Flag.when (decide (r ≠ 0)) Flag.inexact⟩

/-- Write an exact integer into w bits with range lo to hi under SAT (R59). -/
def packInt (w : Nat) (lo hi : Int) (sat : Bool) (i : Int) : Coded :=
  if lo ≤ i ∧ i ≤ hi then ⟨wrapInt w i, 0⟩
  else if sat then ⟨wrapInt w (if i < lo then lo else hi), Flag.saturated⟩
  else ⟨wrapInt w i, Flag.wrapped⟩

/-- Convert a value into an integer format (R58, R59). -/
def toIntFmt (fmt : Nat) (md : Rnd) (sat : Bool) (v : Num) : Coded :=
  let (lo, hi) := intRange fmt
  let w := if fmtWidth fmt = 0 then 64 else fmtWidth fmt
  match v with
  | .nan _ => ⟨0, Flag.invalid⟩
  | .inf neg => ⟨wrapInt w (if neg then lo else hi), Flag.invalid⟩
  | .fin neg n d e =>
    let (k, inex) := roundAt md n d e 0
    let c := packInt w lo hi sat (if neg then -(k : Int) else (k : Int))
    ⟨c.code, c.flags ||| Flag.when inex Flag.inexact⟩

/-- Write a value into a format: the one rounding of R54, with the outcomes of R58; an FP64 result follows the underflow
rule of R69. -/
def encodeNum (fmt : Nat) (md : Rnd) (denorm sat : Bool) (v : Num) : Coded :=
  if fmtIsInt fmt then toIntFmt fmt md sat v
  else if fmt = 0x6 then packT8 md v
  else
    let l := layout fmt
    match v with
    | .nan _ => ⟨l.nanCode, Flag.when (decide (fmt = 0x7)) Flag.invalid⟩
    | .inf neg =>
      if l.hasInf then ⟨signCode l neg + overCode l, 0⟩
      else if fmt = 0x4 then ⟨l.nanCode, Flag.invalid⟩
      else ⟨signCode l neg + overCode l, Flag.invalid⟩
    | .fin neg n d e => packFinite l md (!denorm && fmtDenorm fmt) (decide (fmt = 0)) neg n d e

/-- Convert a code of one format into another, as read under DENORM and divided by a scale where one applies (R52 to
R59). -/
def convert (src dst : Nat) (md : Rnd) (denorm sat : Bool) (scale : Option Num) (code : Nat) : Coded :=
  let rd := if dst = 0 then (decode src code, (0 : BitVec 8)) else readNum denorm src code
  let q := match scale with
    | none => (rd.1, (0 : BitVec 8))
    | some s => Num.div rd.1 s
  let c := encodeNum dst md denorm sat q.1
  ⟨c.code, rd.2 ||| q.2 ||| snanFlag [rd.1] ||| c.flags⟩

/-! ## FP64 (R69) and FP32 helpers -/

/-- An FP64 operation: decode, compute exactly, round once by RNE with the flags of R69. -/
def f64 (v : Num × BitVec 8) : Coded :=
  let c := encodeNum 0 .rne true false v.1
  ⟨c.code, v.2 ||| c.flags⟩

def f64Val (code : Nat) : Num := decode 0 code

def f64Add (a b : Nat) : Nat := (f64 (Num.add (f64Val a) (f64Val b))).code
def f64Sub (a b : Nat) : Nat := (f64 (Num.sub (f64Val a) (f64Val b))).code
def f64Mul (a b : Nat) : Nat := (f64 (Num.mul (f64Val a) (f64Val b))).code
def f64Div (a b : Nat) : Nat := (f64 (Num.div (f64Val a) (f64Val b))).code
def f64Fma (a b c : Nat) : Nat := (f64 (Num.fma (f64Val a) (f64Val b) (f64Val c))).code
def f64Neg (a : Nat) : Nat := (f64 ((f64Val a).neg, 0)).code
def f64Abs (a : Nat) : Nat := (f64 ((f64Val a).abs, 0)).code
def f64Max (a b : Nat) : Nat := (f64 (Num.max (f64Val a) (f64Val b))).code
def f64Min (a b : Nat) : Nat := (f64 (Num.min (f64Val a) (f64Val b))).code
def f64Lt (a b : Nat) : Bool := Num.lt (f64Val a) (f64Val b)
def f64Le (a b : Nat) : Bool := !(f64Val a).isNan && !(f64Val b).isNan && !Num.lt (f64Val b) (f64Val a)
def f64Finite (a : Nat) : Bool := (f64Val a).finite
def f64OfInt (i : Int) : Nat := (f64 (Num.ofInt i, 0)).code
/-- 2^k in FP64. -/
def f64Pow2 (k : Int) : Nat := (f64 (.fin false 1 1 k, 0)).code

/-- Integer square root by halving, with enough steps for n bits. -/
def natSqrtStep (n : Nat) : Nat → Nat → Nat
  | 0, r => r
  | k + 1, r => natSqrtStep n k (if (r + 2 ^ k) * (r + 2 ^ k) ≤ n then r + 2 ^ k else r)

def natSqrt (n : Nat) : Nat := natSqrtStep n (Nat.log2 n / 2 + 1) 0

/-- Correctly rounded FP64 square root (R69): the root to 60 bits beyond the point, with a sticky bit. -/
def f64Sqrt (a : Nat) : Coded :=
  match f64Val a with
  | .nan s => f64 (.nan false, snanFlag [.nan s])
  | .inf neg => if neg then f64 (.nan false, Flag.invalid) else f64 (.inf false, 0)
  | .fin neg n d e =>
    if n = 0 then f64 (.fin neg n d e, 0)
    else if neg then f64 (.nan false, Flag.invalid)
    else
      let e' := if e % 2 = 0 then e else e - 1
      let n' := if e % 2 = 0 then n else 2 * n
      let r := natSqrt (n' * 2 ^ 160)
      let sticky := if r * r = n' * 2 ^ 160 then 0 else 1
      f64 (.fin false (2 * r + sticky) 1 (e' / 2 - 81), 0)

/-- An FP32 code is a scale that R63 accepts: positive, normal. -/
def scaleOk (code : Nat) : Bool :=
  decide (code < 0x7F800000 ∧ 0x00800000 ≤ code)

/-- The value of an FP32 code. -/
def f32Val (code : Nat) : Num := decode 1 code

/-- Round a value to FP32 by RNE, keeping subnormals. -/
def toF32 (v : Num) : Nat := (encodeNum 1 .rne true false v).code

end Sys2Proof.Machine
end

