-- ==== Sys2Proof/Config.lean ====
section
/-! DEFINITION. What the spec leaves open: values without a stated result. Each is a constant without a body, so nothing can
be proved of it, and a statement holds whatever it is. -/

namespace Sys2Proof.Config

/-- A fresh open value of 64 bits, by the index that State counts. -/
opaque freeWord : Nat → Word

/-- How AMAX_STEP, an FP32 register, takes a magnitude num · 2^exp / den that FP32 does not hold (R218, R245). -/
opaque amaxOpen : Nat → Nat → Int → Nat

/-- The bits that stand under a poison mark where the spec states no data: part i of the operation with a given index. -/
opaque junk : Nat → Nat → Nat

/-- SHA-256 digests of the two vendor moduli in the keeper ROM, as numbers, lowest byte first (R469). -/
opaque romDigest : Nat → Nat

/-- The identity of this module (R471, R473): the modulus of the key that its PUF response gives with the helper data, the modulus and
serial number that a certificate names, and the signatures that the private key gives. -/
opaque rebuiltModulus : Bytes → Nat
opaque certModulus : Bytes → Nat
opaque certSerial : Bytes → Nat
opaque idSign : Bytes → Nat

/-- The payload of a SPARING_MAP record for a list of retired units, which the spec does not lay out (R472). -/
opaque sparingPayload : List Nat → Bytes

/-- Bits of a solve's outputs that the spec does not state: part i for a solve with given inputs (R158, R159, R173). -/
opaque solveOpen : List Nat → Nat → Nat

/-- The level of the solve-program patch in an image body, and the version of the solve-program ROM (R144, R429). -/
opaque fwPatch : Bytes → Nat
opaque svromVersion : Nat

end Sys2Proof.Config
end

