-- ==== Sys2Proof/Machine/Map.lean ====
section
/-! DEFINITION. Reading and writing the sorted key and value lists of Word.lean. `d` is what an unlisted key reads as;
writing that value removes the entry, so equal contents are equal lists. -/

namespace Sys2Proof.Machine

/-- The entry of a key, if it is listed. -/
def SMap.find? {α : Type} : SMap α → Nat → Option α
  | [], _ => none
  | (k', v) :: l, k => if k' = k then some v else SMap.find? l k

/-- Remove a key. -/
def SMap.erase {α : Type} : SMap α → Nat → SMap α
  | [], _ => []
  | (k', v) :: l, k => if k' = k then l else (k', v) :: SMap.erase l k

/-- Put an entry at its place in the rising order. -/
def SMap.insert {α : Type} : SMap α → Nat → α → SMap α
  | [], k, v => [(k, v)]
  | (k', v') :: l, k, v =>
    if k < k' then (k, v) :: (k', v') :: l
    else if k' = k then (k, v) :: l
    else (k', v') :: SMap.insert l k v

/-- What a key reads as. -/
def SMap.get {α : Type} (l : SMap α) (d : Nat → α) (k : Nat) : α := (SMap.find? l k).getD (d k)

/-- Write a key, keeping the canonical form. -/
def SMap.set {α : Type} [DecidableEq α] (l : SMap α) (d : Nat → α) (k : Nat) (v : α) : SMap α :=
  if v = d k then SMap.erase l k else SMap.insert l k v

/-- Keys strictly rising from above `lo`, and no entry equal to its default. -/
def SMap.wfFrom {α : Type} [DecidableEq α] (d : Nat → α) : Option Nat → SMap α → Bool
  | _, [] => true
  | lo, (k, v) :: l =>
    (match lo with | none => true | some b => decide (b < k)) && decide (v ≠ d k) && SMap.wfFrom d (some k) l

/-- The canonical form. -/
def SMap.wf {α : Type} [DecidableEq α] (l : SMap α) (d : Nat → α) : Bool := SMap.wfFrom d none l

/-- Keep the entries whose key a test accepts. -/
def SMap.keep {α : Type} (p : Nat → Bool) (l : SMap α) : SMap α := l.filter (fun e => p e.1)

end Sys2Proof.Machine
end

