-- ==== Sys2Proof/State/Page.lean ====
section
/-! DEFINITION. The header that every page has (R27), the access codes of register fields (R7), and what the module sends
to its outside parties. -/

namespace Sys2Proof.Machine

/-- Access codes, R7. -/
inductive Acc where
  | rw | ro | w1c | wo | st | lv
deriving DecidableEq, Repr

/-- A register field: offset of its first register in the page, how many like registers and how far apart, bits, access
code and reset value. -/
structure Fld where
  off : Nat
  count : Nat
  stride : Nat
  hi : Nat
  lo : Nat
  acc : Acc
  reset : Nat
deriving DecidableEq, Repr

/-- The header registers of a page, R27. IDENT, CAPS and STATUS are computed from the page's place and the sparing map. -/
structure Header where
  /-- OWNER.HOST: false host A, true host B -/
  owner : Bool
  event : Word
  eventEn : Word
  /-- detectors armed through EVENT_INJECT that have not reported yet (R27, R414) -/
  inject : Word
  pending : Bool
  rejected : Bool
  checking : Bool
  /-- the commit waits for its COMMIT_TIME (AT = 1) -/
  scheduled : Bool
  reason : Byte
  commitTime : Word
  /-- COMMIT_TIME as it stood when GO arrived -/
  goTarget : Word
  /-- hive time at which GO arrived, and whether hive time was valid then (R28 codes 0x03, 0x04) -/
  goAt : Word
  goValid : Bool
  configEpoch : Word
  snapId : Word
deriving DecidableEq, Repr

/-- The header at reset. HOST[B] resets to owner B (R27). -/
def Header.reset (owner : Bool) : Header :=
  { owner := owner, event := 0, eventEn := 0, inject := 0, pending := false, rejected := false, checking := false,
    scheduled := false, reason := 0, commitTime := 0, goTarget := 0, goAt := 0, goValid := false, configEpoch := 0,
    snapId := 0 }

/-- What leaves the module, in the order in which it leaves. The model's own record of its outputs. -/
inductive Out where
  /-- an MSI-X message of a host port: its vector, address and data (R435) -/
  | msix (port : HostId) (vec : Nat) (addr : Word) (data : BitVec 32)
  /-- a read request of host memory (R439, R440) -/
  | hostRequest (port : HostId) (addr : Word) (len : Nat)
  /-- a write to host memory, with the EP mark (R442, R443) -/
  | hostWrite (port : HostId) (addr : Word) (data : Bytes) (ep : Bool)
  /-- a completion of a host read of BAR4, with the EP mark, or an unsupported request (R288) -/
  | hostRead (port : HostId) (data : Bytes) (ep : Bool)
  | unsupported (port : HostId)
  /-- a packet sent on a port and virtual channel (R302) -/
  | link (p : PortId) (vc : Nat) (pk : Packet)
  /-- a time packet (R330, R331) -/
  | time (p : PortId) (state : Nat) (depth : Nat) (rootPrio rootX rootY : Nat) (heartbeat : Nat) (ns : Word) (crcGood : Bool)
  /-- the byte of an SMBus read (R483) -/
  | smbus (b : Byte)
  /-- a datagram of the management port (R484) -/
  | datagram (dst : BitVec 64) (data : Bytes)
deriving DecidableEq, Repr

/-- The counters as the last snapshot copied them (R353): registers by BAR0 byte offset, the queues' counters by queue, and
the completions posted by each ring. -/
structure Shadow where
  regs : SMap Word
  queues : SMap (List Nat)
  rings : SMap Nat
deriving DecidableEq, Repr

def Shadow.reset : Shadow := { regs := [], queues := [], rings := [] }

end Sys2Proof.Machine
end

