-- ==== Sys2Proof/Machine/RegMap.lean ====
section
/-! DEFINITION. The register fields of every page, as the field tables of the chapters list them: byte offset in the page,
number and spacing of like registers, bits, access code, reset value (R7, R27). The header is not here: it is typed
(State/Page.lean). CELL and SOLV share the fields of R137 and R138 (R139), LAKE and BASIN those of R290 (R291). -/

namespace Sys2Proof.Machine.Reg

namespace CELL
/-- R94 -/
def MXCTL_CHKTOL : Fld := ⟨0x180, 1, 0, 4, 0, .st, 16⟩
/-- R94 -/
def MXCTL_CHKRETRY : Fld := ⟨0x180, 1, 0, 5, 5, .st, 1⟩
/-- R94 -/
def MX_BUSY_CYC : Fld := ⟨0x980, 1, 0, 63, 0, .ro, 0⟩
/-- R94 -/
def MX_TURN_CYC : Fld := ⟨0x988, 1, 0, 63, 0, .ro, 0⟩
/-- R94 -/
def MX_INSTR : Fld := ⟨0x990, 1, 0, 63, 0, .ro, 0⟩
/-- R94 -/
def MX_CHK_FAIL : Fld := ⟨0x998, 1, 0, 63, 0, .ro, 0⟩
/-- R94 -/
def MX_CHK_RETRY_OK : Fld := ⟨0x9A0, 1, 0, 63, 0, .ro, 0⟩
/-- R94 -/
def MX_CHK_SKIPPED : Fld := ⟨0x9A8, 1, 0, 63, 0, .ro, 0⟩
/-- R94 -/
def MX_HAZARD_CYC : Fld := ⟨0x9B0, 1, 0, 63, 0, .ro, 0⟩
/-- R94 -/
def MX_LAST_CHK_ROW : Fld := ⟨0x9B8, 1, 0, 5, 0, .ro, 0⟩
/-- R94 -/
def MX_LAST_CHK_ARRAY : Fld := ⟨0x9B8, 1, 0, 7, 6, .ro, 0⟩
/-- R94 -/
def MX_LAST_CHK_TAG : Fld := ⟨0x9B8, 1, 0, 23, 8, .ro, 0⟩
/-- R94 -/
def MX_LAST_CHK_RETRIED : Fld := ⟨0x9B8, 1, 0, 24, 24, .ro, 0⟩
/-- R94 -/
def MX_LAST_CHK_POISONED : Fld := ⟨0x9B8, 1, 0, 25, 25, .ro, 0⟩
/-- R94 -/
def MX_LAST_REFUSE_CODE : Fld := ⟨0x9C0, 1, 0, 7, 0, .ro, 0⟩
/-- R94 -/
def MX_LAST_REFUSE_TAG : Fld := ⟨0x9C0, 1, 0, 23, 8, .ro, 0⟩
/-- R113 -/
def SRCTL_STEP : Fld := ⟨0x188, 1, 0, 39, 0, .st, 0⟩
/-- R113 -/
def ACCSAVE_ADDR : Fld := ⟨0x1C0, 16, 8, 21, 0, .st, 0⟩
/-- R113 -/
def ACCSAVE_VALID : Fld := ⟨0x1C0, 16, 8, 63, 63, .st, 0⟩
/-- R113 -/
def ACC_SAVES : Fld := ⟨0x9C8, 1, 0, 63, 0, .ro, 0⟩
/-- R113 -/
def ACC_RESTORES : Fld := ⟨0x9D0, 1, 0, 63, 0, .ro, 0⟩
/-- R113 -/
def ACC_SAVE_CYC : Fld := ⟨0x9D8, 1, 0, 63, 0, .ro, 0⟩
/-- R113 -/
def ACC_HOLD_HELD : Fld := ⟨0x9E0, 1, 0, 15, 0, .ro, 0⟩
/-- R113 -/
def ACC_HOLD_RESIDENT : Fld := ⟨0x9E0, 1, 0, 19, 16, .ro, 0⟩
/-- R113 -/
def ACC_HOLD_RES_VALID : Fld := ⟨0x9E0, 1, 0, 20, 20, .ro, 0⟩
/-- R137 -/
def DENORM : Fld := ⟨0xA00, 1, 0, 0, 0, .lv, 1⟩
/-- R137 -/
def FLAGS_INVALID : Fld := ⟨0xA08, 16, 8, 0, 0, .w1c, 0⟩
/-- R137 -/
def FLAGS_DIVZERO : Fld := ⟨0xA08, 16, 8, 1, 1, .w1c, 0⟩
/-- R137 -/
def FLAGS_OVERFLOW : Fld := ⟨0xA08, 16, 8, 2, 2, .w1c, 0⟩
/-- R137 -/
def FLAGS_SATURATED : Fld := ⟨0xA08, 16, 8, 3, 3, .w1c, 0⟩
/-- R137 -/
def FLAGS_WRAPPED : Fld := ⟨0xA08, 16, 8, 4, 4, .w1c, 0⟩
/-- R137 -/
def FLAGS_UNDERFLOW : Fld := ⟨0xA08, 16, 8, 5, 5, .w1c, 0⟩
/-- R137 -/
def FLAGS_FLUSHED : Fld := ⟨0xA08, 16, 8, 6, 6, .w1c, 0⟩
/-- R137 -/
def FLAGS_INEXACT : Fld := ⟨0xA08, 16, 8, 7, 7, .w1c, 0⟩
/-- R138 -/
def VCTL_VIDLE : Fld := ⟨0x190, 1, 0, 15, 0, .st, 4096⟩
/-- R138 -/
def VSAVE_ADDR : Fld := ⟨0x240, 16, 8, 21, 0, .st, 0⟩
/-- R138 -/
def VSAVE_VALID : Fld := ⟨0x240, 16, 8, 63, 63, .st, 0⟩
/-- R138 -/
def CTX_PC : Fld := ⟨0xB00, 16, 16, 21, 0, .lv, 0⟩
/-- R138 -/
def CTX_CMD_STATE : Fld := ⟨0xB08, 16, 16, 2, 0, .ro, 0⟩
/-- R138 -/
def CTX_CMD_START : Fld := ⟨0xB08, 16, 16, 8, 8, .wo, 0⟩
/-- R138 -/
def CTX_CMD_HALT : Fld := ⟨0xB08, 16, 16, 9, 9, .wo, 0⟩
/-- R138 -/
def CTX_CMD_RESET : Fld := ⟨0xB08, 16, 16, 10, 10, .wo, 0⟩
/-- R138 -/
def CTX_CMD_FAULT : Fld := ⟨0xB08, 16, 16, 23, 16, .ro, 0⟩
/-- R138 -/
def CTX_CMD_FAULT_PC : Fld := ⟨0xB08, 16, 16, 53, 32, .ro, 0⟩
/-- R138 -/
def CTX_SWITCHES : Fld := ⟨0xC00, 1, 0, 63, 0, .ro, 0⟩
/-- R138 -/
def VSTATE_MOVES : Fld := ⟨0xC08, 1, 0, 63, 0, .ro, 0⟩
/-- R138 -/
def VSTATE_CYC : Fld := ⟨0xC10, 1, 0, 63, 0, .ro, 0⟩
/-- R138 -/
def VEC_BUSY_CYC : Fld := ⟨0xC18, 1, 0, 63, 0, .ro, 0⟩
/-- R138 -/
def VEC_WAKES : Fld := ⟨0xC20, 1, 0, 63, 0, .ro, 0⟩
/-- R138 -/
def VEC_WAKE_CYC : Fld := ⟨0xC28, 1, 0, 63, 0, .ro, 0⟩
/-- R138 -/
def SPRING_WAIT_CYC : Fld := ⟨0xC30, 1, 0, 63, 0, .ro, 0⟩
/-- R138 -/
def VEC_OWNER_CTX : Fld := ⟨0xC38, 1, 0, 3, 0, .ro, 0⟩
/-- R138 -/
def VEC_OWNER_VALID : Fld := ⟨0xC38, 1, 0, 4, 4, .ro, 0⟩
/-- R138 -/
def VEC_OWNER_DOWN : Fld := ⟨0xC38, 1, 0, 5, 5, .ro, 0⟩
/-- R216 -/
def QWIN_Q : Fld := ⟨0xD00, 1, 0, 9, 0, .lv, 0⟩
/-- R216 -/
def QWIN_VALID : Fld := ⟨0xD00, 1, 0, 16, 16, .ro, 0⟩
/-- R216 -/
def Q_RECORDS : Fld := ⟨0xD08, 1, 0, 63, 0, .ro, 0⟩
/-- R216 -/
def Q_STALL_CYC : Fld := ⟨0xD10, 1, 0, 63, 0, .ro, 0⟩
/-- R216 -/
def Q_STARVE_CYC : Fld := ⟨0xD18, 1, 0, 63, 0, .ro, 0⟩
/-- R216 -/
def Q_LEVEL_NOW : Fld := ⟨0xD20, 1, 0, 15, 0, .ro, 0⟩
/-- R216 -/
def Q_LEVEL_HWM : Fld := ⟨0xD20, 1, 0, 31, 16, .ro, 0⟩
/-- R216 -/
def Q_DISCARD : Fld := ⟨0xD28, 1, 0, 63, 0, .ro, 0⟩
/-- R216 -/
def BUBBLE_CYC : Fld := ⟨0xD30, 1, 0, 63, 0, .ro, 0⟩
/-- R216 -/
def Q_SLOT_WR : Fld := ⟨0xD38, 1, 0, 63, 0, .ro, 0⟩
/-- R216 -/
def Q_SHADOW : Fld := ⟨0xE08, 7, 8, 63, 0, .ro, 0⟩
/-- R267 -/
def PONDCTL_STARVE_THR : Fld := ⟨0x1A0, 1, 0, 15, 0, .st, 4096⟩
/-- R267 -/
def BANK_WAIT_CYC : Fld := ⟨0xC80, 1, 0, 63, 0, .ro, 0⟩
/-- R267 -/
def DMA_WAIT_CYC : Fld := ⟨0xC88, 1, 0, 63, 0, .ro, 0⟩
/-- R267 -/
def DMA_STARVE_CNT : Fld := ⟨0xC90, 1, 0, 63, 0, .ro, 0⟩
/-- R267 -/
def WR_COLLIDE_CNT : Fld := ⟨0xC98, 1, 0, 63, 0, .ro, 0⟩
/-- R267 -/
def COLLIDE_ADDR_ADDR : Fld := ⟨0xCA0, 1, 0, 23, 0, .ro, 0⟩
/-- R267 -/
def COLLIDE_ADDR_VALID : Fld := ⟨0xCA0, 1, 0, 63, 63, .w1c, 0⟩
/-- R267 -/
def DMA_DONE : Fld := ⟨0xCA8, 1, 0, 63, 0, .ro, 0⟩
/-- R267 -/
def DMA_REFUSED_CNT : Fld := ⟨0xCB0, 1, 0, 63, 0, .ro, 0⟩
/-- R267 -/
def DMA_LAST_REFUSE_CODE : Fld := ⟨0xCB8, 1, 0, 7, 0, .ro, 0⟩
/-- R267 -/
def DMA_LAST_REFUSE_TAG : Fld := ⟨0xCB8, 1, 0, 23, 8, .ro, 0⟩
end CELL

namespace SOLV
/-- R174 -/
def SVCTL_PIVTOL : Fld := ⟨0x300, 1, 0, 5, 0, .st, 44⟩
/-- R174 -/
def SVCTL_REGDELTA : Fld := ⟨0x300, 1, 0, 13, 8, .st, 30⟩
/-- R174 -/
def SVCTL_EPSEXP : Fld := ⟨0x300, 1, 0, 21, 16, .st, 27⟩
/-- R174 -/
def SVCTL_INFEXP : Fld := ⟨0x300, 1, 0, 29, 24, .st, 20⟩
/-- R174 -/
def FSLOT_ADDR : Fld := ⟨0x310, 4, 8, 23, 0, .st, 0⟩
/-- R174 -/
def FSLOT_SIZE : Fld := ⟨0x310, 4, 8, 47, 24, .st, 0⟩
/-- R174 -/
def FSLOT_VALID : Fld := ⟨0x310, 4, 8, 63, 63, .st, 0⟩
/-- R174 -/
def SRCTL_STEP : Fld := ⟨0x188, 1, 0, 39, 0, .st, 0⟩
/-- R175 -/
def SOLVES : Fld := ⟨0x900, 1, 0, 63, 0, .ro, 0⟩
/-- R175 -/
def ITERS_DONE : Fld := ⟨0x908, 1, 0, 63, 0, .ro, 0⟩
/-- R175 -/
def PIV_REPL : Fld := ⟨0x910, 1, 0, 63, 0, .ro, 0⟩
/-- R175 -/
def REFACT : Fld := ⟨0x918, 1, 0, 63, 0, .ro, 0⟩
/-- R175 -/
def N_CONVERGED : Fld := ⟨0x920, 1, 0, 63, 0, .ro, 0⟩
/-- R175 -/
def N_DEADLINE_BEST : Fld := ⟨0x928, 1, 0, 63, 0, .ro, 0⟩
/-- R175 -/
def N_DEADLINE_WARM : Fld := ⟨0x930, 1, 0, 63, 0, .ro, 0⟩
/-- R175 -/
def N_INFEASIBLE : Fld := ⟨0x938, 1, 0, 63, 0, .ro, 0⟩
/-- R175 -/
def N_NUMERIC : Fld := ⟨0x940, 1, 0, 63, 0, .ro, 0⟩
/-- R175 -/
def N_WS_REJECT : Fld := ⟨0x948, 1, 0, 63, 0, .ro, 0⟩
/-- R175 -/
def N_EXPIRED : Fld := ⟨0x950, 1, 0, 63, 0, .ro, 0⟩
/-- R175 -/
def SV_BUSY_CYC : Fld := ⟨0x958, 1, 0, 63, 0, .ro, 0⟩
/-- R175 -/
def SV_LAST_REFUSE_CODE : Fld := ⟨0x960, 1, 0, 7, 0, .ro, 0⟩
/-- R175 -/
def SV_LAST_REFUSE_TAG : Fld := ⟨0x960, 1, 0, 23, 8, .ro, 0⟩
/-- R175 -/
def SVROM_VERSION : Fld := ⟨0x968, 1, 0, 15, 0, .ro, 0⟩
/-- R175 -/
def SVROM_PATCH : Fld := ⟨0x968, 1, 0, 31, 16, .ro, 0⟩
/-- R175 -/
def DEADLINE_AT : Fld := ⟨0x970, 1, 0, 63, 0, .ro, 0⟩
/-- R175 -/
def SV_QUEUE_DEPTH : Fld := ⟨0x978, 1, 0, 4, 0, .ro, 0⟩
/-- R196 -/
def DVCTL_ACTEXP : Fld := ⟨0x330, 1, 0, 5, 0, .st, 20⟩
/-- R196 -/
def BWD_DONE : Fld := ⟨0x980, 1, 0, 63, 0, .ro, 0⟩
/-- R196 -/
def BWD_APPROX : Fld := ⟨0x988, 1, 0, 63, 0, .ro, 0⟩
/-- R196 -/
def BWD_NUMERIC : Fld := ⟨0x990, 1, 0, 63, 0, .ro, 0⟩
/-- R196 -/
def RELEASES : Fld := ⟨0x998, 1, 0, 63, 0, .ro, 0⟩
/-- R196 -/
def FSLOT_HELD : Fld := ⟨0x9A0, 1, 0, 3, 0, .ro, 0⟩
/-- R196 -/
def FSLOT_REG : Fld := ⟨0x9A0, 1, 0, 7, 4, .ro, 0⟩
/-- R196 -/
def FSLOT_TAG : Fld := ⟨0x9A8, 1, 0, 63, 0, .ro, 0⟩
/-- R139 -/
def VSAVE_ADDR : Fld := ⟨0x240, 16, 8, 23, 0, .st, 0⟩
/-- R139 -/
def CTX_PC : Fld := ⟨0xB00, 16, 16, 23, 0, .lv, 0⟩
/-- R139 -/
def CTX_CMD_FAULT_PC : Fld := ⟨0xB08, 16, 16, 55, 32, .ro, 0⟩
end SOLV

namespace COMB
/-- R215 -/
def STAGEMAP_MAPID : Fld := ⟨0x100, 1, 0, 15, 0, .st, 0⟩
/-- R215 -/
def SMLOAD_ADDR : Fld := ⟨0x900, 1, 0, 63, 0, .lv, 0⟩
/-- R215 -/
def SMLOAD_GO : Fld := ⟨0x908, 1, 0, 0, 0, .wo, 0⟩
/-- R215 -/
def SMLOAD_STATUS_STATE : Fld := ⟨0x910, 1, 0, 1, 0, .ro, 0⟩
/-- R215 -/
def SMLOAD_STATUS_ERR : Fld := ⟨0x910, 1, 0, 15, 8, .ro, 0⟩
/-- R215 -/
def SMLOAD_STATUS_INDEX : Fld := ⟨0x910, 1, 0, 31, 16, .ro, 0⟩
/-- R215 -/
def SMLOAD_STATUS_MAPID : Fld := ⟨0x910, 1, 0, 47, 32, .ro, 0⟩
/-- R215 -/
def MAP_IN_FORCE : Fld := ⟨0x918, 1, 0, 15, 0, .ro, 0⟩
/-- R215 -/
def Q_DISCARD_TOTAL : Fld := ⟨0x920, 1, 0, 63, 0, .ro, 0⟩
end COMB

namespace POOL
/-- R268 -/
def SCRATCH_MIB : Fld := ⟨0x100, 1, 0, 4, 0, .st, 0⟩
/-- R268 -/
def CACHE_HIT : Fld := ⟨0x900, 1, 0, 63, 0, .ro, 0⟩
/-- R268 -/
def CACHE_MISS : Fld := ⟨0x908, 1, 0, 63, 0, .ro, 0⟩
/-- R268 -/
def WRITEBACKS : Fld := ⟨0x910, 1, 0, 63, 0, .ro, 0⟩
/-- R268 -/
def ATOMICS : Fld := ⟨0x918, 1, 0, 63, 0, .ro, 0⟩
/-- R268 -/
def BULK_ROWS : Fld := ⟨0x920, 1, 0, 63, 0, .ro, 0⟩
/-- R268 -/
def ORD_HELD_CYC : Fld := ⟨0x928, 1, 0, 63, 0, .ro, 0⟩
/-- R268 -/
def ORD_BUF_USED : Fld := ⟨0x930, 1, 0, 6, 0, .ro, 0⟩
/-- R268 -/
def ORD_NEXT : Fld := ⟨0xA00, 64, 8, 31, 0, .lv, 0⟩
end POOL

namespace UPD
/-- R246 -/
def LIST_ADDR : Fld := ⟨0x900, 1, 0, 24, 0, .lv, 0⟩
/-- R246 -/
def LIST_COUNT : Fld := ⟨0x908, 1, 0, 15, 0, .lv, 0⟩
/-- R246 -/
def LIST_STEP : Fld := ⟨0x910, 1, 0, 39, 0, .lv, 0⟩
/-- R246 -/
def ARM : Fld := ⟨0x918, 1, 0, 0, 0, .wo, 0⟩
/-- R246 -/
def STATE : Fld := ⟨0x920, 1, 0, 2, 0, .ro, 0⟩
/-- R246 -/
def DESC_DONE : Fld := ⟨0x928, 1, 0, 63, 0, .ro, 0⟩
/-- R246 -/
def DESC_REFUSED : Fld := ⟨0x930, 1, 0, 63, 0, .ro, 0⟩
/-- R246 -/
def ELEM_NONFINITE : Fld := ⟨0x938, 1, 0, 63, 0, .ro, 0⟩
/-- R246 -/
def UPD_BUSY_CYC : Fld := ⟨0x940, 1, 0, 63, 0, .ro, 0⟩
/-- R246 -/
def LAST_REFUSE_CODE : Fld := ⟨0x948, 1, 0, 7, 0, .ro, 0⟩
/-- R246 -/
def LAST_REFUSE_TAG : Fld := ⟨0x948, 1, 0, 23, 8, .ro, 0⟩
end UPD

namespace COLL
/-- R385 -/
def COLLCTL_RXSLICE : Fld := ⟨0x100, 1, 0, 4, 0, .st, 0⟩
/-- R385 -/
def COLLCTL_RXOFF : Fld := ⟨0x100, 1, 0, 29, 5, .st, 0⟩
/-- R385 -/
def COLLCTL_RXKIB : Fld := ⟨0x100, 1, 0, 46, 32, .st, 0⟩
/-- R385 -/
def VIEW_BUF0 : Fld := ⟨0x200, 16, 16, 47, 0, .st, 0⟩
/-- R385 -/
def VIEW_VALID : Fld := ⟨0x200, 16, 16, 63, 63, .st, 0⟩
/-- R385 -/
def VIEW_BUF1 : Fld := ⟨0x208, 16, 16, 47, 0, .st, 0⟩
/-- R386 -/
def GLOAD_ADDR : Fld := ⟨0x900, 1, 0, 47, 0, .lv, 0⟩
/-- R386 -/
def GLOAD_GO : Fld := ⟨0x908, 1, 0, 0, 0, .wo, 0⟩
/-- R386 -/
def GLOAD_GROUP : Fld := ⟨0x908, 1, 0, 13, 8, .wo, 0⟩
/-- R386 -/
def GLOAD_STATUS_STATE : Fld := ⟨0x910, 1, 0, 1, 0, .ro, 0⟩
/-- R386 -/
def GLOAD_STATUS_ERR : Fld := ⟨0x910, 1, 0, 15, 8, .ro, 0⟩
/-- R386 -/
def GLOAD_STATUS_GROUP : Fld := ⟨0x910, 1, 0, 21, 16, .ro, 0⟩
/-- R386 -/
def GWIN_SEL : Fld := ⟨0x918, 1, 0, 5, 0, .lv, 0⟩
/-- R386 -/
def GRP_EPOCH : Fld := ⟨0x920, 1, 0, 31, 0, .ro, 0⟩
/-- R386 -/
def GRP_P : Fld := ⟨0x928, 1, 0, 16, 0, .ro, 0⟩
/-- R386 -/
def GRP_RANK : Fld := ⟨0x928, 1, 0, 48, 32, .ro, 0⟩
/-- R386 -/
def GRP_PENDING_P : Fld := ⟨0x930, 1, 0, 16, 0, .ro, 0⟩
/-- R386 -/
def DESC_DONE : Fld := ⟨0x938, 1, 0, 63, 0, .ro, 0⟩
/-- R386 -/
def DESC_REFUSED : Fld := ⟨0x940, 1, 0, 63, 0, .ro, 0⟩
/-- R386 -/
def BYTES_SENT : Fld := ⟨0x948, 1, 0, 63, 0, .ro, 0⟩
/-- R386 -/
def BYTES_RECV : Fld := ⟨0x950, 1, 0, 63, 0, .ro, 0⟩
/-- R386 -/
def NODES_FORMED : Fld := ⟨0x958, 1, 0, 63, 0, .ro, 0⟩
/-- R386 -/
def TC0_NOSLOT : Fld := ⟨0x960, 1, 0, 63, 0, .ro, 0⟩
/-- R386 -/
def RX_FULL : Fld := ⟨0x968, 1, 0, 63, 0, .ro, 0⟩
/-- R386 -/
def FAILED : Fld := ⟨0x970, 1, 0, 63, 0, .ro, 0⟩
/-- R386 -/
def LAST_REFUSE_CODE : Fld := ⟨0x978, 1, 0, 7, 0, .ro, 0⟩
/-- R386 -/
def LAST_REFUSE_TAG : Fld := ⟨0x978, 1, 0, 23, 8, .ro, 0⟩
/-- R386 -/
def VIEW_VER : Fld := ⟨0xA00, 16, 8, 47, 0, .ro, 0⟩
/-- R386 -/
def VIEW_CUR : Fld := ⟨0xA00, 16, 8, 48, 48, .ro, 0⟩
/-- R386 -/
def VIEW_WBASE : Fld := ⟨0xA80, 16, 8, 47, 0, .ro, 0⟩
end COLL

namespace LAKE
/-- R290 -/
def LAKECTL_SCRUB : Fld := ⟨0x100, 1, 0, 0, 0, .st, 1⟩
/-- R290 -/
def CH_STATE : Fld := ⟨0x900, 1, 0, 63, 0, .ro, 0⟩
/-- R290 -/
def CE_COUNT : Fld := ⟨0x908, 1, 0, 63, 0, .ro, 0⟩
/-- R290 -/
def UE_COUNT : Fld := ⟨0x910, 1, 0, 63, 0, .ro, 0⟩
/-- R290 -/
def SCRUB_PASSES : Fld := ⟨0x918, 1, 0, 63, 0, .ro, 0⟩
/-- R290 -/
def RETRAINS : Fld := ⟨0x920, 1, 0, 63, 0, .ro, 0⟩
/-- R290 -/
def SPARE_USED : Fld := ⟨0x928, 1, 0, 63, 0, .ro, 0⟩
/-- R290 -/
def READ_BYTES : Fld := ⟨0x930, 1, 0, 63, 0, .ro, 0⟩
/-- R290 -/
def WRITE_BYTES : Fld := ⟨0x938, 1, 0, 63, 0, .ro, 0⟩
/-- R290 -/
def LAST_UE_CHANNEL : Fld := ⟨0x940, 1, 0, 4, 0, .ro, 0⟩
/-- R290 -/
def LAST_UE_BLOCK : Fld := ⟨0x940, 1, 0, 36, 5, .ro, 0⟩
/-- R290 -/
def HOT : Fld := ⟨0x948, 1, 0, 0, 0, .ro, 0⟩
end LAKE

namespace CHK
/-- R411 -/
def POINT_ENABLE : Fld := ⟨0x100, 1, 0, 0, 0, .st, 0⟩
/-- R411 -/
def POINT_KIND : Fld := ⟨0x100, 1, 0, 2, 1, .st, 0⟩
/-- R411 -/
def POINT_INDEX : Fld := ⟨0x100, 1, 0, 15, 3, .st, 0⟩
/-- R411 -/
def POINT_SRC_X : Fld := ⟨0x100, 1, 0, 23, 16, .st, 0⟩
/-- R411 -/
def POINT_SRC_Y : Fld := ⟨0x100, 1, 0, 31, 24, .st, 0⟩
/-- R411 -/
def POINT_CLASS : Fld := ⟨0x100, 1, 0, 33, 32, .st, 0⟩
/-- R411 -/
def POINT_TAGF : Fld := ⟨0x100, 1, 0, 34, 34, .st, 0⟩
/-- R411 -/
def POINT_TAG : Fld := ⟨0x100, 1, 0, 50, 35, .st, 0⟩
/-- R411 -/
def POLY : Fld := ⟨0x108, 1, 0, 63, 0, .st, 0⟩
/-- R411 -/
def INIT : Fld := ⟨0x110, 1, 0, 63, 0, .st, 0⟩
/-- R411 -/
def XOROUT : Fld := ⟨0x118, 1, 0, 63, 0, .st, 0⟩
/-- R411 -/
def FORMAT_WIDTH_M1 : Fld := ⟨0x120, 1, 0, 5, 0, .st, 0⟩
/-- R411 -/
def FORMAT_REFIN : Fld := ⟨0x120, 1, 0, 6, 6, .st, 0⟩
/-- R411 -/
def FORMAT_REFOUT : Fld := ⟨0x120, 1, 0, 7, 7, .st, 0⟩
/-- R411 -/
def FORMAT_CONT : Fld := ⟨0x120, 1, 0, 8, 8, .st, 0⟩
/-- R411 -/
def FORMAT_RLEN : Fld := ⟨0x120, 1, 0, 25, 9, .st, 0⟩
/-- R411 -/
def FORMAT_ALIVE_W : Fld := ⟨0x120, 1, 0, 27, 26, .st, 0⟩
/-- R411 -/
def FORMAT_ALIVE_OFF : Fld := ⟨0x120, 1, 0, 43, 28, .st, 0⟩
/-- R411 -/
def CRC_VALUE : Fld := ⟨0x900, 1, 0, 63, 0, .ro, 0⟩
/-- R411 -/
def RECORDS : Fld := ⟨0x908, 1, 0, 63, 0, .ro, 0⟩
/-- R411 -/
def ALIVE_ERR_REPEATS : Fld := ⟨0x910, 1, 0, 31, 0, .ro, 0⟩
/-- R411 -/
def ALIVE_ERR_SKIPS : Fld := ⟨0x910, 1, 0, 63, 32, .ro, 0⟩
/-- R411 -/
def LAST_ALIVE_VALUE : Fld := ⟨0x918, 1, 0, 15, 0, .ro, 0⟩
/-- R411 -/
def LAST_ALIVE_VALID : Fld := ⟨0x918, 1, 0, 16, 16, .ro, 0⟩
/-- R411 -/
def BYTES : Fld := ⟨0x920, 1, 0, 63, 0, .ro, 0⟩
/-- R411 -/
def CLEAR : Fld := ⟨0x928, 1, 0, 0, 0, .wo, 0⟩
/-- R411 -/
def STATE : Fld := ⟨0x930, 1, 0, 1, 0, .ro, 0⟩
/-- R411 -/
def shadows : Fld := ⟨0xA00, 4, 8, 63, 0, .ro, 0⟩
end CHK

namespace DIG
/-- R410 -/
def BASE : Fld := ⟨0x900, 1, 0, 47, 0, .lv, 0⟩
/-- R410 -/
def LEN : Fld := ⟨0x908, 1, 0, 40, 0, .lv, 0⟩
/-- R410 -/
def MODE : Fld := ⟨0x910, 1, 0, 0, 0, .lv, 0⟩
/-- R410 -/
def TRAILER : Fld := ⟨0x910, 1, 0, 1, 1, .lv, 0⟩
/-- R410 -/
def OPEN : Fld := ⟨0x918, 1, 0, 0, 0, .wo, 0⟩
/-- R410 -/
def CLOSE : Fld := ⟨0x918, 1, 0, 1, 1, .wo, 0⟩
/-- R410 -/
def ABORT : Fld := ⟨0x918, 1, 0, 2, 2, .wo, 0⟩
/-- R410 -/
def COMPOSE : Fld := ⟨0x918, 1, 0, 3, 3, .wo, 0⟩
/-- R410 -/
def STATE : Fld := ⟨0x920, 1, 0, 2, 0, .ro, 0⟩
/-- R410 -/
def ROOT : Fld := ⟨0x928, 4, 8, 63, 0, .ro, 0⟩
/-- R410 -/
def PROG : Fld := ⟨0x948, 4, 8, 63, 0, .lv, 0⟩
/-- R410 -/
def WSET : Fld := ⟨0x968, 4, 8, 63, 0, .lv, 0⟩
/-- R410 -/
def INPUT : Fld := ⟨0x988, 4, 8, 63, 0, .lv, 0⟩
/-- R410 -/
def STEP : Fld := ⟨0x9A8, 1, 0, 39, 0, .lv, 0⟩
/-- R410 -/
def RUNDIG : Fld := ⟨0x9B0, 4, 8, 63, 0, .ro, 0⟩
/-- R410 -/
def BYTES_HASHED : Fld := ⟨0x9D0, 1, 0, 63, 0, .ro, 0⟩
/-- R410 -/
def LEAVES : Fld := ⟨0x9D8, 1, 0, 63, 0, .ro, 0⟩
/-- R410 -/
def RESCANS : Fld := ⟨0x9E0, 1, 0, 63, 0, .ro, 0⟩
/-- R410 -/
def REWRITES : Fld := ⟨0x9E8, 1, 0, 63, 0, .ro, 0⟩
end DIG

namespace PORT
/-- R325 -/
def PORTCTL_ENABLE : Fld := ⟨0x100, 1, 0, 0, 0, .st, 0⟩
/-- R325 -/
def STATE : Fld := ⟨0x900, 1, 0, 2, 0, .ro, 5⟩
/-- R325 -/
def ACTIVE_LANES : Fld := ⟨0x900, 1, 0, 15, 8, .ro, 0⟩
/-- R325 -/
def SPARES_USED : Fld := ⟨0x900, 1, 0, 18, 16, .ro, 0⟩
/-- R325 -/
def LANE_FAIL : Fld := ⟨0x908, 1, 0, 51, 0, .ro, 0⟩
/-- R325 -/
def LINK_DELAY : Fld := ⟨0x910, 1, 0, 15, 0, .ro, 0⟩
/-- R325 -/
def TX_BYTES : Fld := ⟨0x918, 1, 0, 63, 0, .ro, 0⟩
/-- R325 -/
def RX_BYTES : Fld := ⟨0x920, 1, 0, 63, 0, .ro, 0⟩
/-- R325 -/
def LINK_CRC_ERR : Fld := ⟨0x928, 1, 0, 63, 0, .ro, 0⟩
/-- R325 -/
def REPLAYS : Fld := ⟨0x930, 1, 0, 63, 0, .ro, 0⟩
/-- R325 -/
def RETRAINS : Fld := ⟨0x938, 1, 0, 63, 0, .ro, 0⟩
/-- R325 -/
def DOWN_EVENTS : Fld := ⟨0x940, 1, 0, 63, 0, .ro, 0⟩
/-- R325 -/
def LOST_PKTS : Fld := ⟨0x948, 1, 0, 63, 0, .ro, 0⟩
/-- R325 -/
def TX_PKTS : Fld := ⟨0x950, 4, 8, 63, 0, .ro, 0⟩
end PORT

namespace CAL
/-- R356 -/
def CALCTL_ACTIVE : Fld := ⟨0x100, 1, 0, 0, 0, .st, 0⟩
/-- R356 -/
def EPOCH_IN_FORCE : Fld := ⟨0x900, 1, 0, 0, 0, .ro, 0⟩
/-- R356 -/
def SWITCH_T : Fld := ⟨0x908, 1, 0, 63, 0, .ro, 0⟩
/-- R356 -/
def BANKWIN_SEL : Fld := ⟨0x910, 1, 0, 0, 0, .lv, 0⟩
/-- R356 -/
def BANK_CYCLE_NS : Fld := ⟨0x918, 1, 0, 19, 0, .lv, 0⟩
/-- R356 -/
def BANK_ORIGIN : Fld := ⟨0x920, 1, 0, 63, 0, .lv, 0⟩
/-- R356 -/
def ENTWIN_BASE : Fld := ⟨0x928, 1, 0, 3, 0, .lv, 0⟩
/-- R356 -/
def SLOT_SENT : Fld := ⟨0x930, 1, 0, 63, 0, .ro, 0⟩
/-- R356 -/
def SLOT_IDLE : Fld := ⟨0x938, 1, 0, 63, 0, .ro, 0⟩
/-- R356 -/
def SLOT_MISS_CNT : Fld := ⟨0x940, 1, 0, 63, 0, .ro, 0⟩
/-- R356 -/
def FALLEN_CNT : Fld := ⟨0x948, 1, 0, 63, 0, .ro, 0⟩
/-- R356 -/
def ENT_VALID : Fld := ⟨0xA00, 64, 16, 0, 0, .lv, 0⟩
/-- R356 -/
def ENT_SRC_KIND : Fld := ⟨0xA00, 64, 16, 2, 1, .lv, 0⟩
/-- R356 -/
def ENT_SRC_INDEX : Fld := ⟨0xA00, 64, 16, 15, 3, .lv, 0⟩
/-- R356 -/
def ENT_START : Fld := ⟨0xA00, 64, 16, 35, 16, .lv, 0⟩
/-- R356 -/
def ENT_LEN : Fld := ⟨0xA00, 64, 16, 45, 36, .lv, 0⟩
/-- R356 -/
def ENT_FALLEN : Fld := ⟨0xA00, 64, 16, 46, 46, .ro, 0⟩
/-- R356 -/
def ENT_PERIOD_M1 : Fld := ⟨0xA08, 64, 16, 19, 0, .lv, 0⟩
/-- R356 -/
def ENT_PHASE : Fld := ⟨0xA08, 64, 16, 39, 20, .lv, 0⟩
/-- R356 -/
def ENT_DST_X : Fld := ⟨0xA08, 64, 16, 47, 40, .lv, 0⟩
/-- R356 -/
def ENT_DST_Y : Fld := ⟨0xA08, 64, 16, 55, 48, .lv, 0⟩
end CAL

namespace HOST
/-- R292 -/
def BASE : Fld := ⟨0xA00, 1, 0, 17, 0, .lv, 0⟩
/-- R432 -/
def HEARTBEAT : Fld := ⟨0xA08, 1, 0, 63, 0, .lv, 0⟩
/-- R432 -/
def HB_ECHO : Fld := ⟨0xA10, 1, 0, 63, 0, .ro, 0⟩
/-- R432 -/
def KRESET : Fld := ⟨0xA18, 1, 0, 0, 0, .wo, 0⟩
/-- R450 -/
def LINK_SPEED : Fld := ⟨0x900, 1, 0, 3, 0, .ro, 0⟩
/-- R450 -/
def LINK_WIDTH : Fld := ⟨0x900, 1, 0, 7, 4, .ro, 0⟩
/-- R450 -/
def LINK_FLIT : Fld := ⟨0x900, 1, 0, 8, 8, .ro, 0⟩
/-- R450 -/
def IFLEVEL_MIN : Fld := ⟨0x908, 1, 0, 3, 0, .lv, 0⟩
/-- R450 -/
def IFLEVEL_MAX : Fld := ⟨0x908, 1, 0, 7, 4, .lv, 0⟩
/-- R450 -/
def IFLEVEL_CHOSEN : Fld := ⟨0x908, 1, 0, 11, 8, .ro, 0⟩
/-- R450 -/
def PORT_STATE_FAILED : Fld := ⟨0x910, 1, 0, 0, 0, .ro, 0⟩
/-- R450 -/
def PORT_STATE_HB_ARMED : Fld := ⟨0x910, 1, 0, 1, 1, .ro, 0⟩
/-- R450 -/
def EVCTL_EVVEC : Fld := ⟨0x918, 1, 0, 10, 0, .lv, 0⟩
/-- R450 -/
def EVCTL_EN : Fld := ⟨0x918, 1, 0, 11, 11, .lv, 0⟩
/-- R450 -/
def NOT_OWNER_CNT : Fld := ⟨0x920, 1, 0, 63, 0, .ro, 0⟩
/-- R450 -/
def BAD_ACCESS_CNT : Fld := ⟨0x928, 1, 0, 63, 0, .ro, 0⟩
/-- R450 -/
def FAILURES : Fld := ⟨0x930, 1, 0, 63, 0, .ro, 0⟩
end HOST

namespace REGION
/-- R289 -/
def ENTRY_VALID : Fld := ⟨0x100, 64, 16, 0, 0, .st, 0⟩
/-- R289 -/
def ENTRY_MEM : Fld := ⟨0x100, 64, 16, 1, 1, .st, 0⟩
/-- R289 -/
def ENTRY_MODE : Fld := ⟨0x100, 64, 16, 3, 2, .st, 0⟩
/-- R289 -/
def ENTRY_SEL : Fld := ⟨0x100, 64, 16, 15, 8, .st, 0⟩
/-- R289 -/
def ENTRY_BASE : Fld := ⟨0x100, 64, 16, 42, 16, .st, 0⟩
/-- R289 -/
def ENTRY_SIZE : Fld := ⟨0x108, 64, 16, 19, 0, .st, 0⟩
/-- R289 -/
def ENTRY_POFF : Fld := ⟨0x108, 64, 16, 47, 24, .st, 0⟩
/-- R289 -/
def UNMAPPED_CNT : Fld := ⟨0x900, 1, 0, 63, 0, .ro, 0⟩
/-- R289 -/
def UNMAPPED_ADDR_ADDR : Fld := ⟨0x908, 1, 0, 47, 0, .ro, 0⟩
/-- R289 -/
def UNMAPPED_ADDR_VALID : Fld := ⟨0x908, 1, 0, 63, 63, .w1c, 0⟩
/-- R289 -/
def REMAP_HOLD_CYC : Fld := ⟨0x910, 1, 0, 63, 0, .ro, 0⟩
end REGION

namespace ROUTER
/-- R324 -/
def ROUTERCTL_DIM_X : Fld := ⟨0x100, 1, 0, 7, 0, .st, 1⟩
/-- R324 -/
def ROUTERCTL_DIM_Y : Fld := ⟨0x100, 1, 0, 15, 8, .st, 1⟩
/-- R324 -/
def ROUTERCTL_MY_X : Fld := ⟨0x100, 1, 0, 23, 16, .st, 0⟩
/-- R324 -/
def ROUTERCTL_MY_Y : Fld := ⟨0x100, 1, 0, 31, 24, .st, 0⟩
/-- R324 -/
def E2ECTL_WIN_LOG2 : Fld := ⟨0x108, 1, 0, 4, 0, .st, 22⟩
/-- R324 -/
def E2ECTL_RTO_US : Fld := ⟨0x108, 1, 0, 23, 8, .st, 500⟩
/-- R324 -/
def E2ECTL_RETRY : Fld := ⟨0x108, 1, 0, 27, 24, .st, 8⟩
/-- R324 -/
def EPOCHCTL_ACTIVE : Fld := ⟨0x110, 1, 0, 0, 0, .st, 0⟩
/-- R324 -/
def EPOCH_IN_FORCE : Fld := ⟨0x900, 1, 0, 0, 0, .ro, 0⟩
/-- R324 -/
def EPOCH_DRAINING : Fld := ⟨0x900, 1, 0, 1, 1, .ro, 0⟩
/-- R324 -/
def DRAIN_END : Fld := ⟨0x908, 1, 0, 63, 0, .ro, 0⟩
/-- R324 -/
def BANKWIN_SEL : Fld := ⟨0x910, 1, 0, 0, 0, .lv, 0⟩
/-- R324 -/
def BANK_PORT_OFF : Fld := ⟨0x918, 1, 0, 3, 0, .lv, 0⟩
/-- R324 -/
def BANK_DETOUR_DIR : Fld := ⟨0x918, 1, 0, 7, 4, .lv, 0⟩
/-- R324 -/
def BANK_DRONE_X : Fld := ⟨0xA00, 64, 8, 7, 0, .lv, 0⟩
/-- R324 -/
def BANK_DRONE_Y : Fld := ⟨0xA00, 64, 8, 15, 8, .lv, 0⟩
/-- R324 -/
def BANK_DRONE_VALID : Fld := ⟨0xA00, 64, 8, 63, 63, .lv, 0⟩
/-- R324 -/
def E2E_SENT : Fld := ⟨0xC00, 1, 0, 63, 0, .ro, 0⟩
/-- R324 -/
def E2E_RETRANS : Fld := ⟨0xC08, 1, 0, 63, 0, .ro, 0⟩
/-- R324 -/
def E2E_DUP : Fld := ⟨0xC10, 1, 0, 63, 0, .ro, 0⟩
/-- R324 -/
def E2E_CRC_ERR : Fld := ⟨0xC18, 1, 0, 63, 0, .ro, 0⟩
/-- R324 -/
def E2E_FAIL_CNT : Fld := ⟨0xC20, 1, 0, 63, 0, .ro, 0⟩
/-- R324 -/
def LIFETIME_DROP : Fld := ⟨0xC28, 1, 0, 63, 0, .ro, 0⟩
/-- R324 -/
def UNROUTABLE_CNT : Fld := ⟨0xC30, 1, 0, 63, 0, .ro, 0⟩
/-- R324 -/
def DETOUR_CNT : Fld := ⟨0xC38, 1, 0, 63, 0, .ro, 0⟩
/-- R324 -/
def NAK_SENT : Fld := ⟨0xC40, 1, 0, 63, 0, .ro, 0⟩
/-- R324 -/
def NAK_RECV : Fld := ⟨0xC48, 1, 0, 63, 0, .ro, 0⟩
end ROUTER

namespace TIME
/-- R355 -/
def TIMECTL_ROOT_PRIO : Fld := ⟨0x100, 1, 0, 3, 0, .st, 0⟩
/-- R355 -/
def TIMECTL_EXTREF : Fld := ⟨0x100, 1, 0, 4, 4, .st, 0⟩
/-- R355 -/
def TIMECTL_HOLD_LIMIT : Fld := ⟨0x100, 1, 0, 15, 8, .st, 100⟩
/-- R355 -/
def HT_NS : Fld := ⟨0x900, 1, 0, 63, 0, .ro, 0⟩
/-- R355 -/
def HT_FRAC : Fld := ⟨0x908, 1, 0, 15, 0, .ro, 0⟩
/-- R355 -/
def STATUS_STATE : Fld := ⟨0x910, 1, 0, 2, 0, .ro, 0⟩
/-- R355 -/
def STATUS_VALID : Fld := ⟨0x910, 1, 0, 3, 3, .ro, 0⟩
/-- R355 -/
def STATUS_DEPTH : Fld := ⟨0x910, 1, 0, 15, 8, .ro, 0⟩
/-- R355 -/
def STATUS_PARENT : Fld := ⟨0x910, 1, 0, 18, 16, .ro, 7⟩
/-- R355 -/
def STATUS_ROOT_X : Fld := ⟨0x910, 1, 0, 31, 24, .ro, 0⟩
/-- R355 -/
def STATUS_ROOT_Y : Fld := ⟨0x910, 1, 0, 39, 32, .ro, 0⟩
/-- R355 -/
def OFFSET_PS : Fld := ⟨0x918, 1, 0, 31, 0, .ro, 0⟩
/-- R355 -/
def STEP_NS : Fld := ⟨0x920, 1, 0, 63, 0, .ro, 0⟩
/-- R355 -/
def SET : Fld := ⟨0x928, 1, 0, 63, 0, .lv, 0⟩
/-- R355 -/
def FREEZE_AT : Fld := ⟨0x930, 1, 0, 63, 0, .lv, 0⟩
/-- R355 -/
def FREEZE_ID : Fld := ⟨0x938, 1, 0, 63, 0, .lv, 0⟩
/-- R355 -/
def FREEZE_ARM : Fld := ⟨0x940, 1, 0, 0, 0, .wo, 0⟩
/-- R355 -/
def FREEZE_ARMED : Fld := ⟨0x940, 1, 0, 1, 1, .ro, 0⟩
/-- R355 -/
def REPARENTS : Fld := ⟨0x980, 1, 0, 63, 0, .ro, 0⟩
/-- R355 -/
def STEP_DISCARDS : Fld := ⟨0x988, 1, 0, 63, 0, .ro, 0⟩
/-- R355 -/
def HOLD_ENTRIES : Fld := ⟨0x990, 1, 0, 63, 0, .ro, 0⟩
/-- R355 -/
def ROOT_CHANGES : Fld := ⟨0x998, 1, 0, 63, 0, .ro, 0⟩
/-- R355 -/
def FREEZES : Fld := ⟨0x9A0, 1, 0, 63, 0, .ro, 0⟩
/-- R489 -/
def EXTCTL_PPS_DELAY : Fld := ⟨0x108, 1, 0, 15, 0, .st, 0⟩
end TIME

namespace BARR
/-- R357 -/
def BWIN_BASE : Fld := ⟨0x900, 1, 0, 6, 0, .lv, 0⟩
/-- R357 -/
def BAR_RELEASES : Fld := ⟨0x908, 1, 0, 63, 0, .ro, 0⟩
/-- R357 -/
def BAR_OVERRUNS : Fld := ⟨0x910, 1, 0, 63, 0, .ro, 0⟩
/-- R357 -/
def BAR_LATE_REL : Fld := ⟨0x918, 1, 0, 63, 0, .ro, 0⟩
/-- R357 -/
def BAR_ORPHAN : Fld := ⟨0x920, 1, 0, 63, 0, .ro, 0⟩
/-- R357 -/
def BAR_COUNT_ERR : Fld := ⟨0x928, 1, 0, 63, 0, .ro, 0⟩
/-- R357 -/
def OBJ_VALID : Fld := ⟨0xA00, 32, 32, 0, 0, .rw, 0⟩
/-- R357 -/
def OBJ_JOBB : Fld := ⟨0xA00, 32, 32, 1, 1, .rw, 0⟩
/-- R357 -/
def OBJ_ROOT : Fld := ⟨0xA00, 32, 32, 2, 2, .rw, 0⟩
/-- R357 -/
def OBJ_DESTROY : Fld := ⟨0xA00, 32, 32, 3, 3, .wo, 0⟩
/-- R357 -/
def OBJ_LOCAL_N : Fld := ⟨0xA00, 32, 32, 10, 4, .rw, 0⟩
/-- R357 -/
def OBJ_CHILD_N : Fld := ⟨0xA00, 32, 32, 13, 11, .rw, 0⟩
/-- R357 -/
def OBJ_PARENT_X : Fld := ⟨0xA00, 32, 32, 21, 14, .rw, 0⟩
/-- R357 -/
def OBJ_PARENT_Y : Fld := ⟨0xA00, 32, 32, 29, 22, .rw, 0⟩
/-- R357 -/
def OBJ_TOTAL : Fld := ⟨0xA00, 32, 32, 52, 32, .rw, 0⟩
/-- R357 -/
def OBJ_LEAD_NS : Fld := ⟨0xA08, 32, 32, 31, 0, .rw, 0⟩
/-- R357 -/
def OBJ_GEN : Fld := ⟨0xA08, 32, 32, 47, 32, .ro, 0⟩
/-- R357 -/
def OBJ_PENDING : Fld := ⟨0xA08, 32, 32, 48, 48, .ro, 0⟩
/-- R357 -/
def OBJ_ARRIVED_0 : Fld := ⟨0xA10, 32, 32, 63, 0, .ro, 0⟩
/-- R357 -/
def OBJ_ARRIVED_1 : Fld := ⟨0xA18, 32, 32, 63, 0, .ro, 0⟩
end BARR

namespace SCALE
/-- R245 -/
def SCALECTL_ZRUN_LIMIT : Fld := ⟨0x100, 1, 0, 31, 0, .st, 256⟩
/-- R245 -/
def SWIN_BASE : Fld := ⟨0x900, 1, 0, 15, 5, .lv, 0⟩
/-- R245 -/
def SKIP_STEPS : Fld := ⟨0x908, 1, 0, 63, 0, .ro, 0⟩
/-- R245 -/
def GATE_RESULT : Fld := ⟨0x910, 1, 0, 0, 0, .ro, 0⟩
/-- R245 -/
def GATE_VALID : Fld := ⟨0x910, 1, 0, 1, 1, .ro, 0⟩
/-- R245 -/
def GATE_RESBANK : Fld := ⟨0x910, 1, 0, 2, 2, .ro, 0⟩
/-- R245 -/
def SILENT_LAST_SLOT : Fld := ⟨0x918, 1, 0, 15, 0, .ro, 0⟩
/-- R245 -/
def SILENT_LAST_COUNT : Fld := ⟨0x918, 1, 0, 32, 16, .ro, 0⟩
/-- R245 -/
def GATE_LATE_CNT : Fld := ⟨0x920, 1, 0, 63, 0, .ro, 0⟩
/-- R245 -/
def CLAMP_CNT : Fld := ⟨0x928, 1, 0, 63, 0, .ro, 0⟩
/-- R245 -/
def SLOT_FMT : Fld := ⟨0xA00, 32, 32, 3, 0, .rw, 2⟩
/-- R245 -/
def SLOT_ENABLE : Fld := ⟨0xA00, 32, 32, 4, 4, .rw, 0⟩
/-- R245 -/
def SLOT_EXACT : Fld := ⟨0xA00, 32, 32, 5, 5, .rw, 0⟩
/-- R245 -/
def SLOT_HM1 : Fld := ⟨0xA00, 32, 32, 11, 6, .rw, 0⟩
/-- R245 -/
def SLOT_HEADROOM : Fld := ⟨0xA00, 32, 32, 15, 12, .rw, 0⟩
/-- R245 -/
def SLOT_GATE : Fld := ⟨0xA00, 32, 32, 16, 16, .rw, 0⟩
/-- R245 -/
def SLOT_LRFOLD : Fld := ⟨0xA00, 32, 32, 17, 17, .rw, 0⟩
/-- R245 -/
def SLOT_LR : Fld := ⟨0xA00, 32, 32, 63, 32, .rw, 1065353216⟩
/-- R245 -/
def SLOT_SCALE : Fld := ⟨0xA08, 32, 32, 31, 0, .rw, 1065353216⟩
/-- R245 -/
def SLOT_AMAX_HIST : Fld := ⟨0xA08, 32, 32, 63, 32, .ro, 0⟩
/-- R245 -/
def SLOT_ZRUN : Fld := ⟨0xA10, 32, 32, 31, 0, .ro, 0⟩
/-- R245 -/
def SLOT_FLUSH_FRAC : Fld := ⟨0xA10, 32, 32, 47, 32, .ro, 0⟩
/-- R245 -/
def SLOT_HCOUNT : Fld := ⟨0xA10, 32, 32, 55, 48, .ro, 0⟩
/-- R245 -/
def SLOT_NONFINITE : Fld := ⟨0xA10, 32, 32, 56, 56, .ro, 0⟩
/-- R245 -/
def SLOT_SAT : Fld := ⟨0xA10, 32, 32, 57, 57, .ro, 0⟩
/-- R245 -/
def SLOT_SILENT : Fld := ⟨0xA10, 32, 32, 58, 58, .w1c, 0⟩
/-- R245 -/
def SLOT_POISON : Fld := ⟨0xA10, 32, 32, 59, 59, .ro, 0⟩
/-- R245 -/
def SLOT_AMAX_STEP : Fld := ⟨0xA18, 32, 32, 31, 0, .ro, 0⟩
/-- R245 -/
def SLOT_PENDING : Fld := ⟨0xA18, 32, 32, 32, 32, .ro, 0⟩
end SCALE

namespace RING
/-- R451 -/
def RWIN_BASE : Fld := ⟨0x900, 1, 0, 8, 0, .lv, 0⟩
/-- R451 -/
def ENTRIES_DONE : Fld := ⟨0x908, 1, 0, 63, 0, .ro, 0⟩
/-- R451 -/
def RECV_CNT : Fld := ⟨0x910, 1, 0, 63, 0, .ro, 0⟩
/-- R451 -/
def RX_REFUSED : Fld := ⟨0x918, 1, 0, 63, 0, .ro, 0⟩
/-- R451 -/
def HELD_DISCARDED : Fld := ⟨0x920, 1, 0, 63, 0, .ro, 0⟩
/-- R451 -/
def DB_IGNORED : Fld := ⟨0x928, 1, 0, 63, 0, .ro, 0⟩
/-- R451 -/
def WIN_SQ_BASE : Fld := ⟨0xA00, 16, 64, 63, 0, .lv, 0⟩
/-- R451 -/
def WIN_CQ_BASE : Fld := ⟨0xA08, 16, 64, 63, 0, .lv, 0⟩
/-- R451 -/
def WIN_LOG2_DEPTH : Fld := ⟨0xA10, 16, 64, 4, 0, .lv, 0⟩
/-- R451 -/
def WIN_OWNER : Fld := ⟨0xA10, 16, 64, 5, 5, .lv, 0⟩
/-- R451 -/
def WIN_ENABLE : Fld := ⟨0xA10, 16, 64, 6, 6, .lv, 0⟩
/-- R451 -/
def WIN_TARGET_KIND : Fld := ⟨0xA10, 16, 64, 9, 7, .lv, 0⟩
/-- R451 -/
def WIN_TARGET_INDEX : Fld := ⟨0xA10, 16, 64, 21, 10, .lv, 0⟩
/-- R451 -/
def WIN_VECTOR : Fld := ⟨0xA10, 16, 64, 32, 22, .lv, 0⟩
/-- R451 -/
def WIN_MSIX_EN : Fld := ⟨0xA10, 16, 64, 33, 33, .lv, 0⟩
/-- R451 -/
def WIN_ACCEPT : Fld := ⟨0xA10, 16, 64, 34, 34, .lv, 0⟩
/-- R451 -/
def WIN_COAL_N : Fld := ⟨0xA10, 16, 64, 42, 35, .lv, 1⟩
/-- R451 -/
def WIN_COAL_US : Fld := ⟨0xA10, 16, 64, 58, 43, .lv, 0⟩
/-- R451 -/
def WIN_CMD : Fld := ⟨0xA18, 16, 64, 1, 0, .wo, 0⟩
/-- R451 -/
def WIN_SQ_HEAD : Fld := ⟨0xA20, 16, 64, 31, 0, .ro, 0⟩
/-- R451 -/
def WIN_SQ_TAIL : Fld := ⟨0xA20, 16, 64, 63, 32, .ro, 0⟩
/-- R451 -/
def WIN_CQ_TAIL : Fld := ⟨0xA28, 16, 64, 31, 0, .ro, 0⟩
/-- R451 -/
def WIN_CQ_HEAD : Fld := ⟨0xA28, 16, 64, 63, 32, .ro, 0⟩
/-- R451 -/
def WIN_STATE : Fld := ⟨0xA30, 16, 64, 2, 0, .ro, 0⟩
/-- R451 -/
def WIN_ERR : Fld := ⟨0xA30, 16, 64, 15, 8, .ro, 0⟩
/-- R451 -/
def WIN_HELD : Fld := ⟨0xA30, 16, 64, 47, 16, .ro, 0⟩
/-- R451 -/
def WIN_DONE : Fld := ⟨0xA38, 16, 64, 63, 0, .ro, 0⟩
end RING

namespace RAS
/-- R431 -/
def RASCTL_PERM_COUNT : Fld := ⟨0x100, 1, 0, 7, 0, .st, 3⟩
/-- R431 -/
def RASCTL_PERM_WINDOW_H : Fld := ⟨0x100, 1, 0, 15, 8, .st, 24⟩
/-- R431 -/
def RASCTL_RETRY_FAILS : Fld := ⟨0x100, 1, 0, 23, 16, .st, 2⟩
/-- R431 -/
def RASCTL_INJ_COUNT : Fld := ⟨0x100, 1, 0, 24, 24, .st, 0⟩
/-- R431 -/
def FAULTS_TRANSIENT : Fld := ⟨0x900, 1, 0, 63, 0, .ro, 0⟩
/-- R431 -/
def FAULTS_PERMANENT : Fld := ⟨0x908, 1, 0, 63, 0, .ro, 0⟩
/-- R431 -/
def SPARES_DONE : Fld := ⟨0x910, 1, 0, 63, 0, .ro, 0⟩
/-- R431 -/
def PENDING_COMB : Fld := ⟨0x918, 1, 0, 19, 0, .ro, 0⟩
/-- R431 -/
def PENDING_FIELD : Fld := ⟨0x918, 1, 0, 23, 20, .ro, 0⟩
/-- R431 -/
def LOG_NEXT : Fld := ⟨0x920, 1, 0, 7, 0, .ro, 0⟩
/-- R431 -/
def LOG_READ : Fld := ⟨0x920, 1, 0, 15, 8, .lv, 0⟩
/-- R431 -/
def LOG_LOST : Fld := ⟨0x928, 1, 0, 63, 0, .ro, 0⟩
/-- R431 -/
def LOGWIN_SEL : Fld := ⟨0x930, 1, 0, 7, 0, .lv, 0⟩
/-- R431 -/
def SLOTIMG_ADDR : Fld := ⟨0x940, 1, 0, 47, 0, .lv, 0⟩
/-- R431 -/
def SLOTIMG_CMD : Fld := ⟨0x948, 1, 0, 1, 0, .wo, 0⟩
/-- R431 -/
def SLOTIMG_STATE : Fld := ⟨0x950, 1, 0, 1, 0, .ro, 0⟩
/-- R431 -/
def LOGE_T : Fld := ⟨0xA00, 1, 0, 63, 0, .ro, 0⟩
/-- R431 -/
def LOGE_TYPE : Fld := ⟨0xA08, 1, 0, 15, 0, .ro, 0⟩
/-- R431 -/
def LOGE_INSTANCE : Fld := ⟨0xA08, 1, 0, 31, 16, .ro, 0⟩
/-- R431 -/
def LOGE_DETECTOR : Fld := ⟨0xA08, 1, 0, 39, 32, .ro, 0⟩
/-- R431 -/
def LOGE_PERMANENT : Fld := ⟨0xA08, 1, 0, 40, 40, .ro, 0⟩
/-- R431 -/
def LOGE_INJECTED : Fld := ⟨0xA08, 1, 0, 41, 41, .ro, 0⟩
/-- R431 -/
def LOGE_KEY : Fld := ⟨0xA10, 1, 0, 47, 0, .ro, 0⟩
/-- R431 -/
def LOGE_REPORTS : Fld := ⟨0xA18, 1, 0, 15, 0, .ro, 0⟩
/-- R431 -/
def LOGE_RETRY_FAILS : Fld := ⟨0xA18, 1, 0, 31, 16, .ro, 0⟩
end RAS

namespace KEEP
/-- R409 -/
def SEED_SEED_LO : Fld := ⟨0x140, 1, 0, 63, 0, .st, 0⟩
/-- R409 -/
def SEED_SEED_HI : Fld := ⟨0x148, 1, 0, 63, 0, .st, 0⟩
/-- R432 -/
def KEEPCTL_WDOG_MS : Fld := ⟨0x100, 1, 0, 15, 0, .st, 100⟩
/-- R432 -/
def KEEPCTL_HB_TIMEOUT_MS : Fld := ⟨0x100, 1, 0, 31, 16, .st, 1000⟩
/-- R432 -/
def KEEPER_RESETS : Fld := ⟨0x900, 1, 0, 63, 0, .ro, 0⟩
/-- R432 -/
def WDOG_EXPIRIES : Fld := ⟨0x908, 1, 0, 63, 0, .ro, 0⟩
/-- R432 -/
def FW_ACTIVE : Fld := ⟨0x910, 1, 0, 0, 0, .ro, 0⟩
/-- R432 -/
def FW_VERSION_A : Fld := ⟨0x918, 1, 0, 31, 0, .ro, 0⟩
/-- R432 -/
def FW_VERSION_B : Fld := ⟨0x918, 1, 0, 63, 32, .ro, 0⟩
/-- R432 -/
def FW_ADDR : Fld := ⟨0x920, 1, 0, 47, 0, .lv, 0⟩
/-- R432 -/
def FW_LEN : Fld := ⟨0x928, 1, 0, 31, 0, .lv, 0⟩
/-- R432 -/
def FW_CMD : Fld := ⟨0x930, 1, 0, 1, 0, .wo, 0⟩
/-- R432 -/
def FW_STATE : Fld := ⟨0x938, 1, 0, 2, 0, .ro, 0⟩
/-- R477 -/
def MODE_TEST : Fld := ⟨0x108, 1, 0, 0, 0, .st, 0⟩
/-- R491 -/
def TRAY_ID : Fld := ⟨0x940, 1, 0, 3, 0, .ro, 0⟩
/-- R491 -/
def FORCE_RETAIN : Fld := ⟨0x940, 1, 0, 4, 4, .ro, 0⟩
/-- R491 -/
def ALERT : Fld := ⟨0x940, 1, 0, 5, 5, .ro, 0⟩
end KEEP

namespace SEC
/-- R476 -/
def BOOT_STATE : Fld := ⟨0x900, 1, 0, 3, 0, .ro, 0⟩
/-- R476 -/
def BOOT_IDENTITY_VALID : Fld := ⟨0x900, 1, 0, 4, 4, .ro, 0⟩
/-- R476 -/
def BOOT_TIME_VALID : Fld := ⟨0x900, 1, 0, 5, 5, .ro, 0⟩
/-- R476 -/
def READY_MS : Fld := ⟨0x908, 1, 0, 31, 0, .ro, 0⟩
/-- R476 -/
def MIN_VERSION : Fld := ⟨0x910, 1, 0, 31, 0, .ro, 0⟩
/-- R476 -/
def SIG_FAILS : Fld := ⟨0x918, 1, 0, 63, 0, .ro, 0⟩
/-- R476 -/
def RECORD_BAD_CNT : Fld := ⟨0x920, 1, 0, 63, 0, .ro, 0⟩
/-- R476 -/
def ID_DIGEST : Fld := ⟨0x928, 4, 8, 63, 0, .ro, 0⟩
end SEC

namespace PWR
/-- R474 -/
def PWRCTL_LIMIT_W : Fld := ⟨0x100, 1, 0, 11, 0, .st, 3200⟩
/-- R474 -/
def PWRCTL_T_HOT : Fld := ⟨0x100, 1, 0, 18, 12, .st, 100⟩
/-- R474 -/
def PWRCTL_AUTOWAKE : Fld := ⟨0x100, 1, 0, 19, 19, .st, 1⟩
/-- R474 -/
def PWRCTL_IDLE_US : Fld := ⟨0x100, 1, 0, 35, 20, .st, 100⟩
/-- R474 -/
def STATE : Fld := ⟨0x900, 1, 0, 2, 0, .ro, 1⟩
/-- R474 -/
def REQ : Fld := ⟨0x908, 1, 0, 1, 0, .wo, 0⟩
/-- R474 -/
def RESET_COMPUTE : Fld := ⟨0x910, 1, 0, 0, 0, .wo, 0⟩
/-- R474 -/
def RESET_ROUTER : Fld := ⟨0x910, 1, 0, 1, 1, .wo, 0⟩
/-- R474 -/
def RESET_BIST : Fld := ⟨0x910, 1, 0, 2, 2, .wo, 0⟩
/-- R474 -/
def THROTTLE_A_CAP : Fld := ⟨0x918, 1, 0, 4, 0, .ro, 16⟩
/-- R474 -/
def THROTTLE_A_0 : Fld := ⟨0x918, 1, 0, 12, 8, .ro, 16⟩
/-- R474 -/
def THROTTLE_A_1 : Fld := ⟨0x918, 1, 0, 20, 16, .ro, 16⟩
/-- R474 -/
def THROTTLE_A_2 : Fld := ⟨0x918, 1, 0, 28, 24, .ro, 16⟩
/-- R474 -/
def THROTTLE_A_3 : Fld := ⟨0x918, 1, 0, 36, 32, .ro, 16⟩
/-- R474 -/
def INPUT_W : Fld := ⟨0x920, 1, 0, 15, 0, .ro, 0⟩
/-- R474 -/
def DIE_TEMP : Fld := ⟨0x928, 1, 0, 7, 0, .ro, 0⟩
/-- R474 -/
def THROTTLED_CYC : Fld := ⟨0x930, 1, 0, 63, 0, .ro, 0⟩
/-- R474 -/
def RETAIN_ENTRIES : Fld := ⟨0x938, 1, 0, 63, 0, .ro, 0⟩
/-- R474 -/
def COMPUTE_RESETS : Fld := ⟨0x940, 1, 0, 63, 0, .ro, 0⟩
/-- R474 -/
def THERMAL_TRIPS : Fld := ⟨0x948, 1, 0, 63, 0, .ro, 0⟩
/-- R491 -/
def IN : Fld := ⟨0x950, 1, 0, 7, 0, .ro, 0⟩
/-- R491 -/
def OUT : Fld := ⟨0x950, 1, 0, 15, 8, .ro, 0⟩
/-- R491 -/
def INPUT_MV_DIV16 : Fld := ⟨0x950, 1, 0, 31, 16, .ro, 0⟩
end PWR

namespace CLK
/-- R475 -/
def LOCK_ROOT : Fld := ⟨0x900, 1, 0, 0, 0, .ro, 0⟩
/-- R475 -/
def LOCK_LAKE : Fld := ⟨0x900, 1, 0, 8, 1, .ro, 0⟩
/-- R475 -/
def LOCK_BASIN : Fld := ⟨0x900, 1, 0, 14, 9, .ro, 0⟩
/-- R475 -/
def LOCK_PORT : Fld := ⟨0x900, 1, 0, 18, 15, .ro, 0⟩
/-- R475 -/
def LOCK_HOST : Fld := ⟨0x900, 1, 0, 20, 19, .ro, 0⟩
/-- R475 -/
def FREQ_OFFSET_PPB : Fld := ⟨0x908, 1, 0, 31, 0, .ro, 0⟩
/-- R475 -/
def UNLOCKS : Fld := ⟨0x910, 1, 0, 63, 0, .ro, 0⟩
end CLK

/-- The fields of the pages of a block beyond the header. -/
def fields : Block → List Fld
  | .cell => [CELL.MXCTL_CHKTOL, CELL.MXCTL_CHKRETRY, CELL.MX_BUSY_CYC, CELL.MX_TURN_CYC, CELL.MX_INSTR, CELL.MX_CHK_FAIL, CELL.MX_CHK_RETRY_OK, CELL.MX_CHK_SKIPPED, CELL.MX_HAZARD_CYC, CELL.MX_LAST_CHK_ROW, CELL.MX_LAST_CHK_ARRAY, CELL.MX_LAST_CHK_TAG] ++
    [CELL.MX_LAST_CHK_RETRIED, CELL.MX_LAST_CHK_POISONED, CELL.MX_LAST_REFUSE_CODE, CELL.MX_LAST_REFUSE_TAG, CELL.SRCTL_STEP, CELL.ACCSAVE_ADDR, CELL.ACCSAVE_VALID, CELL.ACC_SAVES, CELL.ACC_RESTORES, CELL.ACC_SAVE_CYC, CELL.ACC_HOLD_HELD, CELL.ACC_HOLD_RESIDENT] ++
    [CELL.ACC_HOLD_RES_VALID, CELL.DENORM, CELL.FLAGS_INVALID, CELL.FLAGS_DIVZERO, CELL.FLAGS_OVERFLOW, CELL.FLAGS_SATURATED, CELL.FLAGS_WRAPPED, CELL.FLAGS_UNDERFLOW, CELL.FLAGS_FLUSHED, CELL.FLAGS_INEXACT, CELL.VCTL_VIDLE, CELL.VSAVE_ADDR] ++
    [CELL.VSAVE_VALID, CELL.CTX_PC, CELL.CTX_CMD_STATE, CELL.CTX_CMD_START, CELL.CTX_CMD_HALT, CELL.CTX_CMD_RESET, CELL.CTX_CMD_FAULT, CELL.CTX_CMD_FAULT_PC, CELL.CTX_SWITCHES, CELL.VSTATE_MOVES, CELL.VSTATE_CYC, CELL.VEC_BUSY_CYC] ++
    [CELL.VEC_WAKES, CELL.VEC_WAKE_CYC, CELL.SPRING_WAIT_CYC, CELL.VEC_OWNER_CTX, CELL.VEC_OWNER_VALID, CELL.VEC_OWNER_DOWN, CELL.QWIN_Q, CELL.QWIN_VALID, CELL.Q_RECORDS, CELL.Q_STALL_CYC, CELL.Q_STARVE_CYC, CELL.Q_LEVEL_NOW] ++
    [CELL.Q_LEVEL_HWM, CELL.Q_DISCARD, CELL.BUBBLE_CYC, CELL.Q_SLOT_WR, CELL.Q_SHADOW, CELL.PONDCTL_STARVE_THR, CELL.BANK_WAIT_CYC, CELL.DMA_WAIT_CYC, CELL.DMA_STARVE_CNT, CELL.WR_COLLIDE_CNT, CELL.COLLIDE_ADDR_ADDR, CELL.COLLIDE_ADDR_VALID, CELL.DMA_DONE] ++
    [CELL.DMA_REFUSED_CNT, CELL.DMA_LAST_REFUSE_CODE, CELL.DMA_LAST_REFUSE_TAG]
  | .solv => [CELL.DENORM, CELL.FLAGS_INVALID, CELL.FLAGS_DIVZERO, CELL.FLAGS_OVERFLOW, CELL.FLAGS_SATURATED, CELL.FLAGS_WRAPPED, CELL.FLAGS_UNDERFLOW, CELL.FLAGS_FLUSHED, CELL.FLAGS_INEXACT, CELL.VCTL_VIDLE, CELL.VSAVE_VALID, CELL.CTX_CMD_STATE] ++
    [CELL.CTX_CMD_START, CELL.CTX_CMD_HALT, CELL.CTX_CMD_RESET, CELL.CTX_CMD_FAULT, CELL.CTX_SWITCHES, CELL.VSTATE_MOVES, CELL.VSTATE_CYC, CELL.VEC_BUSY_CYC, CELL.VEC_WAKES, CELL.VEC_WAKE_CYC, CELL.SPRING_WAIT_CYC, CELL.VEC_OWNER_CTX] ++
    [CELL.VEC_OWNER_VALID, CELL.VEC_OWNER_DOWN, SOLV.SVCTL_PIVTOL, SOLV.SVCTL_REGDELTA, SOLV.SVCTL_EPSEXP, SOLV.SVCTL_INFEXP, SOLV.FSLOT_ADDR, SOLV.FSLOT_SIZE, SOLV.FSLOT_VALID, SOLV.SRCTL_STEP, SOLV.SOLVES, SOLV.ITERS_DONE] ++
    [SOLV.PIV_REPL, SOLV.REFACT, SOLV.N_CONVERGED, SOLV.N_DEADLINE_BEST, SOLV.N_DEADLINE_WARM, SOLV.N_INFEASIBLE, SOLV.N_NUMERIC, SOLV.N_WS_REJECT, SOLV.N_EXPIRED, SOLV.SV_BUSY_CYC, SOLV.SV_LAST_REFUSE_CODE, SOLV.SV_LAST_REFUSE_TAG] ++
    [SOLV.SVROM_VERSION, SOLV.SVROM_PATCH, SOLV.DEADLINE_AT, SOLV.SV_QUEUE_DEPTH, SOLV.DVCTL_ACTEXP, SOLV.BWD_DONE, SOLV.BWD_APPROX, SOLV.BWD_NUMERIC, SOLV.RELEASES, SOLV.FSLOT_HELD, SOLV.FSLOT_REG, SOLV.FSLOT_TAG] ++
    [CELL.QWIN_Q, CELL.QWIN_VALID, CELL.Q_RECORDS, CELL.Q_STALL_CYC, CELL.Q_STARVE_CYC, CELL.Q_LEVEL_NOW, CELL.Q_LEVEL_HWM, CELL.Q_DISCARD, CELL.BUBBLE_CYC, CELL.Q_SLOT_WR, CELL.Q_SHADOW, CELL.PONDCTL_STARVE_THR, CELL.BANK_WAIT_CYC] ++
    [CELL.DMA_WAIT_CYC, CELL.DMA_STARVE_CNT, CELL.WR_COLLIDE_CNT, CELL.COLLIDE_ADDR_ADDR, CELL.COLLIDE_ADDR_VALID, CELL.DMA_DONE, CELL.DMA_REFUSED_CNT, CELL.DMA_LAST_REFUSE_CODE, CELL.DMA_LAST_REFUSE_TAG, SOLV.VSAVE_ADDR, SOLV.CTX_PC, SOLV.CTX_CMD_FAULT_PC]
  | .comb => [COMB.STAGEMAP_MAPID, COMB.SMLOAD_ADDR, COMB.SMLOAD_GO, COMB.SMLOAD_STATUS_STATE, COMB.SMLOAD_STATUS_ERR, COMB.SMLOAD_STATUS_INDEX, COMB.SMLOAD_STATUS_MAPID, COMB.MAP_IN_FORCE, COMB.Q_DISCARD_TOTAL]
  | .pool => [POOL.SCRATCH_MIB, POOL.CACHE_HIT, POOL.CACHE_MISS, POOL.WRITEBACKS, POOL.ATOMICS, POOL.BULK_ROWS, POOL.ORD_HELD_CYC, POOL.ORD_BUF_USED, POOL.ORD_NEXT]
  | .upd => [UPD.LIST_ADDR, UPD.LIST_COUNT, UPD.LIST_STEP, UPD.ARM, UPD.STATE, UPD.DESC_DONE, UPD.DESC_REFUSED, UPD.ELEM_NONFINITE, UPD.UPD_BUSY_CYC, UPD.LAST_REFUSE_CODE, UPD.LAST_REFUSE_TAG]
  | .field => []
  | .coll => [COLL.COLLCTL_RXSLICE, COLL.COLLCTL_RXOFF, COLL.COLLCTL_RXKIB, COLL.VIEW_BUF0, COLL.VIEW_VALID, COLL.VIEW_BUF1, COLL.GLOAD_ADDR, COLL.GLOAD_GO, COLL.GLOAD_GROUP, COLL.GLOAD_STATUS_STATE, COLL.GLOAD_STATUS_ERR, COLL.GLOAD_STATUS_GROUP] ++
    [COLL.GWIN_SEL, COLL.GRP_EPOCH, COLL.GRP_P, COLL.GRP_RANK, COLL.GRP_PENDING_P, COLL.DESC_DONE, COLL.DESC_REFUSED, COLL.BYTES_SENT, COLL.BYTES_RECV, COLL.NODES_FORMED, COLL.TC0_NOSLOT, COLL.RX_FULL] ++
    [COLL.FAILED, COLL.LAST_REFUSE_CODE, COLL.LAST_REFUSE_TAG, COLL.VIEW_VER, COLL.VIEW_CUR, COLL.VIEW_WBASE]
  | .lake => [LAKE.LAKECTL_SCRUB, LAKE.CH_STATE, LAKE.CE_COUNT, LAKE.UE_COUNT, LAKE.SCRUB_PASSES, LAKE.RETRAINS, LAKE.SPARE_USED, LAKE.READ_BYTES, LAKE.WRITE_BYTES, LAKE.LAST_UE_CHANNEL, LAKE.LAST_UE_BLOCK, LAKE.HOT]
  | .basin => [LAKE.LAKECTL_SCRUB, LAKE.CH_STATE, LAKE.CE_COUNT, LAKE.UE_COUNT, LAKE.SCRUB_PASSES, LAKE.RETRAINS, LAKE.SPARE_USED, LAKE.READ_BYTES, LAKE.WRITE_BYTES, LAKE.LAST_UE_CHANNEL, LAKE.LAST_UE_BLOCK, LAKE.HOT]
  | .chk => [CHK.POINT_ENABLE, CHK.POINT_KIND, CHK.POINT_INDEX, CHK.POINT_SRC_X, CHK.POINT_SRC_Y, CHK.POINT_CLASS, CHK.POINT_TAGF, CHK.POINT_TAG, CHK.POLY, CHK.INIT, CHK.XOROUT, CHK.FORMAT_WIDTH_M1] ++
    [CHK.FORMAT_REFIN, CHK.FORMAT_REFOUT, CHK.FORMAT_CONT, CHK.FORMAT_RLEN, CHK.FORMAT_ALIVE_W, CHK.FORMAT_ALIVE_OFF, CHK.CRC_VALUE, CHK.RECORDS, CHK.ALIVE_ERR_REPEATS, CHK.ALIVE_ERR_SKIPS, CHK.LAST_ALIVE_VALUE, CHK.LAST_ALIVE_VALID] ++
    [CHK.BYTES, CHK.CLEAR, CHK.STATE, CHK.shadows]
  | .dig => [DIG.BASE, DIG.LEN, DIG.MODE, DIG.TRAILER, DIG.OPEN, DIG.CLOSE, DIG.ABORT, DIG.COMPOSE, DIG.STATE, DIG.ROOT, DIG.PROG, DIG.WSET] ++
    [DIG.INPUT, DIG.STEP, DIG.RUNDIG, DIG.BYTES_HASHED, DIG.LEAVES, DIG.RESCANS, DIG.REWRITES]
  | .port => [PORT.PORTCTL_ENABLE, PORT.STATE, PORT.ACTIVE_LANES, PORT.SPARES_USED, PORT.LANE_FAIL, PORT.LINK_DELAY, PORT.TX_BYTES, PORT.RX_BYTES, PORT.LINK_CRC_ERR, PORT.REPLAYS, PORT.RETRAINS, PORT.DOWN_EVENTS] ++
    [PORT.LOST_PKTS, PORT.TX_PKTS]
  | .cal => [CAL.CALCTL_ACTIVE, CAL.EPOCH_IN_FORCE, CAL.SWITCH_T, CAL.BANKWIN_SEL, CAL.BANK_CYCLE_NS, CAL.BANK_ORIGIN, CAL.ENTWIN_BASE, CAL.SLOT_SENT, CAL.SLOT_IDLE, CAL.SLOT_MISS_CNT, CAL.FALLEN_CNT, CAL.ENT_VALID] ++
    [CAL.ENT_SRC_KIND, CAL.ENT_SRC_INDEX, CAL.ENT_START, CAL.ENT_LEN, CAL.ENT_FALLEN, CAL.ENT_PERIOD_M1, CAL.ENT_PHASE, CAL.ENT_DST_X, CAL.ENT_DST_Y]
  | .host => [HOST.BASE, HOST.HEARTBEAT, HOST.HB_ECHO, HOST.KRESET, HOST.LINK_SPEED, HOST.LINK_WIDTH, HOST.LINK_FLIT, HOST.IFLEVEL_MIN, HOST.IFLEVEL_MAX, HOST.IFLEVEL_CHOSEN, HOST.PORT_STATE_FAILED, HOST.PORT_STATE_HB_ARMED] ++
    [HOST.EVCTL_EVVEC, HOST.EVCTL_EN, HOST.NOT_OWNER_CNT, HOST.BAD_ACCESS_CNT, HOST.FAILURES]
  | .region => [REGION.ENTRY_VALID, REGION.ENTRY_MEM, REGION.ENTRY_MODE, REGION.ENTRY_SEL, REGION.ENTRY_BASE, REGION.ENTRY_SIZE, REGION.ENTRY_POFF, REGION.UNMAPPED_CNT, REGION.UNMAPPED_ADDR_ADDR, REGION.UNMAPPED_ADDR_VALID, REGION.REMAP_HOLD_CYC]
  | .router => [ROUTER.ROUTERCTL_DIM_X, ROUTER.ROUTERCTL_DIM_Y, ROUTER.ROUTERCTL_MY_X, ROUTER.ROUTERCTL_MY_Y, ROUTER.E2ECTL_WIN_LOG2, ROUTER.E2ECTL_RTO_US, ROUTER.E2ECTL_RETRY, ROUTER.EPOCHCTL_ACTIVE, ROUTER.EPOCH_IN_FORCE, ROUTER.EPOCH_DRAINING, ROUTER.DRAIN_END, ROUTER.BANKWIN_SEL] ++
    [ROUTER.BANK_PORT_OFF, ROUTER.BANK_DETOUR_DIR, ROUTER.BANK_DRONE_X, ROUTER.BANK_DRONE_Y, ROUTER.BANK_DRONE_VALID, ROUTER.E2E_SENT, ROUTER.E2E_RETRANS, ROUTER.E2E_DUP, ROUTER.E2E_CRC_ERR, ROUTER.E2E_FAIL_CNT, ROUTER.LIFETIME_DROP, ROUTER.UNROUTABLE_CNT] ++
    [ROUTER.DETOUR_CNT, ROUTER.NAK_SENT, ROUTER.NAK_RECV]
  | .time => [TIME.TIMECTL_ROOT_PRIO, TIME.TIMECTL_EXTREF, TIME.TIMECTL_HOLD_LIMIT, TIME.HT_NS, TIME.HT_FRAC, TIME.STATUS_STATE, TIME.STATUS_VALID, TIME.STATUS_DEPTH, TIME.STATUS_PARENT, TIME.STATUS_ROOT_X, TIME.STATUS_ROOT_Y, TIME.OFFSET_PS] ++
    [TIME.STEP_NS, TIME.SET, TIME.FREEZE_AT, TIME.FREEZE_ID, TIME.FREEZE_ARM, TIME.FREEZE_ARMED, TIME.REPARENTS, TIME.STEP_DISCARDS, TIME.HOLD_ENTRIES, TIME.ROOT_CHANGES, TIME.FREEZES, TIME.EXTCTL_PPS_DELAY]
  | .barr => [BARR.BWIN_BASE, BARR.BAR_RELEASES, BARR.BAR_OVERRUNS, BARR.BAR_LATE_REL, BARR.BAR_ORPHAN, BARR.BAR_COUNT_ERR, BARR.OBJ_VALID, BARR.OBJ_JOBB, BARR.OBJ_ROOT, BARR.OBJ_DESTROY, BARR.OBJ_LOCAL_N, BARR.OBJ_CHILD_N] ++
    [BARR.OBJ_PARENT_X, BARR.OBJ_PARENT_Y, BARR.OBJ_TOTAL, BARR.OBJ_LEAD_NS, BARR.OBJ_GEN, BARR.OBJ_PENDING, BARR.OBJ_ARRIVED_0, BARR.OBJ_ARRIVED_1]
  | .scale => [SCALE.SCALECTL_ZRUN_LIMIT, SCALE.SWIN_BASE, SCALE.SKIP_STEPS, SCALE.GATE_RESULT, SCALE.GATE_VALID, SCALE.GATE_RESBANK, SCALE.SILENT_LAST_SLOT, SCALE.SILENT_LAST_COUNT, SCALE.GATE_LATE_CNT, SCALE.CLAMP_CNT, SCALE.SLOT_FMT, SCALE.SLOT_ENABLE] ++
    [SCALE.SLOT_EXACT, SCALE.SLOT_HM1, SCALE.SLOT_HEADROOM, SCALE.SLOT_GATE, SCALE.SLOT_LRFOLD, SCALE.SLOT_LR, SCALE.SLOT_SCALE, SCALE.SLOT_AMAX_HIST, SCALE.SLOT_ZRUN, SCALE.SLOT_FLUSH_FRAC, SCALE.SLOT_HCOUNT, SCALE.SLOT_NONFINITE] ++
    [SCALE.SLOT_SAT, SCALE.SLOT_SILENT, SCALE.SLOT_POISON, SCALE.SLOT_AMAX_STEP, SCALE.SLOT_PENDING]
  | .ring => [RING.RWIN_BASE, RING.ENTRIES_DONE, RING.RECV_CNT, RING.RX_REFUSED, RING.HELD_DISCARDED, RING.DB_IGNORED, RING.WIN_SQ_BASE, RING.WIN_CQ_BASE, RING.WIN_LOG2_DEPTH, RING.WIN_OWNER, RING.WIN_ENABLE, RING.WIN_TARGET_KIND] ++
    [RING.WIN_TARGET_INDEX, RING.WIN_VECTOR, RING.WIN_MSIX_EN, RING.WIN_ACCEPT, RING.WIN_COAL_N, RING.WIN_COAL_US, RING.WIN_CMD, RING.WIN_SQ_HEAD, RING.WIN_SQ_TAIL, RING.WIN_CQ_TAIL, RING.WIN_CQ_HEAD, RING.WIN_STATE] ++
    [RING.WIN_ERR, RING.WIN_HELD, RING.WIN_DONE]
  | .ras => [RAS.RASCTL_PERM_COUNT, RAS.RASCTL_PERM_WINDOW_H, RAS.RASCTL_RETRY_FAILS, RAS.RASCTL_INJ_COUNT, RAS.FAULTS_TRANSIENT, RAS.FAULTS_PERMANENT, RAS.SPARES_DONE, RAS.PENDING_COMB, RAS.PENDING_FIELD, RAS.LOG_NEXT, RAS.LOG_READ, RAS.LOG_LOST] ++
    [RAS.LOGWIN_SEL, RAS.SLOTIMG_ADDR, RAS.SLOTIMG_CMD, RAS.SLOTIMG_STATE, RAS.LOGE_T, RAS.LOGE_TYPE, RAS.LOGE_INSTANCE, RAS.LOGE_DETECTOR, RAS.LOGE_PERMANENT, RAS.LOGE_INJECTED, RAS.LOGE_KEY, RAS.LOGE_REPORTS] ++
    [RAS.LOGE_RETRY_FAILS]
  | .keep => [KEEP.SEED_SEED_LO, KEEP.SEED_SEED_HI, KEEP.KEEPCTL_WDOG_MS, KEEP.KEEPCTL_HB_TIMEOUT_MS, KEEP.KEEPER_RESETS, KEEP.WDOG_EXPIRIES, KEEP.FW_ACTIVE, KEEP.FW_VERSION_A, KEEP.FW_VERSION_B, KEEP.FW_ADDR, KEEP.FW_LEN, KEEP.FW_CMD] ++
    [KEEP.FW_STATE, KEEP.MODE_TEST, KEEP.TRAY_ID, KEEP.FORCE_RETAIN, KEEP.ALERT]
  | .sec => [SEC.BOOT_STATE, SEC.BOOT_IDENTITY_VALID, SEC.BOOT_TIME_VALID, SEC.READY_MS, SEC.MIN_VERSION, SEC.SIG_FAILS, SEC.RECORD_BAD_CNT, SEC.ID_DIGEST]
  | .pwr => [PWR.PWRCTL_LIMIT_W, PWR.PWRCTL_T_HOT, PWR.PWRCTL_AUTOWAKE, PWR.PWRCTL_IDLE_US, PWR.STATE, PWR.REQ, PWR.RESET_COMPUTE, PWR.RESET_ROUTER, PWR.RESET_BIST, PWR.THROTTLE_A_CAP, PWR.THROTTLE_A_0, PWR.THROTTLE_A_1] ++
    [PWR.THROTTLE_A_2, PWR.THROTTLE_A_3, PWR.INPUT_W, PWR.DIE_TEMP, PWR.THROTTLED_CYC, PWR.RETAIN_ENTRIES, PWR.COMPUTE_RESETS, PWR.THERMAL_TRIPS, PWR.IN, PWR.OUT, PWR.INPUT_MV_DIV16]
  | .clk => [CLK.LOCK_ROOT, CLK.LOCK_LAKE, CLK.LOCK_BASIN, CLK.LOCK_PORT, CLK.LOCK_HOST, CLK.FREQ_OFFSET_PPB, CLK.UNLOCKS]

end Sys2Proof.Machine.Reg
end

