-- ==== Sys2Proof/State/Chk.lean ====
section
/-! DEFINITION. What a check unit keeps beside its registers (R403 to R407). -/

namespace Sys2Proof.Machine

structure ChkSt where
  /-- the CRC register inside a record, and what CONT carries over; none: the next record starts at INIT -/
  raw : Option Nat
  /-- bytes of the record so far, and those of its alive counter -/
  pos : Nat
  alive : Bytes
  /-- accepted descriptors of a tapped DMA engine in issue order, with their bytes once they have completed -/
  order : List (Nat × Option Bytes)
deriving DecidableEq, Repr

def ChkSt.reset : ChkSt := { raw := none, pos := 0, alive := [], order := [] }

end Sys2Proof.Machine
end

