-- ==== Sys2Proof/State/Coll.lean ====
section
/-! DEFINITION. What a collective engine holds (R358 to R383): groups, its queue, descriptors in progress with their tree
nodes, and its receive buffer. -/

namespace Sys2Proof.Machine

/-- A rank: X, Y and engine (R360). -/
structure Rank where
  x : Nat
  y : Nat
  eng : Nat
deriving DecidableEq, Repr

/-- A group number of an engine: the record in force, the pending one, the layout epoch, and the next OPSEQ (R361, R367,
R379). -/
structure GroupSt where
  rec? : Option (List Rank)
  pend : Option (List Rank)
  epoch : Nat
  seq : Nat
deriving DecidableEq, Repr

def GroupSt.reset : GroupSt := { rec? := none, pend := none, epoch := 0, seq := 0 }

/-- A descriptor that the engine accepted, and who issued it: a context of a unit, or a ring entry. Behind its sixteen words
stand those of its layer or buffer list (R374, R381). -/
structure CollItem where
  id : Nat
  unit : Nat
  ctx : Nat
  ring : Option (Nat × Nat)
  words : List Nat
  seed : Nat
  /-- BUF0 and BUF1 of its view when it was accepted (R31, R383) -/
  bufs : Nat × Nat
deriving DecidableEq, Repr

/-- An element of a tree node: FP32 code, poison and gate. -/
structure NodeElem where
  code : Nat
  bad : Bool
  gate : Bool
deriving DecidableEq, Repr

/-- A layer of a GATHER_AHEAD or a buffer of a PERMUTE: its record, the runs of elements written, and whether it has
started. -/
structure LayerSt where
  words : List Nat
  cov : List (Nat × Nat)
  started : Bool
deriving DecidableEq, Repr

/-- A descriptor in progress. -/
structure CollRun where
  item : CollItem
  opseq : Nat
  ranks : List Rank
  /-- the pending record of a PERMUTE -/
  nextRanks : List Rank
  /-- nodes by level · 2^17 + index, each by element -/
  nodes : SMap (SMap NodeElem)
  /-- runs of elements of DST that have been written -/
  cov : List (Nat × Nat)
  /-- runs of elements whose sums a failed packet of this rank would have fed (R365) -/
  fails : List (Nat × Nat)
  /-- the buffer that its view named when it started (R383) -/
  view : Nat
  /-- gate-only packets received, and whether those of this rank's root have gone out (R373) -/
  gates : Nat
  gatesSent : Bool
  gate : Bool
  layers : List LayerSt
  released : Nat
  /-- barrier entry: the generation that is waited for -/
  barrier : Option Nat
  /-- 0 before the first barrier of a PERMUTE, 3 released but held by its locations, 1 moving, 2 after its second entry; 1 once a
  GATECLOSE has entered -/
  phase : Nat
  code : Nat
  /-- it ends with a code as soon as its completion record can be written -/
  ending : Option Nat
  poisoned : Bool
  /-- hive time of the last packet received for it -/
  last : Nat
deriving DecidableEq, Repr

structure CollSt where
  queue : List CollItem
  running : List CollRun
  nextId : Nat
  groups : SMap GroupSt
  /-- kept packets with the hive time of their delivery (R367) -/
  kept : List (Packet × Nat)
  /-- the group and the address of a running load (R361) -/
  load : Option (Nat × Nat)
deriving DecidableEq, Repr

def CollSt.reset : CollSt := { queue := [], running := [], nextId := 0, groups := [], kept := [], load := none }

end Sys2Proof.Machine
end

