-- ==== Sys2Proof/State/Core.lean ====
section
/-! DEFINITION. What a unit's control core and vector unit hold: contexts (R114, R116, R120, R121), their waits (R117),
vector ownership (R119), the store buffer (R85, R264) and reductions in progress (R132). -/

namespace Sys2Proof.Machine

/-- CTX[c].STATE, R116. -/
inductive CtxState where
  | halted | ready | running | waiting | faulted
deriving DecidableEq, Repr

/-- What a WAITING context waits for, R117. A wait that an event completes (a barrier release, a reduction) carries the
register that the completion writes. -/
inductive Wait where
  | none
  | mxQueue | mxWait
  | svQueue | svWait
  | coQueue | coWait
  | coLayer (tag : Nat) (layer : Nat)
  | dma (tag : Nat)
  /-- the queue by its key: comb of the consumer · 1024 + number -/
  | qin (key : Nat) (gd : Nat)
  | qout (key : Nat) (gd : Nat)
  /-- counted toward a generation of an object and waiting for its release (R348) -/
  | bar (obj : Nat) (gen : Nat) (gd : Nat)
  /-- the hold of an early re-entry (R348) -/
  | barHold (obj : Nat)
  | time (t : Word)
  | reduce
  | vecWake
  | vecMove
deriving DecidableEq, Repr

/-- A DMA completion as WAIT.DMA reports it, R257. -/
structure DmaDone where
  tag : Nat
  code : Nat
  collide : Bool
  poison : Bool
deriving DecidableEq, Repr

/-- What a context has issued to a queue and what it has learned since its last wait (R93, R147, R359). -/
structure Issued where
  /-- not yet completed -/
  out : Nat
  /-- TAG of the most recently completed -/
  tag : Nat
  refused : Bool
  poisoned : Bool
  /-- STATUS of the last forward solve (R147), or code of the last collective (R359) -/
  code : Nat
deriving DecidableEq, Repr

/-- Nothing issued; a wait then reports TAG 0, and SV.WAIT STATUS 0 until a forward solve has completed. DESIGN CHOICE, logs 97
and 100. -/
def Issued.empty : Issued := { out := 0, tag := 0, refused := false, poisoned := false, code := 0 }

/-- A hardware context, R114, R116, R121. -/
structure Ctx where
  state : CtxState
  pc : BitVec 24
  /-- general registers that are not zero -/
  g : SMap Word
  vl : Nat
  srTensor : BitVec 20
  srBind : Bool
  srEbase : Word
  /-- numeric flags, bit order of NUMCTL.FLAGS (R66, R137) -/
  flags : BitVec 8
  fault : Byte
  faultPc : BitVec 24
  wait : Wait
  /-- a HALT that waits for a barrier release (R120) -/
  haltAtRelease : Bool
  mx : Issued
  sv : Issued
  co : Issued
  /-- the last 64 DMA completions, newest first (R257) -/
  dma : List DmaDone
deriving DecidableEq, Repr

/-- A context at reset: HALTED, everything zero (R120, R138). -/
def Ctx.reset : Ctx :=
  { state := .halted, pc := 0, g := [], vl := 0, srTensor := 0, srBind := false, srEbase := 0, flags := 0, fault := 0,
    faultPc := 0, wait := .none, haltAtRelease := false, mx := .empty, sv := .empty, co := .empty, dma := [] }

/-- A store that waits in the store buffer under R85. -/
structure HeldStore where
  ctx : Nat
  addr : Nat
  data : Bytes
  poison : Bool
deriving DecidableEq, Repr

/-- What a reduction writes: at DST, with its poison, and into its context's flags (R132). -/
structure RedOut where
  dst : Nat
  data : Bytes
  bad : Bool
  flags : BitVec 8
deriving DecidableEq, Repr

/-- A VREDSUM or VTOPK in progress (R132): its context and the register that the completion writes. -/
structure VReduce where
  ctx : Nat
  gd : Nat
  /-- the context still stands at the instruction: no RESET and no PC write since (R120) -/
  linked : Bool
  /-- completed while the context was halted in the wait: the instruction, executed again, only takes its result -/
  done : Bool
  /-- the result that it still has to write -/
  out : Option RedOut
deriving DecidableEq, Repr

/-- What a unit holds beside its contexts. -/
structure UnitSt where
  /-- context last selected by the core (R116, R118) -/
  lastSel : Option Nat
  /-- vector owner (R119) -/
  vOwner : Option Nat
  /-- the vector unit is powered down (R135) -/
  vDown : Bool
  /-- the context whose vector instruction wakes the unit -/
  vWake : Option Nat
  /-- the issuer for which vector state is being moved -/
  vMove : Option Nat
  /-- a VPDN waits for the instructions in flight (R135) -/
  vPend : Bool
  /-- tick of the last vector instruction (R135) -/
  vLast : Nat
  /-- contexts that hold an image since their last RESET, with the pond address at which it was saved (R119, R138) -/
  vImage : SMap Nat
  reduce : List VReduce
  held : List HeldStore
deriving DecidableEq, Repr

/-- A unit at reset. -/
def UnitSt.reset : UnitSt :=
  { lastSel := none, vOwner := none, vDown := false, vWake := none, vMove := none, vPend := false,
    vLast := 0, vImage := [], reduce := [], held := [] }

/-- Reductions that the vector unit still works on (R135). -/
def UnitSt.inFlight (x : UnitSt) : List VReduce := x.reduce.filter (fun r => !r.done)

/-- A context leaves the instruction whose reduction is in progress: the reduction goes on without it. -/
def UnitSt.unlink (x : UnitSt) (c : Nat) : UnitSt :=
  { x with reduce := (x.reduce.filter (fun r => !(r.done && decide (r.ctx = c)))).map (fun r =>
      if r.ctx = c then { r with linked := false } else r) }

/-- Contexts (key unit · 16 + context), units, vector registers (key unit · 32 + v), poison marks of their 4-bit parts,
and predicates (key unit · 8 + p). -/
structure CoreSt where
  ctxs : SMap Ctx
  units : SMap UnitSt
  vregs : SMap (BitVec 2048)
  vmarks : SMap (BitVec 512)
  preds : SMap (BitVec 256)
deriving DecidableEq, Repr

/-- The cores at reset. -/
def CoreSt.reset : CoreSt := { ctxs := [], units := [], vregs := [], vmarks := [], preds := [] }

end Sys2Proof.Machine
end

