-- ==== Sys2Proof/State/Dig.lean ====
section
/-! DEFINITION. What a digest engine keeps beside its registers (R398 to R402). -/

namespace Sys2Proof.Machine

structure DigSt where
  /-- written runs of window bytes as (start, end), rising and apart -/
  cov : List (Nat × Nat)
  /-- leaves hashed while snooping, and leaves left or marked for rescan (R399) -/
  hashed : List Nat
  rescan : List Nat
  /-- a poisoned or unmapped word was met; a write raced with the hashing (R400) -/
  poisoned : Bool
  raced : Bool
  /-- RUNDIG as the trailer uses it: held at CLOSE or at OPEN (R402) -/
  runAt : Nat
deriving DecidableEq, Repr

def DigSt.reset : DigSt := { cov := [], hashed := [], rescan := [], poisoned := false, raced := false, runAt := 0 }

end Sys2Proof.Machine
end

