-- ==== Sys2Proof/State/Dma.lean ====
section
/-! DEFINITION. The DMA engines (R251 to R258). -/

namespace Sys2Proof.Machine

/-- A descriptor in an engine. -/
structure DmaItem where
  id : Nat
  ctx : Nat
  words : List Nat
  /-- what it keeps from its acceptance: job seed and DENORM (R31, R137, R397) -/
  seed : Nat
  denorm : Bool
  /-- and PONDCTL.STARVE_THR (R31, R249) -/
  starveThr : Nat
  started : Bool
  /-- tick of its start, for R249 -/
  startedAt : Nat
  starved : Bool
  /-- waits in an order buffer (R263) -/
  buffered : Bool
  /-- the pool part has been performed, or refused with a code -/
  performed : Bool
  code : Nat
  poison : Bool
  /-- the destination bytes that it wrote, as a check unit sees them (R403) -/
  wrote : Bytes
  /-- old values of the target elements of an atomic, with their marks, until they are written at RET (R255) -/
  old : List (Nat × Bool)
deriving DecidableEq, Repr

/-- The queues of the engines by unit, and the next descriptor identity. -/
structure DmaSt where
  queues : SMap (List DmaItem)
  nextId : Nat
deriving DecidableEq, Repr

def DmaSt.reset : DmaSt := { queues := [], nextId := 0 }

end Sys2Proof.Machine
end

