-- ==== Sys2Proof/State/Fabric.lean ====
section
/-! DEFINITION. What the router, the ports, the calendars and the barrier unit hold beside their registers (R302 to R321,
R339 to R352). -/

namespace Sys2Proof.Machine

/-- Who learns how a packet ended (R300, R315): nobody, a descriptor of a collective engine, or a ring entry. -/
inductive PktOwner where
  | nobody
  | coll (engine id : Nat)
  | ring (ring idx : Nat)
deriving DecidableEq, Repr

/-- A packet that an endpoint offers and the router has not admitted yet (R311). -/
structure Offer where
  pk : Packet
  owner : PktOwner
deriving DecidableEq, Repr

/-- A packet in an output buffer with its virtual channel, and the input port and channel whose buffer it still fills, if it
came in by one (R306). -/
structure OutEnt where
  vc : Nat
  pk : Packet
  inb : Option (Nat × Nat)
deriving DecidableEq, Repr

/-- A scheduled packet that waits for its slot, with its input port and the instant at which it is ready (R303, R341). -/
structure Tc0Ent where
  inPort : Nat
  ready : Nat
  pk : Packet
deriving DecidableEq, Repr

/-- A packet at its destination, with the instant of its delivery when that is fixed (R341), and the input buffer that it
fills (R306). -/
structure ArrEnt where
  pk : Packet
  at? : Option Nat
  inb : Option (Nat × Nat)
deriving DecidableEq, Repr

/-- A packet outstanding at its sender (R311): when it was last sent, its resends, for a multicast the receivers that
have not acknowledged, and E2E_RTO in ns and E2E_RETRY as they stood when it was accepted (R31). -/
structure OutPkt where
  pk : Packet
  owner : PktOwner
  sent : Nat
  resends : Nat
  waitFor : List (Nat × Nat)
  rto : Nat
  retry : Nat
deriving DecidableEq, Repr

/-- A flow at its sender (R310 to R315). -/
structure FlowTx where
  fl : FlowId
  next : Nat
  out : List OutPkt
  /-- the SEQ of a RESYNC that has not been answered, by whom, and how often and when it was sent last -/
  resync : Option Nat
  resyncFrom : List (Nat × Nat)
  resyncs : Nat
  resyncAt : Nat
  /-- E2E_RTO and E2E_RETRY of the packet whose failure brought the RESYNC -/
  rto : Nat
  retry : Nat
deriving DecidableEq, Repr

/-- A flow as its receiver names it (R310). -/
structure RxKey where
  x : Nat
  y : Nat
  tc : Nat
  mflow : Bool
  axis : Bool
  dir : Bool
deriving DecidableEq, Repr

/-- A flow at its receiver (R309, R312): CUM, what has been delivered beyond it, the packets held for order (TC2), and the
payloads that a check unit has still to see in order (R403). -/
structure FlowRx where
  key : RxKey
  cum : Nat
  got : List Nat
  hold : List Packet
  taps : List (Nat × Bytes)
deriving DecidableEq, Repr

/-- A barrier object (R346 to R352): the words that software writes, and what a generation has collected. -/
structure BarObj where
  cfg : Word
  lead : Nat
  gen : Nat
  arr0 : BitVec 64
  arr1 : BitVec 64
  /-- child reports with their modules and counts, for g and g + 1 -/
  kids0 : List (Nat × Nat × Nat)
  kids1 : List (Nat × Nat × Nat)
  /-- the generation is complete here: reported, released or found short -/
  complete : Bool
  release : Option Nat
deriving DecidableEq, Repr

def BarObj.reset : BarObj :=
  { cfg := 0, lead := 0, gen := 0, arr0 := 0, arr1 := 0, kids0 := [], kids1 := [], complete := false, release := none }

structure FabSt where
  offers : List Offer
  /-- output buffers, by port -/
  outs : SMap (List OutEnt)
  tc0 : List Tc0Ent
  arrived : List ArrEnt
  tx : List FlowTx
  rx : List FlowRx
  /-- router banks: key bank · 4096 + offset -/
  banks : SMap Word
  /-- bytes sent by TC3 and TC1 since they began to share a port (R302) -/
  shared : SMap (Nat × Nat)
  /-- the port has trained before (R325 RETRAINS) -/
  trained : SMap Bool
  /-- tick of the last UNROUTABLE, SLOT_MISS by port, and BAR_LATE -/
  routeAt : Option Nat
  missAt : SMap (Option Nat)
  lateAt : Option Nat
  /-- calendar banks: key (port · 2 + bank) · 65536 + offset; offsets 0 and 8 are CYCLE_NS and ORIGIN, 256 + 16·i entry i -/
  cal : SMap Word
  /-- tick of the last calendar-epoch switch, by port (R343) -/
  calSwitch : SMap (Option Nat)
  bars : SMap BarObj
  /-- tick of the last release of a job barrier (R351) -/
  lastJob : Option Nat
  /-- replays of a port within the last 1 ms, newest first: tick and number (R296) -/
  replays : SMap (List (Nat × Nat))
  /-- tick at which the slot that a port sends its scheduled packet in ends (R302, R339) -/
  slotEnd : SMap Nat
deriving DecidableEq, Repr

def FabSt.reset : FabSt :=
  { offers := [], outs := [], tc0 := [], arrived := [], tx := [], rx := [], banks := [], shared := [], trained := [],
    routeAt := none, missAt := [], lateAt := none, cal := [], calSwitch := [], bars := [], lastJob := none,
    replays := [], slotEnd := [] }

end Sys2Proof.Machine
end

