-- ==== Sys2Proof/State/Host.lean ====
section
/-! DEFINITION. What a host port holds beside its registers (R433 to R436, R447, R448): link and PERST as the port sees them,
the heartbeat supervision, and the MSI-X table and pending bits. -/

namespace Sys2Proof.Machine

structure HostPort where
  linkUp : Bool
  perst : Bool
  /-- tick since which the link is down -/
  downSince : Nat
  /-- ticks of the last change of HEARTBEAT and of HB_ECHO (R430, R447) -/
  hbSince : Nat
  echoSince : Nat
  /-- HEARTBEAT has changed since the port entered FAILED (R448) -/
  hbMoved : Bool
deriving DecidableEq, Repr

def HostPort.reset : HostPort :=
  { linkUp := false, perst := false, downSince := 0, hbSince := 0, echoSince := 0, hbMoved := false }

/-- A doorbell write that waits for the end of a wake (R464). -/
structure HeldBell where
  port : HostId
  ring : Nat
  half : Bool
  bytes : Nat
  val : Word
deriving DecidableEq, Repr

structure HostSt where
  ports : SMap HostPort
  /-- doorbell writes that are held, oldest first -/
  bells : List HeldBell
  /-- vectors whose mask bit is clear, key port · 2048 + vector -/
  unmasked : SMap Bool
  /-- pending bits -/
  pend : SMap Bool
  /-- message address and data of the vectors, by the same key -/
  table : SMap (Word × BitVec 32)
deriving DecidableEq, Repr

def HostSt.reset : HostSt := { ports := [], bells := [], unmasked := [], pend := [], table := [] }

end Sys2Proof.Machine
end

