-- ==== Sys2Proof/State/Matrix.lean ====
section
/-! DEFINITION. The matrix queue, the instruction in the arrays, and held tiles of a tensor cell (R73, R82, R83, R112). -/

namespace Sys2Proof.Machine

/-- A queued matrix instruction: the issuing context, the descriptor's words as read at issue (R73, R74), the save slot
that a tile it starts will use (R113), and what it keeps from its acceptance: job seed, SRCTL.STEP and MXCTL (R31, R397). -/
structure MxItem where
  ctx : Nat
  words : List Nat
  slot : Nat
  seed : Nat
  step : Nat
  tol : Nat
  retry : Bool
  /-- the arrays were idle and the queue empty when it entered (R78) -/
  first : Bool
deriving DecidableEq, Repr

/-- A tile: the descriptor that started it, its scales, and what the accumulators and the checksum column hold.
Accumulators are 40-bit codes keyed (array · 64 + row) · 64 + column; an unlisted one is zero. -/
structure Tile where
  words : List Nat
  sA : Nat
  sB : Nat
  /-- the instruction that last worked on it (its TAG and tolerance serve a check at a save) -/
  tag : Nat
  tol : Nat
  /-- products per accumulator since the start or the last restore (R89) -/
  kt : Nat
  acc : SMap Nat
  /-- accumulators whose sum includes a poisoned product, or that were restored poisoned (R92, R90) -/
  bad : List Nat
  /-- C_r and U_r, keyed array · 64 + row (R86, R88), as codes of the accumulator format -/
  cs : SMap Nat
  us : SMap Nat
  /-- a checksum term of the row was NaN, infinite or poisoned (R89) -/
  skip : List Nat
  /-- FP4 × FP4: the term that still waits for its partner, by accumulator; none in it stands for a poisoned term (R84, R98) -/
  half : SMap (Option Num)
deriving DecidableEq, Repr

/-- The instruction in the arrays: the scales it read when it left the queue (R80), the LR of an LRFOLD slot (R62), and
the DENORM mode it keeps (R137), and the EXPAND = 2 records as they were read then (R74): scale code, zero point, reserved bits,
poison. -/
structure MxRun where
  item : MxItem
  sA : Nat
  sB : Nat
  sOut : Nat
  lr : Option Nat
  denorm : Bool
  recs : List (Nat × Int × Nat × Bool)
deriving DecidableEq, Repr

/-- The arrays of a cell. -/
structure MxSt where
  queue : List MxItem
  running : Option MxRun
  /-- held tiles by context; the resident one has its accumulators in the arrays, the others in their save slots -/
  tiles : SMap (Option Tile)
  resident : Option Nat
  /-- the save slot in force for a context's held tile (R113) -/
  slots : SMap Nat
  /-- the descriptor that the arrays executed last (R78) -/
  prev : Option (List Nat)
deriving DecidableEq, Repr

def MxSt.reset : MxSt := { queue := [], running := none, tiles := [], resident := none, slots := [], prev := none }

end Sys2Proof.Machine
end

