-- ==== Sys2Proof/State/Memory.lean ====
section
/-! DEFINITION. What the memory controllers and pool slices keep beside their contents and registers: lanes and retraining
of lake channels and basin devices (R281 to R284), the region hold (R275), scratch holds (R261) and order buffers
(R263). -/

namespace Sys2Proof.Machine

/-- A lake channel (0 to 255) or basin device (256 to 279). -/
structure ChanSt where
  /-- lanes that have failed permanently or in training -/
  lanes : List Nat
  /-- an in-place retraining runs, and accesses are held (R281) -/
  retrain : Bool
  /-- while the channel is retired: its 64 KiB spans that have been copied (R283) -/
  copied : Nat
deriving DecidableEq, Repr

def ChanSt.reset : ChanSt := { lanes := [], retrain := false, copied := 0 }

/-- A buffered ORDERED descriptor (R263). -/
structure OrdEnt where
  unit : Nat
  id : Nat
  group : Nat
  ticket : Nat
deriving DecidableEq, Repr

/-- A window access, or another access at a home slice, that memory holds (R261, R266, R275, R281, R283, R286). -/
inductive HeldReq where
  /-- a read, with the port that it answers -/
  | read (port : Option HostId) (a n : Nat)
  | write (a : Nat) (data : Bytes) (poisoned : Bool)
deriving DecidableEq, Repr

structure MemSt where
  chans : SMap ChanSt
  /-- order buffers, by slice -/
  order : SMap (List OrdEnt)
  /-- a region commit is due: accesses to changed ranges are held (R275) -/
  remap : Bool
  /-- slices whose POOL.SCRATCH commit is due: new operations are held (R261) -/
  scratchDue : SMap Bool
  /-- 8-byte words, by number, that the next read of their block gets poisoned though they are stored sound (R279, R414) -/
  delivered : SMap Bool
  /-- held accesses, in the order in which they came -/
  held : List HeldReq
  /-- how many of them, from the front, were accepted before the region commit that is due (R275) -/
  early : Nat
  /-- the block that the patrol scrub of a page reads next, by page number (R280) -/
  scrub : SMap Nat
deriving DecidableEq, Repr

def MemSt.reset : MemSt := { chans := [], order := [], remap := false, scratchDue := [], delivered := [], held := [], early := 0, scrub := [] }

end Sys2Proof.Machine
end

