-- ==== Sys2Proof/State/Power.lean ====
section
/-! DEFINITION. The module flash (R299, R429, R454, R472), the keeper (R429, R430), power, reset domains and pins (R460 to
R468, R479 to R486). -/

namespace Sys2Proof.Machine

/-- A firmware image in the flash (R469): whether it passes its checks, its version, the SHA-256 of its body, and the
solve-program patch it holds (R429). -/
structure FwImage where
  ok : Bool
  version : Nat
  digest : Bytes
  patch : Nat
deriving DecidableEq, Repr

/-- A PLACEMENT record (R299). -/
structure Placement where
  dimX : Nat
  dimY : Nat
  myX : Nat
  myY : Nat
  /-- ENABLE by port -/
  ports : List Bool
deriving DecidableEq, Repr

/-- What a flash record of a type that R472 names holds. The spec lays no payload out: those that the keeper reads stand as what they
say, the others as their bytes. -/
inductive RecordBody where
  /-- 0x01: the retired units -/
  | sparing (retired : List Nat)
  /-- 0x02 -/
  | minVersion (version : Nat)
  /-- 0x03: transceiver asymmetry and sensor trims -/
  | calibration (payload : Bytes)
  /-- 0x04 -/
  | pufHelper (payload : Bytes)
  /-- 0x05: an X.509 certificate in DER -/
  | idCert (payload : Bytes)
  /-- 0x06: true for image B -/
  | bootSelect (b : Bool)
  /-- 0x07 -/
  | placement (p : Placement)
deriving DecidableEq, Repr

/-- A flash record (R472): TYPE, SIGNER and SEQ of its header, whether the rest of the header is right (its length is that of the payload
and its other bytes are zero), whether its signature verifies under its signer's key, and its payload. -/
structure FlashRecord where
  type : Nat
  signer : Nat
  seq : Nat
  headOk : Bool
  sigOk : Bool
  body : RecordBody
deriving DecidableEq, Repr

/-- The module flash: the only part that keeps its contents without power (R486). -/
structure Flash where
  imgA : FwImage
  imgB : FwImage
  records : List FlashRecord
deriving DecidableEq, Repr

/-- Flash as the model begins. DESIGN CHOICE, log 4: both images pass, no record has been written. -/
def Flash.reset : Flash :=
  let img : FwImage := { ok := true, version := 0, digest := List.replicate 32 0, patch := 0 }
  { imgA := img, imgB := img, records := [] }

structure PowerSt where
  /-- PWR_OK is high (R486) -/
  pwrOk : Bool
  /-- the module domain is out of reset: PWR_OK is high and the rail is not locked out (R485, R486) -/
  on : Bool
  /-- the rail fell below 45 V and has not returned (R485) -/
  lockout : Bool
  /-- the compute domain is in reset, and BIST runs in it (R461) -/
  computeReset : Bool
  bist : Bool
  /-- the router domain is in reset (R323) -/
  routerReset : Bool
  /-- the module has reported ready (R456) -/
  ready : Bool
  /-- the ROM self-test has failed: nothing further runs (R452) -/
  dead : Bool
  /-- FORCE_RETAIN_N is asserted (R465) -/
  forced : Bool
  /-- the TRAY_ID pins (R480) -/
  trayPins : BitVec 4
  /-- Retain has been asked for while the module wakes (R464) -/
  again : Bool
  /-- last tick at which something kept the compute domain from Idle (R463) -/
  busyAt : Nat
  /-- the values of the thermal and droop governors, by field (R468) -/
  therm : SMap Nat
  droop : SMap Nat
  /-- hottest reading by field, and the tick since which it has been above T_HOT + 15 -/
  temps : SMap Int
  hotAt : SMap (Option Nat)
  /-- tick at which a PLL lost its lock, by number (R415, R459) -/
  pllAt : SMap (Option Nat)
  /-- what the boot that waits in RECOVERY has found (R454) -/
  boot : Option BootReport
  /-- the boot attestation report (R452, R473) -/
  bootAttest : Bytes
  /-- tick at which the watchdog was last serviced (R430) -/
  wdogAt : Nat
  /-- requests of the management port that wait for the end of a handover (R429, R445, R484) -/
  mgmt : List (BitVec 64 × Bytes)
  /-- the keeper restarts (R430), and the level of MGMT_ALERT_N that it holds meanwhile (R482) -/
  restarting : Bool
  alertHeld : Bool
  /-- PLACEMENT is due to be written when the keeper resumes (R299, R430) -/
  placeDue : Bool
  flash : Flash
deriving DecidableEq, Repr

def PowerSt.reset : PowerSt :=
  { pwrOk := false, on := false, lockout := false, computeReset := false, bist := false, routerReset := false, ready := false, dead := false,
    forced := false, trayPins := 0xF, again := false, busyAt := 0,
    therm := [], droop := [], temps := [], hotAt := [], pllAt := [], boot := none, bootAttest := [], wdogAt := 0, mgmt := [], restarting := false, alertHeld := false,
    placeDue := false, flash := Flash.reset }

end Sys2Proof.Machine
end

