-- ==== Sys2Proof/State/Queue.lean ====
section
/-! DEFINITION. Stage maps and stage queues (R197 to R204), and the sparing map that links their logical units to physical
units (R14 to R18). -/

namespace Sys2Proof.Machine

/-- A part record, R198. -/
structure Part where
  stage : Nat
  solver : Bool
  unit : Nat
  ctx : Nat
  hold : Nat
  fbase : Nat
deriving DecidableEq, Repr

/-- A queue record, R198. -/
structure QRec where
  prod : Nat
  cons : Nat
  depth : Nat
  rsize : Nat
  pdepth : Nat
  init : Nat
  cbase : Nat
  pbase : Nat
deriving DecidableEq, Repr

/-- A stage map as it was loaded, R198. -/
structure StageMap where
  mapId : Nat
  tfoot : Nat
  sfoot : Nat
  parts : List Part
  queues : List QRec
deriving DecidableEq, Repr

/-- The maps of a comb: being loaded, loaded, captured by a pending commit, in force (R200, R202). -/
structure CombMaps where
  /-- the address that a running load reads -/
  loading : Option Word
  loaded : Option StageMap
  captured : Option StageMap
  inForce : Option StageMap
deriving DecidableEq, Repr

/-- No map. -/
def CombMaps.empty : CombMaps := { loading := none, loaded := none, captured := none, inForce := none }

/-- A queue in force: free-running counts of records pushed, delivered and popped (the first INIT count as delivered),
whether the mover carries one now, and the counters of R211 and R216. -/
structure QState where
  pushed : Nat
  delivered : Nat
  popped : Nat
  init : Nat
  moving : Bool
  records : Nat
  hwm : Nat
  stallCyc : Nat
  starveCyc : Nat
  discard : Nat
deriving DecidableEq, Repr

/-- A queue as it comes into force with INIT records (R203). -/
def QState.fresh (init : Nat) (pdepth : Nat) : QState :=
  { pushed := if pdepth = 0 then init else 0, delivered := init, popped := 0, init := init, moving := false,
    records := 0, hwm := init, stallCyc := 0, starveCyc := 0, discard := 0 }

/-- The queues: maps per comb, state per queue (key consumer comb · 1024 + queue number), and the keys of the records that
movers have still to start, in push order (R208). -/
structure QueueSt where
  combs : SMap CombMaps
  qs : SMap QState
  pushes : List Nat
deriving DecidableEq, Repr

def QueueSt.reset : QueueSt := { combs := [], qs := [], pushes := [] }

/-- A switch in progress at a spare switch point (R421): the physical unit that stops, the reserve that takes over. -/
structure SpareCopy where
  logical : Nat
  fromUnit : Nat
  toUnit : Nat
deriving DecidableEq, Repr

/-- The sparing map (R16): what serves each logical unit (none: absent), which physical units are retired, which are
marked for retirement (R420), and the copies in progress (R421). -/
structure SpareSt where
  tcells : SMap (Option Nat)
  solvs : SMap (Option Nat)
  retired : List Nat
  marked : List Nat
  copies : List SpareCopy
  /-- whole compute domain retired: drone mode (R18) -/
  drone : Bool
deriving DecidableEq, Repr

def SpareSt.reset : SpareSt := { tcells := [], solvs := [], retired := [], marked := [], copies := [], drone := false }

end Sys2Proof.Machine
end

