-- ==== Sys2Proof/State/Train.lean ====
section
/-! DEFINITION. Scale slots and the step's gate (R217 to R228, R236, R245). -/

namespace Sys2Proof.Machine

/-- What a window write has made pending for a slot, field by field (R221). -/
structure SlotPend where
  fmt : Option Nat
  enable : Option Bool
  exact : Option Bool
  hm1 : Option Nat
  headroom : Option Nat
  gate : Option Bool
  lrfold : Option Bool
  lr : Option Nat
  scale : Option Nat
deriving DecidableEq, Repr

def SlotPend.empty : SlotPend :=
  { fmt := none, enable := none, exact := none, hm1 := none, headroom := none, gate := none, lrfold := none, lr := none,
    scale := none }

/-- A scale slot. LR, SCALE and the amaxes are FP32 codes. -/
structure Slot where
  fmt : Nat
  enable : Bool
  exact : Bool
  hm1 : Nat
  headroom : Nat
  gate : Bool
  lrfold : Bool
  lr : Nat
  scale : Nat
  /-- amaxes of earlier steps, newest first (R220) -/
  hist : List Nat
  zrun : Nat
  flushFrac : Nat
  nonfinite : Bool
  sat : Bool
  silent : Bool
  poison : Bool
  amaxStep : Nat
  /-- elements written this step, written as zero, written as zero from a nonzero value (R218) -/
  writes : Nat
  zeros : Nat
  flushZeros : Nat
  pend : SlotPend
deriving DecidableEq, Repr

/-- A slot at reset, R245. -/
def Slot.reset : Slot :=
  { fmt := 2, enable := false, exact := false, hm1 := 0, headroom := 0, gate := false, lrfold := false, lr := 0x3F800000,
    scale := 0x3F800000, hist := [], zrun := 0, flushFrac := 0, nonfinite := false, sat := false, silent := false,
    poison := false, amaxStep := 0, writes := 0, zeros := 0, flushZeros := 0, pend := .empty }

/-- What a held update list keeps: the job seed of its ARM (R31, R397), and from the gate's result on the slots of the step
being updated (R223). -/
structure UpdRun where
  slots : SMap Slot
  seed : Nat
  /-- it began while a scratch commit of its slice was due, so the slice holds it (R261) -/
  late : Bool
deriving DecidableEq, Repr

structure TrainSt where
  slots : SMap Slot
  /-- armed and running update lists, by slice -/
  upd : SMap UpdRun
  /-- the module's gate contribution has been taken since the last advance (R227) -/
  contribTaken : Bool
deriving DecidableEq, Repr

def TrainSt.reset : TrainSt := { slots := [], upd := [], contribTaken := false }

end Sys2Proof.Machine
end

