-- ==== Sys2Proof/State/Ras.lean ====
section
/-! DEFINITION. What the RAS page keeps (R412 to R420, R426, R431): the fault log, the fault keys with their reports, row
repairs, and the slot image command. -/

namespace Sys2Proof.Machine

/-- A fault key: page type and instance, detector, and the key of R412. -/
structure FaultKey where
  type : Nat
  inst : Nat
  det : Nat
  key : Nat
deriving DecidableEq, Repr

/-- A fault-log entry (R431). -/
structure LogEntry where
  time : Word
  key : FaultKey
  permanent : Bool
  injected : Bool
  reports : Nat
  fails : Nat
deriving DecidableEq, Repr

/-- The record of a key: ticks of its reports and of its retry failures, newest first (R416). -/
structure KeyRec where
  key : FaultKey
  reports : List Nat
  fails : List Nat
  permanent : Bool
deriving DecidableEq, Repr

/-- A place of the SRAMs and register files in which an error can arise: an 8-byte word of a pond or of a pool slice, a 64-bit part of a
vector register, a general register (R412). -/
inductive ErrPlace where
  | pond (u off : Nat)
  | scratch (s off : Nat)
  | lane (u v i : Nat)
  | greg (u c : Nat)
deriving DecidableEq, Repr

/-- An error that has arisen and has not been read yet, correctable or not. No command brings one: it is a physical event, and what
the machine does about it begins with the read that meets it (R412, R423). -/
structure SramError where
  place : ErrPlace
  ue : Bool
deriving DecidableEq, Repr

structure RasSt where
  /-- errors in SRAM words and registers, not yet detected -/
  errors : List SramError
  /-- by log position -/
  log : SMap (Option LogEntry)
  /-- entries written and not yet read -/
  unread : Nat
  keys : List KeyRec
  /-- spare rows used, by bank key (R418) -/
  rowsUsed : SMap Nat
  /-- rows whose copy into a spare row runs -/
  repairs : List Nat
  /-- the slot image command at work: 0 none, 1 save, 2 restore, and its address (R426) -/
  imgBusy : Nat
  imgAddr : Nat
  /-- what an image keeps from the advance: the slots (for a save after the rule, for a restore before it), RESBANK, and
  whether the step was skipped -/
  imgSlots : SMap Slot
  imgRes : Nat
  imgSkipped : Bool
deriving DecidableEq, Repr

def RasSt.reset : RasSt :=
  { errors := [], log := [], unread := 0, keys := [], rowsUsed := [], repairs := [], imgBusy := 0, imgAddr := 0,
    imgSlots := [], imgRes := 0, imgSkipped := false }

end Sys2Proof.Machine
end

