-- ==== Sys2Proof/State/Ring.lean ====
section
/-! DEFINITION. The hardware rings (R437 to R449). -/

namespace Sys2Proof.Machine

/-- RING.STATE, R437. -/
inductive RingState where
  | disabled | active | draining | error | orphaned
deriving DecidableEq, Repr

/-- A started entry: its index, its eight words, whether it has been placed with its target (R441), whether it has moved
poisoned data of the host (R443), and its outcome once the target has finished: code, result, and the instant of that. -/
structure RingEnt where
  index : Nat
  words : List Nat
  placed : Bool
  bad : Bool
  outcome : Option (Nat × Nat)
  time : Nat
deriving DecidableEq, Repr

/-- A completion that is held for an orphaned ring (R449): its four words without the phase. -/
abbrev Completion := List Nat

structure RingSt where
  sqBase : Word
  cqBase : Word
  /-- W2 of the window entry: depth, owner, target, vector and interrupt fields (R451) -/
  cfg : Word
  state : RingState
  err : Nat
  sqHead : Nat
  sqTail : Nat
  cqTail : Nat
  cqHead : Nat
  done : Nat
  started : List RingEnt
  held : List Completion
  /-- a discard waits for the started entries, with the port that asked for it -/
  discard : Option Nat
  /-- completions posted since the last interrupt, and the tick of the oldest of them (R442) -/
  unsignalled : Nat
  oldest : Nat
deriving DecidableEq, Repr

/-- A ring at reset: COAL_N is 1, the rest zero (R451). -/
def RingSt.reset : RingSt :=
  { sqBase := 0, cqBase := 0, cfg := BitVec.ofNat 64 (2 ^ 35), state := .disabled, err := 0, sqHead := 0, sqTail := 0,
    cqTail := 0, cqHead := 0, done := 0, started := [], held := [], discard := none, unsignalled := 0, oldest := 0 }

end Sys2Proof.Machine
end

