-- ==== Sys2Proof/State/Solver.lean ====
section
/-! DEFINITION. What a solver cell's sequencer holds (R148, R153 to R158, R189): problems with their entries widened to FP64
(as codes), iterates, factorisations, the queue, and the factor slots. -/

namespace Sys2Proof.Machine

/-- A row of coefficients: index and FP64 code, indices ascending. -/
abbrev Sparse := List (Nat × Nat)

/-- A matrix of FP64 codes, by rows. -/
abbrev Mat := List (List Nat)

/-- An inequality row or a box bound. -/
structure QRow where
  coef : Sparse
  lb : Nat
  ub : Nat
  box : Bool
deriving DecidableEq, Repr

/-- The blocks of a stage that its recursion uses (R145, R151). -/
structure QStage where
  q : Mat
  s : Mat
  r : Mat
  a : Mat
  b : Mat
  c : Mat
deriving DecidableEq, Repr

/-- A problem in dense terms (R145, R179): symmetric H by rows, equality rows with their right sides, and the inequality
rows and box bounds in the order of the record. The stage form keeps its blocks and Q_N as well, and the constant of its
objective. -/
structure Qp where
  n : Nat
  h : List Sparse
  f : List Nat
  a : List Sparse
  b : List Nat
  rows : List QRow
  const : Nat
  stages : List QStage
  qN : Mat
  x0 : List Nat
deriving DecidableEq, Repr

/-- The slacks and multipliers of a row. -/
structure RowVal where
  sl : Nat
  su : Nat
  zl : Nat
  zu : Nat
deriving DecidableEq, Repr

/-- An iterate (R153). A row solved as an equality holds its multiplier as z_u − z_l. -/
structure SvIter where
  x : List Nat
  y : List Nat
  rows : List RowVal
deriving DecidableEq, Repr

/-- The residuals of an iterate (R153). -/
structure SvRes where
  rp : Nat
  rd : Nat
  rc : Nat
  phi : Nat
  obj : Nat
deriving DecidableEq, Repr

/-- LDLᵀ: rows of L below the diagonal, and D. -/
structure Ldl where
  l : Mat
  d : List Nat
deriving DecidableEq, Repr

/-- A stage of the Riccati recursion: P of the next state, the rows that multiply the state, and the factors of its matrix of
order nu; for the rows solved as equalities, their coefficients of u, the solutions of the matrix for them, and the factors of
the matrix that their multipliers meet. -/
structure StageFact where
  p : Mat
  w : Mat
  g : Ldl
  eu : Mat
  ge : Mat
  e : Ldl
deriving DecidableEq, Repr

inductive Fact where
  | dense (f : Ldl)
  | stage (fs : List StageFact)
deriving DecidableEq, Repr

/-- A queued descriptor: what it keeps from its acceptance (R31, R397). -/
structure SvItem where
  /-- the issuing context, or the ring and entry index of a DESC (R440) -/
  ctx : Nat
  ring : Option (Nat × Nat)
  words : List Nat
  entered : Nat
  seed : Nat
  step : Nat
  pivtol : Nat
  regdelta : Nat
  epsexp : Nat
  infexp : Nat
  actexp : Nat
  /-- DENORM, for the output copy and the gradients (R51) -/
  denorm : Bool
deriving DecidableEq, Repr

/-- A problem of a running forward solve. -/
structure SvProb where
  qp : Qp
  cur : SvIter
  curRes : SvRes
  best : Option (SvIter × SvRes)
  /-- the output copy as the latest best put it at OUT (R172) -/
  copy : List SlotElem
  iters : Nat
  npiv : Nat
  nrefact : Nat
  status : Option Nat
  flags : Nat
  /-- the current iterate is what the record returns (a certificate, or the initial point under BOUNDS) -/
  retCur : Bool
  /-- what the result depends on: descriptor, settings, data and warm start, for the bits that the spec does not state (R173) -/
  key : List Nat
deriving DecidableEq, Repr

/-- A problem of a running backward: what was read when it reached the head of the queue (R184, R185). -/
structure BwProb where
  qp : Qp
  /-- blocks of the data in the order of R151 -/
  blocks : List Mat
  it : SvIter
  adj : List Nat
  bad : Bool
  /-- an entry of the adjoint that is not poisoned is a NaN or an infinity -/
  nonfin : Bool
  /-- what the result depends on, for the bits that the spec does not state (R194) -/
  key : List Nat
deriving DecidableEq, Repr

/-- The solve in progress: forward or backward. -/
structure SvRun where
  item : SvItem
  tStart : Nat
  /-- the initial residuals have been evaluated -/
  begun : Bool
  probs : List SvProb
  bwd : List BwProb
  /-- level of the solve-program patch with which it started (R144) -/
  patch : Nat
  /-- an injection of EVENT_INJECT bit 23 waited when it started (R176) -/
  inject : Bool
deriving DecidableEq, Repr

/-- A retained factorisation (R189). -/
structure SvSlot where
  tag : Nat
  status : Nat
  form : Nat
  w1 : Nat
  w2 : Nat
  pattern : Nat
  /-- formats of the forward's data -/
  mfmt : Nat
  vfmt : Nat
  reg : Bool
  facts : List Fact
deriving DecidableEq, Repr

structure SvSt where
  queue : List SvItem
  running : Option SvRun
  slots : SMap (Option SvSlot)
deriving DecidableEq, Repr

def SvSt.reset : SvSt := { queue := [], running := none, slots := [] }

end Sys2Proof.Machine
end

