-- ==== Sys2Proof/State/Time.lean ====
section
/-! DEFINITION. Hive time (R326 to R338) and the armed snapshot (R353). -/

namespace Sys2Proof.Machine

/-- A root as it has been advertised (R331, R332): its heartbeat count, the tick at which that last advanced, and whether the
root is taken as lost. -/
structure RootInfo where
  prio : Nat
  x : Nat
  y : Nat
  hb : Nat
  tick : Nat
  lost : Bool
deriving DecidableEq, Repr

/-- What a port knows of its neighbour's time (R330, R331, R337): the last advertisement and its tick, the filtered samples
newest first, discards in a row, when the port was excluded, and when it last sent. -/
structure TimePort where
  state : Nat
  depth : Nat
  prio : Nat
  x : Nat
  y : Nat
  heard : Option Nat
  offsets : List Int
  delays : List Int
  discards : Nat
  excluded : Option Nat
  sentAt : Option Nat
deriving DecidableEq, Repr

def TimePort.reset : TimePort :=
  { state := 0, depth := 0, prio := 0, x := 0, y := 0, heard := none, offsets := [], delays := [], discards := 0,
    excluded := none, sentAt := none }

structure TimeSt where
  /-- HT.NS, R326: it advances by 1 at each time tick -/
  ns : Word
  /-- the fraction, in units of 2^−16 ns -/
  frac : BitVec 16
  /-- correction that is still to be slewed into the fraction (R335), in the same units -/
  slew : Int
  /-- whole nanoseconds by which slewing has brought the time ticks forward against the module's own oscillator (R335, R458) -/
  lead : Int
  /-- CLK.FREQ_OFFSET_PPB: how the root clock is steered against its reference (R475) -/
  freqOffset : BitVec 32
  ports : SMap TimePort
  roots : List RootInfo
  /-- the current root: priority, X and Y (R332) -/
  root : Option (Nat × Nat × Nat)
  /-- the heartbeat count that this module advertises as root -/
  hb : Nat
  /-- tick at which HOLDOVER began, and of the last word of a better candidate -/
  holdSince : Nat
  betterAt : Nat
  /-- a time input is missing (R333) -/
  extLost : Bool
  /-- the armed snapshot: instant and ID (R353) -/
  armed : Option (Nat × Nat)
deriving DecidableEq, Repr

def TimeSt.reset : TimeSt :=
  { ns := 0, frac := 0, slew := 0, lead := 0, freqOffset := 0, ports := [], roots := [], root := none, hb := 0, holdSince := 0, betterAt := 0,
    extLost := false, armed := none }

end Sys2Proof.Machine
end

