-- ==== Sys2Proof/Machine/State.lean ====
section
/-! DEFINITION. The state of the module: everything the spec gives it, and beside it the queue of waiting commands. -/

namespace Sys2Proof.Machine

/-- Why a step stops with a fault. The module has no such stop: each of its errors is an event, a code or a poison mark
in its state. The constructor is raised by nothing; it keeps the type closed. Safe. -/
inductive Fault where
  | noFault
deriving DecidableEq, Repr

/-- Why a command has no meaning. -/
inductive Refusal where
  /-- an arm of exec that has no meaning yet. Safe: no claim about a next state follows. -/
  | notModelled (mnemonic : String)
  /-- raised by every meaning whose operand names a page, memory target or port that the module does not have (R12, R27,
  R30). Safe: such a command cannot be given. -/
  | illFormed
deriving DecidableEq, Repr

/-- Everything but the queue. -/
structure Mach where
  /-- time ticks since the model began: what durations are measured by -/
  ticks : Nat
  /-- index of the next free value -/
  fresh : Nat
  /-- what has left the module, newest last -/
  outbox : List Out
  /-- page headers, by page number (R27, R30) -/
  hdrs : SMap Header
  /-- registers beyond the header, by BAR0 byte offset -/
  regs : SMap Word
  /-- snapshot shadows (R353) -/
  shadow : Shadow
  /-- every memory of the module, by the byte keys of Ops.lean -/
  mem : SMap Byte
  /-- poison marks, by key of the aligned 8-byte word (R493) -/
  poison : SMap Bool
  core : CoreSt
  queue : QueueSt
  spare : SpareSt
  time : TimeSt
  host : HostSt
  power : PowerSt
  /-- the arrays, by tensor cell -/
  mx : SMap MxSt
  train : TrainSt
  ras : RasSt
  chan : MemSt
  dma : DmaSt
  /-- digest engines, by number -/
  dig : SMap DigSt
  /-- check units, by number -/
  chk : SMap ChkSt
  /-- solve sequencers, by solver cell -/
  sv : SMap SvSt
  /-- rings, by number -/
  rings : SMap RingSt
  fab : FabSt
  /-- collective engines, by field -/
  coll : SMap CollSt
deriving DecidableEq, Repr

/-- The module and the commands that wait. -/
structure State where
  pending : List Instr
  m : Mach
deriving DecidableEq, Repr

/-- The module right after reset: before its first start (R452). -/
def Mach.reset : Mach :=
  { ticks := 0, fresh := 0, outbox := [], hdrs := [], regs := [], shadow := Shadow.reset, mem := [], poison := [], core := CoreSt.reset,
    queue := QueueSt.reset, spare := SpareSt.reset, time := TimeSt.reset, host := HostSt.reset,
    power := PowerSt.reset, mx := [], train := TrainSt.reset, ras := RasSt.reset, chan := MemSt.reset, dma := DmaSt.reset,
    dig := [], chk := [], sv := [], rings := [],
    fab := FabSt.reset, coll := [] }

/-- The machine right after reset, with no command waiting. -/
def State.reset : State := { pending := [], m := Mach.reset }

end Sys2Proof.Machine
end

