-- ==== Sys2Proof/Machine/Ops.lean ====
section
/-! DEFINITION. The named operations over registers, events, memory and contexts that every meaning uses. -/

namespace Sys2Proof.Machine

/-- The outcome of a command: its effect on everything but the queue, or a refusal of an operand that names nothing. -/
def State.run (s : State) (ok : Bool) (f : Mach → Mach) : Host.Outcome State Fault Refusal :=
  if ok then .next { s with m := f s.m } else .refused .illFormed

end Sys2Proof.Machine

namespace Sys2Proof

/-! ## Pages (R27, R30) -/

/-- Base of a block in BAR0, in pages (R30). -/
def Block.base : Block → Nat
  | .cell => 0x000 | .solv => 0x100 | .comb => 0x140 | .pool => 0x160 | .upd => 0x180 | .field => 0x1A0 | .coll => 0x1A8
  | .lake => 0x1B0 | .basin => 0x1C0 | .chk => 0x1D0 | .dig => 0x250 | .port => 0x260 | .cal => 0x268 | .host => 0x270
  | .region => 0x280 | .router => 0x281 | .time => 0x282 | .barr => 0x283 | .scale => 0x284 | .ring => 0x285
  | .ras => 0x286 | .keep => 0x287 | .sec => 0x288 | .pwr => 0x289 | .clk => 0x28A

/-- Number of instances of a block (R30). -/
def Block.instances : Block → Nat
  | .cell => 180 | .solv => 24 | .comb => 20 | .pool => 20 | .upd => 20 | .field => 4 | .coll => 4
  | .lake => 8 | .basin => 6 | .chk => 96 | .dig => 8 | .port => 4 | .cal => 4 | .host => 2
  | .region => 1 | .router => 1 | .time => 1 | .barr => 1 | .scale => 1 | .ring => 1
  | .ras => 1 | .keep => 1 | .sec => 1 | .pwr => 1 | .clk => 1

/-- Type code of a block (R30). -/
def Block.type : Block → Nat
  | .cell => 1 | .solv => 2 | .comb => 3 | .pool => 4 | .upd => 5 | .field => 6 | .coll => 7 | .lake => 8 | .basin => 9
  | .chk => 10 | .dig => 11 | .port => 12 | .cal => 13 | .host => 14 | .region => 15 | .router => 16 | .time => 17
  | .barr => 18 | .scale => 19 | .ring => 20 | .ras => 21 | .keep => 22 | .sec => 23 | .pwr => 24 | .clk => 25

/-- Design level of a block (R11). -/
def Block.level : Block → Nat
  | .cell | .solv => 3
  | .comb | .pool | .upd => 4
  | .field | .coll => 5
  | .lake | .port => 7
  | _ => 6

/-- Every block, in the order of the page map. -/
def Block.all : List Block :=
  [.cell, .solv, .comb, .pool, .upd, .field, .coll, .lake, .basin, .chk, .dig, .port, .cal, .host,
   .region, .router, .time, .barr, .scale, .ring, .ras, .keep, .sec, .pwr, .clk]

/-- The page exists. -/
def Page.ok (p : Page) : Bool := decide (p.idx < p.blk.instances)

/-- The page's position in BAR0. -/
def Page.num (p : Page) : Nat := p.blk.base + p.idx

/-- The page at a position, if one is there (R30). -/
def pageAt (n : Nat) : Option Page :=
  match Block.all.find? (fun b => decide (b.base ≤ n ∧ n < b.base + b.instances)) with
  | some b => some ⟨b, n - b.base⟩
  | none => none

/-- CAPS of a block, R29. -/
def Block.caps : Block → Nat
  | .keep => 4 + 8 * 2 ^ 8 + 6 * 2 ^ 16 + 96 * 2 ^ 24 + 8 * 2 ^ 32
  | .field => 5 + 1 * 2 ^ 8
  | .comb => 9 + 8 * 2 ^ 8 + 1 * 2 ^ 16
  | .cell => 4 + 64 * 2 ^ 8 + 16 * 2 ^ 16 + 4 * 2 ^ 24 + 1024 * 2 ^ 32 + 4096 * 2 ^ 48
  | .solv => 16 + 32 * 2 ^ 8 + 2048 * 2 ^ 16 + 16384 * 2 ^ 32 + 4 * 2 ^ 48
  | .pool => 48
  | .lake => 32
  | .basin => 4
  | .router => 4
  | .port => 52 + 48 * 2 ^ 8
  | .scale => 65536
  | .barr => 4096
  | .ring => 8192
  | .host => 3
  | _ => 0

end Sys2Proof

namespace Sys2Proof.Machine

/-- The fields of the register at an offset of a block's pages, each with its number among like registers. -/
def fieldsAt (b : Block) (off : Nat) : List (Fld × Nat) :=
  (Reg.fields b).filterMap (fun f =>
    if f.count = 1 then (if f.off = off then some (f, 0) else none)
    else if f.off ≤ off ∧ (off - f.off) % f.stride = 0 ∧ (off - f.off) / f.stride < f.count
      then some (f, (off - f.off) / f.stride) else none)

/-- The reset value of the register at an offset, assembled from its fields (R7). -/
def resetAt (b : Block) (off : Nat) : Word :=
  (fieldsAt b off).foldl (fun w fi => setFld w fi.1.hi fi.1.lo fi.1.reset) 0

/-- What a register beyond the header reads as when nothing has written it: its reset value, or that of the staged field
it mirrors (R27). -/
def regDefault (k : Nat) : Word :=
  match pageAt (k / 0x1000) with
  | none => 0
  | some p =>
    let off := k % 0x1000
    if 0x500 ≤ off ∧ off < 0x900 then resetAt p.blk (off - 0x400) else resetAt p.blk off

/-- Read a register beyond the header. -/
def Mach.reg (m : Mach) (p : Page) (off : Nat) : Word := SMap.get m.regs regDefault (p.num * 0x1000 + off)

/-- Write a register beyond the header. -/
def Mach.setReg (m : Mach) (p : Page) (off : Nat) (v : Word) : Mach :=
  { m with regs := SMap.set m.regs regDefault (p.num * 0x1000 + off) v }

/-- Read field f, number i among its like registers, where it is written. -/
def Mach.live (m : Mach) (p : Page) (f : Fld) (i : Nat := 0) : Nat := fld (m.reg p (f.off + i * f.stride)) f.hi f.lo

/-- Write field f. -/
def Mach.setLive (m : Mach) (p : Page) (f : Fld) (v : Nat) (i : Nat := 0) : Mach :=
  m.setReg p (f.off + i * f.stride) (setFld (m.reg p (f.off + i * f.stride)) f.hi f.lo v)

/-- The value in force of a staged field: its mirror, at + 0x400 (R27). -/
def Mach.act (m : Mach) (p : Page) (f : Fld) (i : Nat := 0) : Nat :=
  fld (m.reg p (f.off + 0x400 + i * f.stride)) f.hi f.lo

/-- Add to a counter. -/
def Mach.bump (m : Mach) (p : Page) (f : Fld) (n : Nat := 1) : Mach := m.setLive p f (m.live p f + n)

/-- The job seed in force (R396, R397). -/
def Mach.seed (m : Mach) : Nat :=
  m.act ⟨.keep, 0⟩ Reg.KEEP.SEED_SEED_LO + 2 ^ 64 * m.act ⟨.keep, 0⟩ Reg.KEEP.SEED_SEED_HI

/-! ## Headers and events -/

/-- A page's header at reset: HOST[B] is owned by host B (R27). -/
def hdrDefault (n : Nat) : Header := Header.reset (decide (n = 0x271))

def Mach.hdr (m : Mach) (p : Page) : Header := SMap.get m.hdrs hdrDefault p.num

def Mach.setHdr (m : Mach) (p : Page) (h : Header) : Mach := { m with hdrs := SMap.set m.hdrs hdrDefault p.num h }

def hostPage (h : Nat) : Page := ⟨.host, h⟩

/-- The address and data of a vector's message (R434). Zero at reset. PRESUMED, log 5. -/
def Mach.msixEntry (m : Mach) (port : HostId) (vec : Nat) : Word × BitVec 32 :=
  SMap.get m.host.table (fun _ => (0, 0)) (port.val * 2048 + vec)

/-- The message of a vector. -/
def Mach.msixOut (m : Mach) (port : HostId) (vec : Nat) : Out :=
  .msix port vec (m.msixEntry port vec).1 (m.msixEntry port vec).2

/-- An MSI-X message of a port: sent, or kept pending while the vector is masked; never to a FAILED port (R435). -/
def Mach.msix (m : Mach) (port : HostId) (vec : Nat) : Mach :=
  if m.live (hostPage port) Reg.HOST.PORT_STATE_FAILED = 1 then m
  else if SMap.get m.host.unmasked (fun _ => false) (port.val * 2048 + vec) then
    { m with outbox := m.outbox ++ [m.msixOut port vec] }
  else { m with host := { m.host with pend := SMap.set m.host.pend (fun _ => false) (port.val * 2048 + vec) true } }

/-- Set an EVENT bit. An enabled bit that rises is signalled on the owner's event vector (R27, R435). -/
def Mach.raise (m : Mach) (p : Page) (b : Nat) : Mach :=
  let h := m.hdr p
  let m1 := m.setHdr p { h with event := h.event ||| w64 (2 ^ b) }
  let port : HostId := if h.owner then 1 else 0
  if bit h.eventEn b && !bit h.event b && decide (m.live (hostPage port) Reg.HOST.EVCTL_EN = 1) then
    m1.msix port (m.live (hostPage port) Reg.HOST.EVCTL_EVVEC)
  else m1

/-- Set an EVENT bit when a condition holds. -/
def Mach.raiseIf (m : Mach) (c : Bool) (p : Page) (b : Nat) : Mach := if c then m.raise p b else m

/-- A refused write: CFG_REJECT, with the code in REASON (R28, R40). -/
def Mach.cfgReject (m : Mach) (p : Page) (code : Nat) : Mach :=
  let m1 := m.raise p 0
  m1.setHdr p { m1.hdr p with reason := BitVec.ofNat 8 code }

/-- Take an injection that is armed behind an EVENT bit: whether one was, and the state with it used up (R27, R414). -/
def Mach.takeInject (m : Mach) (p : Page) (b : Nat) : Bool × Mach :=
  let h := m.hdr p
  if bit h.inject b then (true, m.setHdr p { h with inject := h.inject &&& ~~~(w64 (2 ^ b)) }) else (false, m)

/-! ## Units (R12 to R16) -/

/-- The page of a physical unit. -/
def unitPage (u : Nat) : Page := if u < 180 then ⟨.cell, u⟩ else ⟨.solv, u - 180⟩

/-- The unit is a solver cell. -/
def isSolver (u : Nat) : Bool := decide (180 ≤ u)

/-- Bytes of a unit's pond (R115, R143). -/
def pondSize (u : Nat) : Nat := if u < 180 then 0x400000 else 0x1000000

/-- Bits of a unit's vector registers (R126, R139). -/
def vlen (u : Nat) : Nat := if u < 180 then 1024 else 2048

/-- The physical unit that serves a logical tensor cell (R16). -/
def Mach.tcell (m : Mach) (l : Nat) : Option Nat :=
  SMap.get m.spare.tcells (fun k => some (9 * (k / 8) + k % 8)) l

/-- The physical unit number (180 up) that serves a logical solver cell (R16). -/
def Mach.scell (m : Mach) (l : Nat) : Option Nat := SMap.get m.spare.solvs (fun k => some (180 + k)) l

/-- KEEP.MODE.TEST in force: units are named by their physical numbers (R457). -/
def Mach.testMode (m : Mach) : Bool := decide (m.act ⟨.keep, 0⟩ Reg.KEEP.MODE_TEST = 1)

/-- The unit that serves a logical number, or that a physical number names in test mode. -/
def Mach.logical (m : Mach) (solver : Bool) (l : Nat) : Option Nat :=
  if m.testMode then (if solver then (if l < 24 then some (180 + l) else none) else if l < 180 then some l else none)
  else if solver then (if l < 20 then m.scell l else none) else (if l < 160 then m.tcell l else none)

/-- The logical number that a physical unit serves, if any. -/
def Mach.logicalOf (m : Mach) (u : Nat) : Option Nat :=
  if u < 180 then ((upTo 8).map (fun s => 8 * (u / 9) + s)).find? (fun l => m.tcell l = some u)
  else (upTo 20).find? (fun l => m.scell l = some u)

/-- The comb of a unit: its own, or for a reserve solver cell that of the logical cell it serves (R13, R15), and in test mode the
first of its field, as for a part of a map there. DESIGN CHOICE, log 96. -/
def Mach.combOf (m : Mach) (u : Nat) : Option Nat :=
  if u < 180 then some (u / 9)
  else if u < 200 then some (u - 180)
  else if m.testMode then some (5 * (u - 200))
  else m.logicalOf u

/-- The field of a unit (R13, R15). -/
def fieldOf (u : Nat) : Nat := if u < 180 then u / 45 else if u < 200 then (u - 180) / 5 else u - 200

/-! ## Memory (R20, R247, R493) -/

/-- Byte keys: pond of unit u, pool scratch and cache of slice s, lake channel k, basin device d. -/
def pondKey (u off : Nat) : Nat := u * 2 ^ 24 + off
def scratchKey (s off : Nat) : Nat := 2 ^ 40 + s * 2 ^ 25 + off
def lakeKey (k off : Nat) : Nat := 2 ^ 48 + k * 2 ^ 32 + off
def basinKey (d off : Nat) : Nat := 2 ^ 52 + d * 2 ^ 40 + off

/-- What a byte that nothing has written reads as. -/
def memDefault (_ : Nat) : Byte := 0

/-- Read one byte. -/
def Mach.rdByte (m : Mach) (k : Nat) : Byte := SMap.get m.mem memDefault k

/-- The mark of the aligned 8-byte word that holds a byte. -/
def Mach.marked (m : Mach) (k : Nat) : Bool := SMap.get m.poison (fun _ => false) (k / 8)

/-- Read n bytes. -/
def Mach.rdBytes (m : Mach) : Nat → Nat → Bytes
  | 0, _ => []
  | n + 1, k => m.rdByte k :: m.rdBytes n (k + 1)

/-- The word numbers that n bytes from k touch. -/
def touched (k n : Nat) : List Nat :=
  if n = 0 then [] else (upTo ((k + n - 1) / 8 + 1 - k / 8)).map (fun i => k / 8 + i)

/-- Some word among n bytes from k is poisoned. -/
def Mach.anyMarked (m : Mach) (k n : Nat) : Bool :=
  (touched k n).any (fun w => SMap.get m.poison (fun _ => false) w)

/-- Write bytes, leaving marks alone. -/
def memPut (mem : SMap Byte) : Nat → Bytes → SMap Byte
  | _, [] => mem
  | k, b :: bs => memPut (SMap.set mem memDefault k b) (k + 1) bs

/-- The marks after a write of n bytes from k (R493): poison marks every touched word; a clean write clears the words
that it covers whole. -/
def marksAfter (po : SMap Bool) (k n : Nat) (bad : Bool) : SMap Bool :=
  (touched k n).foldl (fun po w =>
    if bad then SMap.set po (fun _ => false) w true
    else if k ≤ 8 * w ∧ 8 * w + 8 ≤ k + n then SMap.set po (fun _ => false) w false else po) po

/-- A write of bytes, all poisoned or all clean (R493). -/
def Mach.wrBytes (m : Mach) (k : Nat) (d : Bytes) (bad : Bool) : Mach :=
  { m with mem := memPut m.mem k d, poison := marksAfter m.poison k d.length bad }

/-- Read n bytes as a number. -/
def Mach.rdNum (m : Mach) (k n : Nat) : Nat := ofBytes (m.rdBytes n k)

/-- Write a number as n bytes. -/
def Mach.wrNum (m : Mach) (k n v : Nat) (bad : Bool := false) : Mach := m.wrBytes k (toBytes n v) bad

/-! ## Ring slots (R204, R209) -/

def combsDefault (_ : Nat) : CombMaps := CombMaps.empty

/-- The maps of a comb. -/
def Mach.combMaps (m : Mach) (c : Nat) : CombMaps := SMap.get m.queue.combs combsDefault c

def Mach.setCombMaps (m : Mach) (c : Nat) (x : CombMaps) : Mach :=
  { m with queue := { m.queue with combs := SMap.set m.queue.combs combsDefault c x } }

/-- The map in force on a comb. -/
def Mach.mapOf (m : Mach) (comb : Nat) : Option StageMap := (m.combMaps comb).inForce

def qstDefault (_ : Nat) : QState := QState.fresh 0 0

def Mach.qst (m : Mach) (k : Nat) : QState := SMap.get m.queue.qs qstDefault k

def Mach.setQst (m : Mach) (k : Nat) (s : QState) : Mach :=
  { m with queue := { m.queue with qs := SMap.set m.queue.qs qstDefault k s } }

/-- Part p of a map. -/
def StageMap.part (sm : StageMap) (p : Nat) : Part :=
  sm.parts.getD p { stage := 0, solver := false, unit := 0, ctx := 0, hold := 0, fbase := 0 }

/-- The comb of a part's logical unit, or in test mode of the physical unit that it names (R13 to R15, R457). A reserve solver
cell named in test mode takes part in the map of its field's first comb. DESIGN CHOICE, log 96. -/
def Mach.partComb (m : Mach) (p : Part) : Nat :=
  if m.testMode then (if !p.solver then p.unit / 9 else if p.unit < 20 then p.unit else 5 * (p.unit - 20))
  else if p.solver then p.unit
  else p.unit / 8

/-- The physical unit that serves a part. -/
def Mach.partUnit (m : Mach) (p : Part) : Option Nat := m.logical p.solver p.unit

/-- A queue of the maps in force, with its consumer on the comb whose map it stands in. -/
structure LiveQueue where
  key : Nat
  qr : QRec
  prod : Part
  cons : Part
deriving DecidableEq, Repr

/-- The queues of a map whose consumer is on comb c. -/
def Mach.queuesOn (m : Mach) (sm : StageMap) (c : Nat) : List LiveQueue :=
  (upTo sm.queues.length).filterMap (fun q =>
    match sm.queues[q]? with
    | none => none
    | some r => if m.partComb (sm.part r.cons) = c then some ⟨c * 1024 + q, r, sm.part r.prod, sm.part r.cons⟩ else none)

/-- Every queue in force. -/
def Mach.liveQueues (m : Mach) : List LiveQueue :=
  if m.queue.combs.isEmpty then []
  else (upTo 20).flatMap (fun c => match m.mapOf c with
    | none => []
    | some sm => m.queuesOn sm c)

/-- Records that the mover has read out of the producer ring. -/
def QState.taken (q : QState) : Nat := q.delivered - q.init

/-- Producer slot i of a queue is free (R208): no pushed record still stands in it. -/
def QState.prodFree (q : QState) (pdepth i : Nat) : Bool :=
  !((upTo (q.pushed - q.taken)).any (fun j => decide ((q.taken + j) % pdepth = i)))

/-- Consumer slot i holds a delivered record that is not yet popped. -/
def QState.consHeld (q : QState) (depth i : Nat) : Bool :=
  (upTo (q.delivered - q.popped)).any (fun j => decide ((q.popped + j) % depth = i))

/-- A write of byte `off` of unit u falls into a slot of a queue's rings that only the mover may write (R209). -/
def Mach.slotGuard (m : Mach) (lq : LiveQueue) (u off : Nat) : Bool :=
  let r := lq.qr
  let q := m.qst lq.key
  let sz := r.rsize * 64
  let inP := decide (r.pdepth ≠ 0 ∧ r.pbase ≤ off ∧ off < r.pbase + r.pdepth * sz) && decide (m.partUnit lq.prod = some u)
  let inC := decide (r.cbase ≤ off ∧ off < r.cbase + r.depth * sz) && decide (m.partUnit lq.cons = some u)
  (inP && !q.prodFree r.pdepth ((off - r.pbase) / sz)) ||
    (inC && !(q.consHeld r.depth ((off - r.cbase) / sz) || decide (r.pdepth = 0)))

def Mach.slotBlocked (m : Mach) (u off : Nat) : Bool := m.liveQueues.any (fun lq => m.slotGuard lq u off)

/-- The bytes of a write that are not in a blocked slot, as runs of (offset, bytes). -/
def Mach.pondRuns (m : Mach) (u : Nat) : Nat → Bytes → List (Nat × Bytes)
  | _, [] => []
  | off, b :: bs =>
    match m.pondRuns u (off + 1) bs with
    | (o, d) :: rs =>
      if m.slotBlocked u off then (o, d) :: rs
      else if o = off + 1 then (off, b :: d) :: rs else (off, [b]) :: (o, d) :: rs
    | [] => if m.slotBlocked u off then [] else [(off, [b])]

/-- A write into a pond by a store, the vector unit, an array drain, the solve sequencer or DMA: bytes in guarded ring
slots are ignored, with Q_SLOT_WRITE (R209). Without a map in force nothing is guarded. -/
def Mach.pondWrite (m : Mach) (u off : Nat) (d : Bytes) (bad : Bool) : Mach :=
  if m.liveQueues.isEmpty then m.wrBytes (pondKey u off) d bad
  else
    let runs := m.pondRuns u off d
    let m1 := runs.foldl (fun m r => m.wrBytes (pondKey u r.1) r.2 bad) m
    if (runs.map (fun r => r.2.length)).sum < d.length then
      (m1.bump (unitPage u) Reg.CELL.Q_SLOT_WR).raise (unitPage u) 24
    else m1

/-! ## Contexts (R114, R116, R121) -/

def ctxDefault (_ : Nat) : Ctx := Ctx.reset

def unitDefault (_ : Nat) : UnitSt := UnitSt.reset

def Mach.ctx (m : Mach) (u c : Nat) : Ctx := SMap.get m.core.ctxs ctxDefault (u * 16 + c)

def Mach.setCtx (m : Mach) (u c : Nat) (x : Ctx) : Mach :=
  { m with core := { m.core with ctxs := SMap.set m.core.ctxs ctxDefault (u * 16 + c) x } }

def Mach.unit (m : Mach) (u : Nat) : UnitSt := SMap.get m.core.units unitDefault u

def Mach.setUnit (m : Mach) (u : Nat) (x : UnitSt) : Mach :=
  { m with core := { m.core with units := SMap.set m.core.units unitDefault u x } }

/-- Read a general register; g0 reads as zero (R114). -/
def Ctx.getG (x : Ctx) (r : RegNo) : Word := if r = 0 then 0 else SMap.get x.g (fun _ => 0) r.toNat

/-- Write a general register; writes of g0 are ignored (R114). -/
def Ctx.setG (x : Ctx) (r : RegNo) (v : Word) : Ctx :=
  if r = 0 then x else { x with g := SMap.set x.g (fun _ => 0) r.toNat v }

def Mach.g (m : Mach) (u c : Nat) (r : RegNo) : Word := (m.ctx u c).getG r

def Mach.setG (m : Mach) (u c : Nat) (r : RegNo) (v : Word) : Mach := m.setCtx u c ((m.ctx u c).setG r v)

/-- A program counter value of a unit: 22 bits in a tensor cell, 24 in a solver cell (R114, R139). -/
def pcOf (u n : Nat) : BitVec 24 := BitVec.ofNat 24 (n % pondSize u)

def Mach.setPc (m : Mach) (u c : Nat) (n : Nat) : Mach := m.setCtx u c { m.ctx u c with pc := pcOf u n }

/-- Go on to the next instruction. -/
def Mach.advance (m : Mach) (u c : Nat) : Mach := m.setPc u c ((m.ctx u c).pc.toNat + 4)

/-- Write a register and go on. -/
def Mach.writeBack (m : Mach) (u c : Nat) (r : RegNo) (v : Word) : Mach := (m.setG u c r v).advance u c

/-- A fault stops only its context: code and address are recorded, CTX_FAULT is raised (R121). -/
def Mach.fault (m : Mach) (u c code : Nat) : Mach :=
  let x := m.ctx u c
  (m.setCtx u c { x with state := .faulted, fault := BitVec.ofNat 8 code, faultPc := x.pc, wait := .none }).raise
    (unitPage u) 18

/-- Set numeric flags of a context (R66). -/
def Mach.addFlags (m : Mach) (u c : Nat) (f : BitVec 8) : Mach :=
  m.setCtx u c { m.ctx u c with flags := (m.ctx u c).flags ||| f }

/-- The context that the core of a unit runs. -/
def Mach.running (m : Mach) (u : Nat) : Option Nat := (upTo 16).find? (fun c => (m.ctx u c).state = .running)

/-- Put a context into a wait: it is descheduled at its instruction (R117). -/
def Mach.sleep (m : Mach) (u c : Nat) (w : Wait) : Mach :=
  m.setCtx u c { m.ctx u c with state := .waiting, wait := w }

/-- End a wait: the context becomes ready, at the waiting instruction or beyond it. -/
def Mach.wake (m : Mach) (u c : Nat) : Mach :=
  m.setCtx u c { m.ctx u c with state := .ready, wait := .none }

/-- Wake every waiting context of a unit whose wait a test accepts. -/
def Mach.wakeIf (m : Mach) (u : Nat) (p : Wait → Bool) : Mach :=
  (upTo 16).foldl (fun m c => if (m.ctx u c).state = .waiting ∧ p (m.ctx u c).wait then m.wake u c else m) m

/-! ## Hive time and free values -/

/-- Hive time in whole ns (R326). -/
def Mach.now (m : Mach) : Nat := m.time.ns.toNat

/-- Hive time is valid: LOCKED, HOLDOVER or ROOT (R327). -/
def Mach.timeValid (m : Mach) : Bool :=
  let s := m.live ⟨.time, 0⟩ Reg.TIME.STATUS_STATE
  decide (s = 2 ∨ s = 3 ∨ s = 4)

/-- Bits under a poison mark that the spec leaves open: part i of the present operation, w bits. -/
def Mach.junk (m : Mach) (i w : Nat) : Nat := Config.junk m.fresh i % 2 ^ w

/-- A fresh open value. -/
def Mach.freeWord (m : Mach) : Word := Config.freeWord m.fresh

/-- Count a use of open values. -/
def Mach.stir (m : Mach) : Mach := { m with fresh := m.fresh + 1 }

/-- Cycles that pass inside one command and that the spec only bounds: an open amount of at most n is counted. Log 11. -/
def Mach.spend (m : Mach) (p : Page) (f : Fld) (n : Nat) : Mach := (m.bump p f (m.freeWord.toNat % (n + 1))).stir

/-- The cycles that a context waited at an end of a queue are counted when its wait ends (R211): how many is open, log 11. -/
def Mach.waitCounted (m : Mach) (u key : Nat) (prod : Bool) : Mach :=
  let s := m.qst key
  let n := m.freeWord.toNat
  let m1 := m.setQst key (if prod then { s with stallCyc := (s.stallCyc + n) % 2 ^ 64 }
    else { s with starveCyc := (s.starveCyc + n) % 2 ^ 64 })
  m1.stir.spend (unitPage u) Reg.CELL.BUBBLE_CYC (2 ^ 64 - 1)

/-- The wait of a context ends, for whatever reason: a wait at a queue is counted (R211). -/
def Mach.waited (m : Mach) (u c : Nat) : Mach :=
  match (m.ctx u c).wait with
  | .qin k _ => m.waitCounted u k false
  | .qout k _ => m.waitCounted u k true
  | _ => m

/-- Something sent to an outside party. -/
def Mach.send (m : Mach) (o : Out) : Mach := { m with outbox := m.outbox ++ [o] }

end Sys2Proof.Machine
end

