-- ==== Sys2Proof/Machine/Pages.lean ====
section
/-! DEFINITION. Writes of pages: ownership (R38), reserved bits (R40), the staged area and its commit (R32 to R35), OWNER and
EVENT. What a commit checks and what it puts in force beyond the copy is in Machine/Consist.lean and
Machine/Commit.lean. -/

namespace Sys2Proof.Machine

end Sys2Proof.Machine

namespace Sys2Proof

open Machine

/-- Merge a write into the register's old value (R39). -/
def RegWrite.merge (w : RegWrite) (old : Word) : Word :=
  match w.lanes with
  | .full => w.val
  | .low => setFld old 31 0 (fld w.val 31 0)
  | .high => setFld old 63 32 (fld w.val 31 0)

/-- The bits that a write carries, at their places, the others 0. -/
def RegWrite.bits (w : RegWrite) : Word := RegWrite.merge w 0

/-- The bits that a write covers. -/
def RegWrite.cover (w : RegWrite) : Word :=
  match w.lanes with
  | .full => mask 63 0
  | .low => mask 31 0
  | .high => mask 63 32

end Sys2Proof

namespace Sys2Proof.Machine

/-- A write from the host that does not own the page: ignored, WRITE_NOT_OWNER on the writing port's HOST page (R38). -/
def Mach.notOwner (m : Mach) (h : HostId) : Mach :=
  (m.bump (hostPage h) Reg.HOST.NOT_OWNER_CNT).raise (hostPage h) 16

/-- An access that BAR0 does not accept (R39). -/
def Mach.badAccess (m : Mach) (h : HostId) : Mach :=
  (m.bump (hostPage h) Reg.HOST.BAD_ACCESS_CNT).raise (hostPage h) 17

def pwrPage : Page := ⟨.pwr, 0⟩
def secPage : Page := ⟨.sec, 0⟩
def keepPage : Page := ⟨.keep, 0⟩
def clkPage : Page := ⟨.clk, 0⟩

/-- The module has reported ready (R456). -/
def Mach.ready (m : Mach) : Bool := m.power.on && m.power.ready

/-- The module has power, and its ROM has passed the self-test, without which nothing further runs (R452). -/
def Mach.runs (m : Mach) : Bool := m.power.on && !m.power.dead

/-- The keeper runs: it does not restart (R430). -/
def Mach.keeperRuns (m : Mach) : Bool := m.runs && !m.power.restarting

/-- Pages that take writes before the module is ready (R453). -/
def writtenEarly (b : Block) : Bool :=
  match b with
  | .keep | .sec | .pwr | .clk | .host => true
  | _ => false

/-- The host port that a writer is, if it is one. -/
def writerPort : Writer → Option HostId
  | .hostA => some 0
  | .hostB => some 1
  | .keeper => none

/-- The page's owner as a port. -/
def Header.port (h : Header) : HostId := if h.owner then 1 else 0

/-- A write reaches the page: the module has power, and before ready only some pages take writes of a host, the others
raising NOT_READY (R453, R486). -/
def Mach.reaches (m : Mach) (src : Writer) (p : Page) (f : Mach → Mach) : Mach :=
  if !m.runs then m
  else match writerPort src with
    | none => f m
    | some h => if m.ready || writtenEarly p.blk then f m else m.raise (hostPage h) 21

/-- Perform a write when the writer may write the page: its owner, or the keeper (R38). -/
def Mach.owned (m : Mach) (src : Writer) (p : Page) (f : Mach → Mach) : Mach :=
  m.reaches src p (fun m => match writerPort src with
    | none => f m
    | some h => if h = (m.hdr p).port then f m else m.notOwner h)

/-- The union of the bits that fields of a register occupy. -/
def definedBits (b : Block) (off : Nat) : Word :=
  (fieldsAt b off).foldl (fun w fi => w ||| mask fi.1.hi fi.1.lo) 0

/-- Some bit outside the register's fields is set. -/
def setsReserved (b : Block) (off : Nat) (v : Word) : Bool := decide (v &&& ~~~(definedBits b off) ≠ 0)

/-- Offsets of the staged registers of a block. -/
def stagedOffs (b : Block) : List Nat :=
  ((Reg.fields b).filter (fun f => decide (f.acc = .st))).foldl
    (fun l f => (upTo f.count).foldl (fun l i =>
      if (f.off + i * f.stride) ∈ l then l else l ++ [f.off + i * f.stride]) l) []

/-- A write to the staged area (R32, R35, R40). -/
def Mach.stage (m : Mach) (p : Page) (off : Nat) (w : RegWrite) : Mach :=
  if (fieldsAt p.blk off).isEmpty then m.cfgReject p 2
  else if (m.hdr p).pending || (m.hdr p).checking then m.raise p 3
  else m.setReg p off (w.merge (m.reg p off))

/-- A write to COMMIT (R33, R35): ABORT before GO. -/
def Mach.commitWrite (m : Mach) (p : Page) (w : RegWrite) : Mach :=
  let v := w.bits
  let h := m.hdr p
  if fld v 7 6 ≠ 0 ∨ fld v 63 16 ≠ 0 then m.cfgReject p 2
  else if bit v 4 then
    if h.pending || h.checking then
      m.setHdr p { h with pending := false, checking := false, rejected := true, reason := 0x06 }
    else m
  else if bit v 0 then
    if h.pending || h.checking then m.raise p 2
    else m.setHdr p { h with checking := true, scheduled := bit v 1, goTarget := h.commitTime, goAt := m.time.ns,
                             goValid := m.timeValid }
  else m

/-- The first rule that a checked set breaks, in the order of R33; 0 when none. -/
def goCode (h : Header) (reserved consistent : Bool) : Nat :=
  if reserved then 2
  else if !consistent then 1
  else if h.scheduled && !h.goValid then 4
  else if h.scheduled && decide (h.goTarget.toNat < h.goAt.toNat + 1000) then 3
  else 0

/-- The check of a GO ends (R33). -/
def Mach.endCheck (m : Mach) (p : Page) (code : Nat) : Mach :=
  let h := m.hdr p
  if code = 0 then m.setHdr p { h with checking := false, pending := true, rejected := false, reason := 0 }
  else (m.setHdr p { h with checking := false, rejected := true }).cfgReject p code

/-- The staged set becomes the active configuration at one instant (R34). -/
def Mach.copyStaged (m : Mach) (p : Page) : Mach :=
  (stagedOffs p.blk).foldl (fun m off => m.setReg p (off + 0x400) (m.reg p off)) m

/-- The header's part of a commit that takes effect (R34). -/
def Mach.commitTaken (m : Mach) (p : Page) : Mach :=
  let h := m.hdr p
  (m.setHdr p { h with pending := false, configEpoch := h.configEpoch + 1 }).raise p 1

/-- The drop of a pending commit when its unit is retired (R35). -/
def Mach.dropCommit (m : Mach) (p : Page) : Mach :=
  let h := m.hdr p
  if h.pending || h.checking then
    m.setHdr p { h with pending := false, checking := false, rejected := true, reason := 0x05 }
  else m

/-- A write to OWNER (R38): from the owner, from the keeper, or from anyone when the owning port has FAILED. -/
def Mach.ownerWrite (m : Mach) (p : Page) (w : RegWrite) : Mach :=
  let h := m.hdr p
  let v := w.bits
  let put := fun (m : Mach) =>
    if fld v 63 1 ≠ 0 then m.cfgReject p 2
    else if bit w.cover 0 then m.setHdr p { m.hdr p with owner := bit v 0 } else m
  if m.live (hostPage h.port) Reg.HOST.PORT_STATE_FAILED = 1 then m.reaches w.src p put else m.owned w.src p put

/-- A write to EVENT clears the bits written as 1 (R40). -/
def Mach.eventClear (m : Mach) (p : Page) (w : RegWrite) : Mach :=
  let h := m.hdr p
  m.setHdr p { h with event := h.event &&& ~~~w.bits }

end Sys2Proof.Machine
end

