-- ==== Sys2Proof/Machine/Flash.lean ====
section
/-! DEFINITION. The records of the module flash (R470, R472): which are valid, which one of a type is in force, and the writing of a
new one. -/

namespace Sys2Proof.Machine

/-- TYPE of a record's payload, and the signer that its type requires: 0 the vendor, 1 the module identity key (R472). -/
def RecordBody.code : RecordBody → Nat
  | .sparing _ => 1 | .minVersion _ => 2 | .calibration _ => 3 | .pufHelper _ => 4 | .idCert _ => 5 | .bootSelect _ => 6
  | .placement _ => 7

def RecordBody.signer (b : RecordBody) : Nat := if b.code = 1 ∨ 6 ≤ b.code then 1 else 0

/-- A record is valid: its header is right, its type is one of the table, its signer is the one that the table requires and its signature
verifies. -/
def FlashRecord.valid (r : FlashRecord) : Bool :=
  r.headOk && r.sigOk && decide (r.type = r.body.code ∧ r.signer = r.body.signer)

/-- A record of a type of the table that is not valid; one of a reserved type is ignored. -/
def FlashRecord.bad (r : FlashRecord) : Bool := decide (1 ≤ r.type ∧ r.type ≤ 7) && !r.valid

/-- The valid record of a type with the highest SEQ. -/
def Flash.latest (f : Flash) (code : Nat) : Option FlashRecord :=
  (f.records.filter (fun r => r.valid && decide (r.type = code))).foldl (fun best r =>
    match best with
    | some b => if b.seq < r.seq then some r else best
    | none => some r) none

/-- The image that the BOOT_SELECT record names: true for B. -/
def Flash.bootSel (f : Flash) : Option Bool :=
  match (f.latest 6).map FlashRecord.body with
  | some (.bootSelect b) => some b
  | _ => none

def Flash.placement (f : Flash) : Option Placement :=
  match (f.latest 7).map FlashRecord.body with
  | some (.placement p) => some p
  | _ => none

/-- The units that the SPARING_MAP record holds as retired, and its SEQ, 0 without a record. -/
def Flash.retired (f : Flash) : List Nat :=
  match (f.latest 1).map FlashRecord.body with
  | some (.sparing l) => l
  | _ => []

def Flash.sparingSeq (f : Flash) : Nat := ((f.latest 1).map (·.seq)).getD 0

def Flash.pufHelper (f : Flash) : Option Bytes :=
  match (f.latest 4).map FlashRecord.body with
  | some (.pufHelper d) => some d
  | _ => none

def Flash.idCert (f : Flash) : Option Bytes :=
  match (f.latest 5).map FlashRecord.body with
  | some (.idCert d) => some d
  | _ => none

/-- MIN_VERSION in force (R470): a record below an earlier valid one is ignored, so it is the greatest of the valid records, and 0 without
one. -/
def Flash.minVersion (f : Flash) : Nat :=
  f.records.foldl (fun v r => match r.body with
    | .minVersion n => if r.valid then max v n else v
    | _ => v) 0

/-- The keeper writes a new record under the identity key and then erases the one that it replaces. -/
def Flash.write (f : Flash) (b : RecordBody) : Flash :=
  let old := f.latest b.code
  { f with records := f.records.filter (fun r => decide (some r ≠ old)) ++
      [{ type := b.code, signer := b.signer, seq := (old.map (·.seq)).getD 0 + 1, headOk := true, sigOk := true, body := b }] }

def Mach.flashWrite (m : Mach) (b : RecordBody) : Mach :=
  { m with power := { m.power with flash := m.power.flash.write b } }

end Sys2Proof.Machine
end

