-- ==== Sys2Proof/Machine/Ras.lean ====
section
/-! DEFINITION. Fault reports (R412 to R420): the fault log, classification into transient and permanent, and the actions on
a permanent fault. -/

namespace Sys2Proof.Machine

def rasPage : Page := ⟨.ras, 0⟩

/-! ## The fault log (R431) -/

/-- Append an entry; one overwritten unread is lost (R431). -/
def Mach.logFault (m : Mach) (e : LogEntry) : Mach :=
  let n := m.live rasPage Reg.RAS.LOG_NEXT
  let m1 := if m.ras.unread = 256 then (m.bump rasPage Reg.RAS.LOG_LOST).raise rasPage 25 else m
  let r := m1.ras
  ({ m1 with ras := { r with log := SMap.set r.log (fun _ => none) n (some e), unread := min 256 (r.unread + 1) } }).setLive
    rasPage Reg.RAS.LOG_NEXT ((n + 1) % 256)

/-- A write of LOG.READ: entries from there to LOG.NEXT are unread. -/
def Mach.logRead (m : Mach) (p : Nat) : Mach :=
  let n := m.live rasPage Reg.RAS.LOG_NEXT
  ({ m with ras := { m.ras with unread := (n + 256 - p % 256) % 256 } }).setLive rasPage Reg.RAS.LOG_READ p

/-- TRAY_DUE with its cause record (R419). -/
def Mach.trayDue (m : Mach) (pg : Page) (key : Nat) : Mach :=
  (m.raise rasPage 21).logFault
    { time := m.time.ns, key := ⟨pg.blk.type, pg.idx, 0, key⟩, permanent := true, injected := false, reports := 0,
      fails := 0 }

/-! ## Actions on a permanent fault (R417 to R420, R281 to R284) -/

/-- The unit serves a logical number. -/
def Mach.inService (m : Mach) (u : Nat) : Bool := (m.logicalOf u).isSome

/-- The keeper writes a SPARING_MAP record when the retired units differ from those of the latest, unless it restarts
(R417, R455). -/
def Mach.writeSparing (m : Mach) : Mach :=
  let f := m.power.flash
  if m.power.restarting ∨ (f.retired = m.spare.retired ∧ f.sparingSeq ≠ 0) then m
  else m.flashWrite (.sparing m.spare.retired)

/-- Take a unit out without effect on the shape: its page reads retired and its pending commit is dropped (R19, R35). -/
def Mach.retire (m : Mach) (u : Nat) : Mach :=
  let m1 := m.dropCommit (unitPage u)
  let m2 : Mach := { m1 with spare := { m1.spare with
    retired := if u ∈ m1.spare.retired then m1.spare.retired else m1.spare.retired ++ [u]
    marked := m1.spare.marked.filter (fun v => v ≠ u) } }
  m2.writeSparing

/-- PENDING of the RAS page as the marked units make it (R420). -/
def Mach.showPending (m : Mach) : Mach :=
  let combs := (upTo 20).foldl (fun v c => if m.spare.marked.any (fun u => decide (u < 180 ∧ u / 9 = c)) then v + 2 ^ c else v) 0
  let fields := (upTo 4).foldl (fun v f =>
    if m.spare.marked.any (fun u => decide (180 ≤ u ∧ fieldOf u = f)) then v + 2 ^ f else v) 0
  (m.setLive rasPage Reg.RAS.PENDING_COMB combs).setLive rasPage Reg.RAS.PENDING_FIELD fields

/-- A unit is to be retired at the next spare switch point; one that serves nothing, and that no switch in progress is about to
place in service, is retired at once; one whose switch is in progress is on its way out (R420 to R422). -/
def Mach.markUnit (m : Mach) (u : Nat) : Mach :=
  if u ∈ m.spare.marked ∨ u ∈ m.spare.retired ∨ m.spare.copies.any (fun c => decide (c.fromUnit = u)) = true then m
  else if !m.inService u && !m.spare.copies.any (fun c => decide (c.toUnit = u)) then m.retire u
  else
    let m1 : Mach := { m with spare := { m.spare with marked := m.spare.marked ++ [u] } }
    m1.showPending.raise rasPage 17

/-- A repair of a row: into a spare row of its bank while one is left (R418). -/
def Mach.repairRow (m : Mach) (bank row : Nat) : Option Mach :=
  let n := SMap.get m.ras.rowsUsed (fun _ => 0) bank
  if n < 16 then
    some { m with ras := { m.ras with rowsUsed := SMap.set m.ras.rowsUsed (fun _ => 0) bank (n + 1),
                                      repairs := m.ras.repairs ++ [row] } }
  else none

/-- Bank of a pond address, as a key for its spare rows. -/
def pondBank (u off : Nat) : Nat := u * 64 + (if u < 180 then off / 0x20000 else off / 0x40000)

def chanDefault (_ : Nat) : ChanSt := ChanSt.reset

def Mach.chanOf (m : Mach) (t : Nat) : ChanSt := SMap.get m.chan.chans chanDefault t

def Mach.setChan (m : Mach) (t : Nat) (c : ChanSt) : Mach :=
  { m with chan := { m.chan with chans := SMap.set m.chan.chans chanDefault t c } }

/-- Page and index in its page of a memory target (R269, R270): channel c of stack t is 8c + t; device d is slot d div 6
of controller d mod 6. -/
def targetPage (t : Nat) : Page := if t < 256 then ⟨.lake, t % 8⟩ else ⟨.basin, (t - 256) % 6⟩
def targetIdx (t : Nat) : Nat := if t < 256 then t / 8 else (t - 256) / 6

/-- CH_STATE or DEV_STATE of a target: 0 in service, 1 copying, 2 retired, 3 lost. -/
def Mach.chState (m : Mach) (t : Nat) : Nat :=
  natBits (m.live (targetPage t) Reg.LAKE.CH_STATE) (2 * targetIdx t + 1) (2 * targetIdx t)

/-- Replace two bits of a register that holds two bits for each target. -/
def Mach.setPair (m : Mach) (pg : Page) (f : Fld) (i v : Nat) : Mach :=
  m.setLive pg f ((setFld (w64 (m.live pg f)) (2 * i + 1) (2 * i) v).toNat)

def Mach.setChState (m : Mach) (t v : Nat) : Mach := m.setPair (targetPage t) Reg.LAKE.CH_STATE (targetIdx t) v

/-- A stack whose reserve is taken by a retirement. -/
def Mach.stackUsed (m : Mach) (t : Nat) : Bool :=
  (upTo 32).any (fun c => decide (m.chState (8 * c + t % 8) ≠ 0))

/-- A target fails permanently: a lake channel is copied into its stack's reserve while that is free; otherwise the
target is lost (R282 to R284). -/
def Mach.failTarget (m : Mach) (t : Nat) : Mach :=
  if m.chState t ≠ 0 then m
  else if t < 256 ∧ !m.stackUsed t then m.setChState t 1
  else ((m.setChState t 3).raise (targetPage t) 19).trayDue (targetPage t) (targetIdx t)

/-- A lane fails permanently: spared by retraining in place, or the third makes the target fail (R281). -/
def Mach.failLane (m : Mach) (t lane : Nat) : Mach :=
  let c := m.chanOf t
  if lane ∈ c.lanes then m
  else
    let c' := { c with lanes := c.lanes ++ [lane], retrain := c.retrain || decide (c.lanes.length < 2) }
    let m1 := m.setChan t c'
    if 2 < c'.lanes.length then m1.failTarget t else m1

/-- Keys of a lane and of a block of a memory target in the fault log. -/
def laneKey (i lane : Nat) : Nat := 2 ^ 40 + 256 * i + lane
def blockKey (i block : Nat) : Nat := i * 2 ^ 32 + block

/-- The target that a page and index name. -/
def pageTarget (pg : Page) (i : Nat) : Nat := if pg.blk = .lake then 8 * i + pg.idx else 256 + 6 * i + pg.idx

/-- The action of R417 on a permanent key. -/
def Mach.permanentAction (m : Mach) (pg : Page) (det key : Nat) : Mach :=
  let u := if pg.blk = .cell then pg.idx else 180 + pg.idx
  if det = 0x01 ∨ det = 0x02 then
    match m.repairRow (pondBank u (64 * key)) (pondKey u (64 * key)) with
    | some m1 => m1
    | none => m.markUnit u
  else if det = 0x05 ∨ det = 0x06 then
    match m.repairRow (2 ^ 16 + pg.idx * 64 + 64 * key / 0x100000) (scratchKey pg.idx (64 * key)) with
    | some m1 => m1
    | none => m.trayDue pg key
  else if det = 0x03 ∨ det = 0x04 ∨ det = 0x07 then m.markUnit u
  else if det = 0x0C ∧ (pg.blk = .cell ∨ pg.blk = .solv) then m.markUnit u
  else if det = 0x08 ∨ det = 0x09 then
    if 2 ^ 40 ≤ key then m.failLane (pageTarget pg ((key - 2 ^ 40) / 256)) (key % 256)
    else if det = 0x08 ∧ !m.stackUsed (pageTarget pg (key / 2 ^ 32)) then m.failTarget (pageTarget pg (key / 2 ^ 32))
    else m.trayDue pg key
  else if det = 0x11 then m.trayDue pg key
  else m

/-! ## Classification (R414 to R416) -/

/-- How a report counts: detectors 0x0B, 0x0E, 0x0F and 0x10 are never classified (R415). -/
inductive FaultClass where
  | transient
  | retryFail
  /-- not corrected, with no retry -/
  | hard
  | logged
deriving DecidableEq, Repr

/-- Ticks in PERM_WINDOW_H hours. -/
def Mach.faultWindow (m : Mach) : Nat := m.act rasPage Reg.RAS.RASCTL_PERM_WINDOW_H * 3600000000000

/-- The record of a key with what lies outside the window dropped; one without a report in it starts afresh (R416). -/
def Mach.keyRec (m : Mach) (k : FaultKey) : KeyRec :=
  let fresh := fun (l : List Nat) => l.filter (fun t => decide (m.ticks ≤ t + m.faultWindow))
  match m.ras.keys.find? (fun r => decide (r.key = k)) with
  | none => { key := k, reports := [], fails := [], permanent := false }
  | some r =>
    if (fresh r.reports).isEmpty then { key := k, reports := [], fails := [], permanent := false }
    else { r with reports := fresh r.reports, fails := fresh r.fails }

/-- One report of a detector (R412 to R416). `ue` is an uncorrectable SRAM word, whose row is permanent at once, or a register that
fails its reload (R413). -/
def Mach.report412 (m : Mach) (pg : Page) (det key : Nat) (cls : FaultClass) (injected ue : Bool) : Mach :=
  let k : FaultKey := ⟨pg.blk.type, pg.idx, det, key⟩
  let r := m.keyRec k
  let counts := !injected || decide (m.act rasPage Reg.RAS.RASCTL_INJ_COUNT = 1)
  let r1 : KeyRec := { r with
    reports := if counts then m.ticks :: r.reports else r.reports
    fails := if counts && decide (cls = .retryFail) then m.ticks :: r.fails else r.fails }
  let perm := r.permanent || (counts && decide (cls ≠ .logged) &&
    (ue || decide (m.act rasPage Reg.RAS.RASCTL_PERM_COUNT ≤ r1.reports.length) ||
      decide (m.act rasPage Reg.RAS.RASCTL_RETRY_FAILS ≤ r1.fails.length)))
  let r2 : KeyRec := { r1 with permanent := perm }
  let m1 : Mach := { m with ras := { m.ras with keys := m.ras.keys.filter (fun x => decide (x.key ≠ k)) ++ [r2] } }
  let m2 := m1.logFault { time := m.time.ns, key := k, permanent := perm, injected := injected,
                          reports := r1.reports.length, fails := r1.fails.length }
  let m3 := if cls = .transient then m2.bump rasPage Reg.RAS.FAULTS_TRANSIENT else m2
  if perm && !r.permanent then
    ((m3.bump rasPage Reg.RAS.FAULTS_PERMANENT).raise rasPage 16).permanentAction pg det key
  else m3

/-! ## Errors of the SRAMs and register files (R412, R418, R421, R423) -/

/-- Byte key of a word in error, where it is a word of memory. -/
def ErrPlace.key : ErrPlace → Option Nat
  | .pond u o => some (pondKey u o)
  | .scratch s o => some (scratchKey s o)
  | _ => none

/-- The unit whose pond or registers a place belongs to. -/
def ErrPlace.unit : ErrPlace → Option Nat
  | .pond u _ => some u
  | .lane u _ _ => some u
  | .greg u _ => some u
  | .scratch .. => none

/-- An error is read: what can be corrected is delivered as it was and written back; an uncorrectable word is stored poisoned, the part of
a vector register is marked (R134), and a general register faults its context (R122). It reports as its detector does (R412). -/
def Mach.errorFound (m : Mach) (e : SramError) : Mach :=
  match e.place with
  | .pond u o =>
    let m1 := if e.ue then { m with poison := marksAfter m.poison (pondKey u o) 1 true } else m
    (m1.raise (unitPage u) (if e.ue then 29 else 28)).report412 (unitPage u) (if e.ue then 0x02 else 0x01) (o / 64)
      (if e.ue then .hard else .transient) false e.ue
  | .scratch s o =>
    let p : Page := ⟨.pool, s⟩
    let m1 := if e.ue then { m with poison := marksAfter m.poison (scratchKey s o) 1 true } else m
    (m1.raise p (if e.ue then 18 else 17)).report412 p (if e.ue then 0x06 else 0x05) (o / 64) (if e.ue then .hard else .transient) false e.ue
  | .lane u v i =>
    let k := SMap.get m.core.vmarks (fun _ => 0) (u * 32 + v)
    let k1 := k ||| BitVec.ofNat 512 (0xFFFF <<< (16 * (i % 32)))
    let m1 : Mach := if e.ue then { m with core := { m.core with vmarks := SMap.set m.core.vmarks (fun _ => 0) (u * 32 + v) k1 } } else m
    (m1.raise (unitPage u) (if e.ue then 31 else 30)).report412 (unitPage u) (if e.ue then 0x04 else 0x03) 0
      (if e.ue then .hard else .transient) false false
  | .greg u c =>
    let m1 := (m.raise (unitPage u) (if e.ue then 31 else 30)).report412 (unitPage u) (if e.ue then 0x04 else 0x03) 0
      (if e.ue then .hard else .transient) false false
    if e.ue then m1.fault u c 0x03 else m1

/-- The errors that a test picks are read now. -/
def Mach.errorsFound (m : Mach) (p : ErrPlace → Bool) : Mach :=
  if m.ras.errors.isEmpty then m
  else (m.ras.errors.filter (fun e => p e.place)).foldl (fun m e => m.errorFound e)
    { m with ras := { m.ras with errors := m.ras.errors.filter (fun e => !p e.place) } }

/-- R418. The copy into a spare row ends, which reads every word of the row: one that cannot be corrected is written poisoned. Held
accesses go on. -/
def Mach.rowRepairDone (m : Mach) (row : Nat) : Mach :=
  let m1 := m.errorsFound (fun p => match p.key with | some k => decide (row ≤ k ∧ k < row + 64) | none => false)
  { m1 with ras := { m1.ras with repairs := m1.ras.repairs.filter (fun r => r ≠ row) } }

/-- R418. -/
def execRowRepairDone (key : BitVec 48) (s : State) : Host.Outcome State Fault Refusal :=
  s.run true (fun m => m.rowRepairDone key.toNat)

end Sys2Proof.Machine
end

