-- ==== Sys2Proof/Machine/Operands.lean ====
section
/-! DEFINITION. How an instruction comes to be executed and where its operands come from: selection of a context (R116,
R118), the fetch (R115, R122), immediates (R123), descriptor addresses and descriptors (R72, R492). -/

namespace Sys2Proof.Machine

/-- The compute domain is retired, which test mode looks behind (R18, R457). -/
def Mach.retiredDomain (m : Mach) : Bool := m.spare.drone && !m.testMode

/-- The compute domain completes work: the module is ready, and the domain is neither in reset nor retired nor in Retain
(R18, R452, R461, R462). -/
def Mach.computeUp (m : Mach) : Bool :=
  let s := m.live pwrPage Reg.PWR.STATE
  m.ready && !m.power.computeReset && !m.retiredDomain && decide (s = 1 ∨ s = 2 ∨ s = 4)

/-- The compute domain takes up new work: forced Retain stops it at the next boundary (R465). -/
def Mach.coresRun (m : Mach) : Bool := m.computeUp && !m.power.forced

/-- A unit takes up new work: the domain executes, the unit is in service or the module in test mode (R19, R457), and no spare
switch has stopped the unit (R421). -/
def Mach.unitRuns (m : Mach) (u : Nat) : Bool := m.coresRun && (m.inService u || m.testMode) && !m.spare.copies.any (fun c => decide (c.fromUnit = u))

/-- Work for the compute domain ends Idle (R463). -/
def Mach.endIdle (m : Mach) : Mach :=
  if m.live pwrPage Reg.PWR.STATE = 2 then (m.setLive pwrPage Reg.PWR.STATE 1).raise pwrPage 18 else m

/-- The wake from Retain begins (R464). -/
def Mach.wakeBegin (m : Mach) : Mach :=
  if m.live pwrPage Reg.PWR.STATE = 3 then (m.setLive pwrPage Reg.PWR.STATE 5).raise pwrPage 18 else m

/-- An access from outside to the compute domain ends Idle, and wakes from Retain with AUTOWAKE = 1 unless Retain is forced
(R463 to R465). -/
def Mach.accessWakes (m : Mach) : Mach :=
  if m.live pwrPage Reg.PWR.STATE = 3 ∧ m.act pwrPage Reg.PWR.PWRCTL_AUTOWAKE = 1 ∧ !m.power.forced then m.wakeBegin
  else m.endIdle

/-- The context that the core would select now: the next READY one in ascending number, wrapping, after the last (R116). -/
def Mach.nextReady (m : Mach) (u : Nat) : Option Nat :=
  let last := (m.unit u).lastSel.getD 15
  ((upTo 16).map (fun i => (last + 1 + i) % 16)).find? (fun c => (m.ctx u c).state = .ready)

/-- Select a context: it runs; a change of the running context is a switch (R118). -/
def Mach.selectCtx (m : Mach) (u c : Nat) : Mach :=
  let x := m.unit u
  let m1 := (m.setCtx u c { m.ctx u c with state := .running }).setUnit u { x with lastSel := some c }
  match x.lastSel with
  | some d => if d = c then m1 else m1.bump (unitPage u) Reg.CELL.CTX_SWITCHES
  | none => m1.bump (unitPage u) Reg.CELL.CTX_SWITCHES

/-- The state in which context c of unit u is the one that runs, if it is or is next to be selected. -/
def Mach.schedule (m : Mach) (u c : Nat) : Option Mach :=
  if !m.unitRuns u then none
  else match m.running u with
    | some d => if d = c then some m else none
    | none => if m.nextReady u = some c then some (m.endIdle.selectCtx u c) else none

/-- Take an injection of a pond or register-file detector of a unit: its event and its fault record (R412, R414). -/
def Mach.takeDetector (m : Mach) (u b det key : Nat) (cls : FaultClass) (ue : Bool) : Bool × Mach :=
  let r := m.takeInject (unitPage u) b
  if r.1 then (true, (r.2.raise (unitPage u) b).report412 (unitPage u) det key cls true ue) else (false, m)

/-- A read of a pond takes the injections of its detectors (R412, R414), with the key of its first row. -/
def Mach.pondInject (m : Mach) (u row : Nat) : Bool × Mach :=
  let r1 := m.takeDetector u 28 0x01 row .transient false
  r1.2.takeDetector u 29 0x02 row .hard true

/-- The injections that the fetch and the register reads of one instruction take (R412): corrected errors change
nothing; an uncorrectable word is delivered poisoned to the fetch, and a general register faults its context. An instruction that
reads vector registers leaves the uncorrectable register to those (`Mach.rfDelivered`). -/
def Mach.injections (m : Mach) (u c : Nat) (vec : Bool := false) : Option Nat × Mach :=
  let row := (m.ctx u c).pc.toNat / 64
  let r1 := m.takeDetector u 28 0x01 row .transient false
  let r2 := r1.2.takeDetector u 29 0x02 row .hard true
  let r3 := r2.2.takeDetector u 30 0x03 0 .transient false
  let r4 := if vec then (false, r3.2) else r3.2.takeDetector u 31 0x04 0 .hard false
  (if r2.1 then some 0x06 else if r4.1 then some 0x03 else none, r4.2)

/-- The fault of the fetch: a PC that is no multiple of 4, or a poisoned word (R115, R121). -/
def Mach.fetchFault (m : Mach) (u c : Nat) : Option Nat :=
  let a := (m.ctx u c).pc.toNat
  if a % 4 ≠ 0 then some 0x02 else if m.anyMarked (pondKey u a) 4 then some 0x06 else none

/-- A row among n bytes from k is being copied into a spare row: accesses to it are held (R418). -/
def Mach.rowHeld (m : Mach) (k n : Nat) : Bool := m.ras.repairs.any (fun r => decide (r < k + n ∧ k < r + 64))

/-- Run an instruction whose fetch meets no fault. While the row of its word is being copied into a spare row, the fetch is held and
nothing happens (R418). -/
def Mach.fetched (m : Mach) (u c : Nat) (body : Mach → Mach) : Mach :=
  match m.fetchFault u c with
  | some code => m.fault u c code
  | none => if m.rowHeld (pondKey u (m.ctx u c).pc.toNat) 4 then m else body m

/-- Execute an instruction of a context: only the running context executes; a misaligned fetch and one of a poisoned word fault
(R115, R116, R122). -/
def Mach.issue (m : Mach) (u c : Nat) (body : Mach → Mach) (vec : Bool := false) : Mach :=
  match m.schedule u c with
  | none => m
  | some m1 =>
    if (m1.hdr (unitPage u)).inject &&& 0xF0000000 ≠ 0 ∧ (m1.ctx u c).pc.toNat % 4 = 0 then
      match m1.injections u c vec with
      | (some code, m2) => m2.fault u c code
      | (none, m2) => m2.fetched u c body
    else m1.fetched u c body

/-- A meaning that executes an instruction. -/
def State.issue (s : State) (u : UnitId) (c : CtxId) (body : Mach → Mach) : Host.Outcome State Fault Refusal :=
  s.run true (fun m => m.issue u.val c.val body)

/-- The same for an instruction that reads vector registers. -/
def State.issueVec (s : State) (u : UnitId) (c : CtxId) (body : Mach → Mach) : Host.Outcome State Fault Refusal :=
  s.run true (fun m => m.issue u.val c.val body true)

/-- A 12-bit immediate, sign-extended or zero-extended (R124). -/
def sext12 (i : BitVec 12) : Word := i.signExtend 64
def zext12 (i : BitVec 12) : Word := i.zeroExtend 64

/-- The address ga + IMM · 64 of an instruction with the MX layout (R72). -/
def descAddr (g : Word) (imm : BitVec 13) : Word := g + (imm.zeroExtend 64) * 64

/-- Read a descriptor at issue (R492): its words, or the fault code. -/
def Mach.readDesc (m : Mach) (u : Nat) (addr : Word) (bytes align : Nat) : Except Nat (List Nat) :=
  let a := addr.toNat
  if a % align ≠ 0 ∨ pondSize u < a + bytes then .error 0x02
  else if m.anyMarked (pondKey u a) bytes then .error 0x03
  else .ok (wordsOf (bytes / 8) (m.rdBytes bytes (pondKey u a)))

end Sys2Proof.Machine
end

