-- ==== Sys2Proof/Machine/Hazard.lean ====
section
/-! DEFINITION. The fields of a matrix descriptor (R74), the ranges that the arrays guard while an instruction is in them
(R85), and stores through the store buffer (R264). -/

namespace Sys2Proof.Machine

/-! ## Matrix descriptor fields, R74 -/

def mxShape (w : List Nat) : Nat := wfld w 0 1 0
def mxMode (w : List Nat) : Nat := wfld w 0 4 2
def mxAFmt (w : List Nat) : Nat := wfld w 0 8 5
def mxBFmt (w : List Nat) : Nat := wfld w 0 12 9
def mxOFmt (w : List Nat) : Nat := wfld w 0 16 13
def mxKseg (w : List Nat) : Nat := wfld w 0 18 17
def mxRunacc (w : List Nat) : Bool := wbit w 0 19
def mxRunlen (w : List Nat) : Nat := wfld w 0 21 20
def mxAccIn (w : List Nat) : Bool := wbit w 0 22
def mxDrain (w : List Nat) : Bool := wbit w 0 23
def mxSat (w : List Nat) : Bool := wbit w 0 24
def mxRnd (w : List Nat) : Bool := wbit w 0 25
def mxExpand (w : List Nat) : Nat := wfld w 0 27 26
def mxTag (w : List Nat) : Nat := wfld w 0 47 32
def mxK (w : List Nat) : Nat := wfld w 1 15 0
def mxM (w : List Nat) : Nat := wfld w 1 22 16
def mxN (w : List Nat) : Nat := wfld w 1 31 23
def mxKH (w : List Nat) : Nat := wfld w 1 35 32
def mxKW (w : List Nat) : Nat := wfld w 1 39 36
def mxSA (w : List Nat) : Nat := wfld w 2 15 0
def mxSB (w : List Nat) : Nat := wfld w 2 31 16
def mxSOut (w : List Nat) : Nat := wfld w 2 47 32
def mxA (w : List Nat) : Nat := wfld w 3 21 0
def mxAStride (w : List Nat) : Nat := wfld w 3 43 22
def mxB (w : List Nat) : Nat := wfld w 4 21 0
def mxBStride (w : List Nat) : Nat := wfld w 4 43 22
def mxO (w : List Nat) : Nat := wfld w 5 21 0
def mxOStride (w : List Nat) : Nat := wfld w 5 43 22
def mxX (w : List Nat) : Nat := wfld w 6 21 0
def mxARow (w : List Nat) : Nat := wfld w 6 43 22

/-- Bytes that n packed elements of a format occupy (R46). -/
def packedBytes (fmt n : Nat) : Nat := ceilDiv (n * fmtWidth fmt) 8

/-- All K indices of the instruction: K, or KH · KW · CIN in TS3 (R76, R78). -/
def mxKAll (w : List Nat) : Nat := if mxShape w = 3 then mxKH w * mxKW w * mxK w else mxK w

/-- A range as (start, bytes); 0 bytes is empty. -/
def mxRangeA (w : List Nat) : Nat × Nat :=
  if mxKAll w = 0 then (mxA w, 0)
  else if mxShape w = 3 then
    (mxA w, (mxKH w - 1) * mxARow w + (mxM w - 1 + (mxKW w - 1)) * mxAStride w + packedBytes (mxAFmt w) (mxK w))
  else (mxA w, (mxM w - 1) * mxAStride w + packedBytes (mxAFmt w) (mxK w))

def mxRangeB (w : List Nat) : Nat × Nat :=
  if mxKAll w = 0 then (mxB w, 0) else (mxB w, (mxKAll w - 1) * mxBStride w + packedBytes (mxBFmt w) (mxN w))

def mxRangeO (w : List Nat) : Nat × Nat :=
  if mxDrain w then (mxO w, (mxM w - 1) * mxOStride w + packedBytes (mxOFmt w) (mxN w)) else (mxO w, 0)

def mxRangeX (w : List Nat) : Nat × Nat :=
  if mxExpand w = 1 then (mxX w, if mxKAll w = 0 then 0 else if mxBFmt w = 9 then 32 else 512)
  else if mxExpand w = 2 then (mxX w, mxN w * 8) else (mxX w, 0)

/-- Two ranges share a byte. -/
def overlaps (a b : Nat × Nat) : Bool := decide (a.2 ≠ 0 ∧ b.2 ≠ 0 ∧ a.1 < b.1 + b.2 ∧ b.1 < a.1 + a.2)

def mxDefault (_ : Nat) : MxSt := MxSt.reset

def Mach.mxOf (m : Mach) (u : Nat) : MxSt := SMap.get m.mx mxDefault u

def Mach.setMx (m : Mach) (u : Nat) (x : MxSt) : Mach := { m with mx := SMap.set m.mx mxDefault u x }

/-- A write by any agent into the output range of the instruction in the arrays is held (R85). -/
def Mach.outGuarded (m : Mach) (u off len : Nat) : Bool :=
  match (m.mxOf u).running with
  | none => false
  | some r => overlaps (mxRangeO r.item.words) (off, len)

/-- A write of a store, of the vector unit or of DMA is held also in the operand ranges (R85). -/
def Mach.guarded (m : Mach) (u off len : Nat) : Bool :=
  match (m.mxOf u).running with
  | none => false
  | some r => let w := r.item.words
    [mxRangeA w, mxRangeB w, mxRangeX w, mxRangeO w].any (fun g => overlaps g (off, len))

/-- A write finds itself held by the guard of a cell's arrays: how many cycles it is held is open (R85, log 11). -/
def Mach.hazard (m : Mach) (u : Nat) : Mach := m.spend (unitPage u) Reg.CELL.MX_HAZARD_CYC (2 ^ 64 - 1)

/-! ## The store buffer (R85, R264) -/

/-- A store of the control core or the vector unit: to the pond, or into the store buffer when the arrays guard its
bytes or an earlier held store of the context touches them. -/
def Mach.store (m : Mach) (u c off : Nat) (d : Bytes) (bad : Bool) : Mach :=
  let x := m.unit u
  if m.guarded u off d.length || x.held.any (fun h => decide (h.ctx = c) && overlaps (h.addr, h.data.length) (off, d.length))
  then m.setUnit u { x with held := x.held ++ [{ ctx := c, addr := off, data := d, poison := bad }] }
  else m.pondWrite u off d bad

/-- The memory as a context's own loads see it: its held stores performed in order (R264). -/
def Mach.ownView (m : Mach) (u c : Nat) : Mach :=
  ((m.unit u).held.filter (fun h => decide (h.ctx = c))).foldl
    (fun m h => m.wrBytes (pondKey u h.addr) h.data h.poison) m

/-- A descriptor that an instruction reads at its issue, as the context's own loads would see it (R492): its words, or the fault. While
a row that holds it is being copied, the read is held (R418). -/
def Mach.withDesc (m : Mach) (u c : Nat) (addr : Word) (bytes align : Nat) (k : List Nat → Mach) : Mach :=
  if decide (addr.toNat + bytes ≤ pondSize u) && m.rowHeld (pondKey u addr.toNat) bytes then m
  else match (m.ownView u c).readDesc u addr bytes align with
    | .error e => m.fault u c e
    | .ok w => k w

/-- Perform the held stores that nothing guards any more, in the order in which they were issued. How many cycles they were held is
open. -/
def Mach.releaseStores (m : Mach) (u : Nat) : Mach :=
  let hs := (m.unit u).held
  let m0 := if hs.isEmpty then m else m.hazard u
  let m1 := m0.setUnit u { m.unit u with held := [] }
  hs.foldl (fun m h => m.store u h.ctx h.addr h.data h.poison) m1

end Sys2Proof.Machine
end

