-- ==== Sys2Proof/Machine/LaneIO.lean ====
section
/-! DEFINITION. Elements of any width in byte memory (R46): reading and writing them by bit address, and joining the bytes of
one operation into writes of aligned 8-byte words, which is what poison is marked by (R493). -/

namespace Sys2Proof.Machine

/-- Element of w bits at a bit address, read through a byte reader. -/
def elemRead (rd : Nat → Byte) (bitAddr w : Nat) : Nat :=
  let lo := bitAddr / 8
  let n := (bitAddr + w + 7) / 8 - lo
  (ofBytes ((upTo n).map (fun i => rd (lo + i))) >>> (bitAddr % 8)) % 2 ^ w

/-- One element to write: bit address, width, code, poisoned. -/
structure ElemWrite where
  bitAddr : Nat
  width : Nat
  code : Nat
  bad : Bool
deriving DecidableEq, Repr

/-- Bytes gathered for one operation, by address, each with its poison. -/
abbrev ByteMap := SMap (Byte × Bool)

/-- Add one byte. -/
def byteMapPut (mp : ByteMap) (a : Nat) (b : Byte) (bad : Bool) : ByteMap := SMap.insert mp a (b, bad)

/-- Add one element; a 4-bit element keeps the other half of its byte (R46). -/
def byteMapElem (rd : Nat → Byte) (mp : ByteMap) (e : ElemWrite) : ByteMap :=
  if e.width % 8 = 0 then
    (upTo (e.width / 8)).foldl
      (fun mp i => byteMapPut mp (e.bitAddr / 8 + i) (BitVec.ofNat 8 (e.code >>> (8 * i))) e.bad) mp
  else
    let a := e.bitAddr / 8
    let old := match SMap.find? mp a with
      | some (b, _) => b.toNat
      | none => (rd a).toNat
    let oldBad := match SMap.find? mp a with
      | some (_, p) => p
      | none => false
    let v := if e.bitAddr % 8 = 0 then old / 16 * 16 + e.code % 16 else old % 16 + e.code % 16 * 16
    byteMapPut mp a (BitVec.ofNat 8 v) (e.bad || oldBad)

/-- Runs of consecutive bytes inside one aligned 8-byte word: (address, bytes, poisoned). -/
def joinBytes : ByteMap → List (Nat × Bytes × Bool)
  | [] => []
  | (a, (b, p)) :: l =>
    match joinBytes l with
    | (a', d, p') :: rs =>
      if a' = a + 1 ∧ a' / 8 = a / 8 then (a, b :: d, p || p') :: rs else (a, [b], p) :: (a', d, p') :: rs
    | [] => [(a, [b], p)]

/-- The writes that a list of elements makes. -/
def elemWrites (rd : Nat → Byte) (es : List ElemWrite) : List (Nat × Bytes × Bool) :=
  joinBytes (es.foldl (byteMapElem rd) [])

/-- Write elements at byte keys, without any guard. -/
def Mach.putElems (m : Mach) (base : Nat) (es : List ElemWrite) : Mach :=
  (elemWrites (fun a => m.rdByte (base + a)) es).foldl (fun m r => m.wrBytes (base + r.1) r.2.1 r.2.2) m

/-- Write elements into a pond under the guard of ring slots (R209). -/
def Mach.pondElems (m : Mach) (u : Nat) (es : List ElemWrite) : Mach :=
  (elemWrites (fun a => m.rdByte (pondKey u a)) es).foldl (fun m r => m.pondWrite u r.1 r.2.1 r.2.2) m

/-- Read element i of a packed array of a format width at a byte key. -/
def Mach.elemAt (m : Mach) (base w i : Nat) : Nat := elemRead m.rdByte (8 * base + w * i) w

/-- Element i of a packed array lies in a poisoned word. -/
def Mach.elemBad (m : Mach) (base w i : Nat) : Bool :=
  let lo := (8 * base + w * i) / 8
  m.anyMarked lo ((8 * base + w * i + w + 7) / 8 - lo)

end Sys2Proof.Machine
end

