-- ==== Sys2Proof/Machine/Scale.lean ====
section
/-! DEFINITION. Scale slots: conversions into their tensors and the reports of them (R57, R67, R218, R222), window writes
(R221), the advance (R219, R220, R236, R237) and the finite gate (R224 to R228). -/

namespace Sys2Proof.Machine

def scalePage : Page := ⟨.scale, 0⟩

def slotDefault (_ : Nat) : Slot := Slot.reset

def Mach.slot (m : Mach) (n : Nat) : Slot := SMap.get m.train.slots slotDefault n

def Mach.setSlot (m : Mach) (n : Nat) (s : Slot) : Mach :=
  { m with train := { m.train with slots := SMap.set m.train.slots slotDefault n s } }

/-! ## Reports (R67, R218) -/

/-- A value is written as zero. -/
def codeIsZero (fmt code : Nat) : Bool := (decode fmt code).isZero

/-- The FP32 code that AMAX_STEP takes for a magnitude (R218, R245): its own where FP32 holds it; else one of the two that it
lies between, and past the largest finite one any. Which, the spec leaves open. DESIGN CHOICE, log 48. -/
def amaxCode (x : Num) : Nat :=
  let c := (encodeNum 1 .up true false x).code
  if !Num.lt x (f32Val c) then c
  else match x with
    | .fin _ n d e =>
      if 0x7F800000 ≤ c then Config.amaxOpen n d e % 0x7F800000
      else if Config.amaxOpen n d e % 2 = 0 then c - 1 else c
    | _ => c

/-- What one element adds to its slot; a slot that is not enabled collects nothing (R217, R218). -/
def Slot.collect (s : Slot) (fmt : Nat) (e : SlotElem) : Slot :=
  if !s.enable then s
  else if e.bad then { s with nonfinite := true, poison := true, writes := s.writes + 1 }
  else
    let z := codeIsZero fmt e.coded.code
    { s with
      writes := s.writes + 1
      amaxStep := if e.pres.finite then max s.amaxStep (amaxCode e.pres.abs) else s.amaxStep
      sat := s.sat || decide (e.coded.flags &&& Flag.saturated ≠ 0)
      nonfinite := s.nonfinite || !e.pres.finite || !(decode fmt e.coded.code).finite
      zeros := s.zeros + b2n z
      flushZeros := s.flushZeros +
        b2n (z && decide (e.coded.flags &&& (Flag.underflow ||| Flag.flushed) ≠ 0)) }

/-- The step was skipped: a gate result 1 has arrived since the last advance (R225, R228). -/
def Mach.stepSkipped (m : Mach) : Bool :=
  decide (m.live scalePage Reg.SCALE.GATE_VALID = 1 ∧ m.live scalePage Reg.SCALE.GATE_RESULT = 1)

/-- A slot of the module has seen poison in this step (R226). -/
def Mach.sawPoison (m : Mach) : Bool := m.train.slots.any (fun e => e.2.enable && e.2.poison)

/-- The reports of one conversion. A non-finite report that comes after the gate contribution was taken is late (R227); the
first poison that a skipped step sees after its gate result raises STEP_POISON (R226). -/
def Mach.report (m : Mach) (n fmt : Nat) (es : List SlotElem) : Mach :=
  let s := m.slot n
  let s' := es.foldl (fun s e => s.collect fmt e) s
  let late := s.enable && s.gate && m.train.contribTaken &&
    es.any (fun e => e.bad || !e.pres.finite || !(decode fmt e.coded.code).finite)
  let m1 := m.setSlot n s'
  let m2 := if late then (m1.bump scalePage Reg.SCALE.GATE_LATE_CNT).raise scalePage 19 else m1
  m2.raiseIf (m.stepSkipped && !m.sawPoison && m1.sawPoison) scalePage 18

/-- The value that a conversion into a slot's tensor presents: x, or LR · x under LRFOLD (R222). -/
def Slot.present (s : Slot) (x : Num) : Num × BitVec 8 :=
  if s.lrfold then Num.mul (f32Val s.lr) x else (x, 0)

/-- Convert a value into the tensor of a slot: q = round(LR · x / s) (R57, R222). -/
def Slot.convertInto (s : Slot) (fmt : Nat) (md : Rnd) (denorm sat : Bool) (x : Num) : Num × Coded :=
  let p := s.present x
  let q := Num.div p.1 (f32Val s.scale)
  let c := encodeNum fmt md denorm sat q.1
  (p.1, ⟨c.code, p.2 ||| q.2 ||| c.flags⟩)

/-! ## Window writes (R221) -/

/-- The entry as it stands with its pending values over the values in force. -/
def Slot.withPending (s : Slot) : Slot :=
  { s with
    fmt := s.pend.fmt.getD s.fmt
    enable := s.pend.enable.getD s.enable
    exact := s.pend.exact.getD s.exact
    hm1 := s.pend.hm1.getD s.hm1
    headroom := s.pend.headroom.getD s.headroom
    gate := s.pend.gate.getD s.gate
    lrfold := s.pend.lrfold.getD s.lrfold
    lr := s.pend.lr.getD s.lr
    scale := s.pend.scale.getD s.scale
    pend := .empty }

/-- Some field waits for the advance (W3.PENDING). -/
def SlotPend.any (p : SlotPend) : Bool := decide (p ≠ SlotPend.empty)

/-- An FP32 code that is an exact power of two, as a normal value. -/
def isPow2F32 (code : Nat) : Bool := scaleOk code && decide (code % 2 ^ 23 = 0)

/-- An LR that R221 accepts: zero of positive sign, or positive and normal. -/
def lrOk (code : Nat) : Bool := decide (code = 0 ∨ code = 0x80000000) || scaleOk code

/-- The checks of an entry with REASON 0x01 (R221). -/
def Slot.entryOk (s : Slot) : Bool :=
  decide (s.headroom ≤ 8 ∧ 1 ≤ s.fmt ∧ s.fmt ≤ 7) && scaleOk s.scale && lrOk s.lr && (!s.lrfold || isPow2F32 s.scale)

/-- The slot number that window entry j shows. -/
def Mach.windowSlot (m : Mach) (j : Nat) : Nat :=
  (m.live scalePage Reg.SCALE.SWIN_BASE * 32 + j) % 65536

/-- A slot with word k of its entry made pending as a write covers it (R221). -/
def Slot.pendWrite (s : Slot) (k : Nat) (w : RegWrite) : Slot :=
  let v := w.bits
  let lo := decide (w.lanes ≠ .high)
  let hi := decide (w.lanes ≠ .low)
  if k = 0 then
    let p := if lo then
      { s.pend with fmt := some (fld v 3 0), enable := some (bit v 4), exact := some (bit v 5), hm1 := some (fld v 11 6),
                    headroom := some (fld v 15 12), gate := some (bit v 16), lrfold := some (bit v 17) }
      else s.pend
    { s with pend := if hi then { p with lr := some (fld v 63 32) } else p }
  else if k = 1 ∧ lo then { s with pend := { s.pend with scale := some (fld v 31 0) } }
  else s

/-- A write through the slot window (R221): word k of entry j. -/
def Mach.slotWindowWrite (m : Mach) (off : Nat) (w : RegWrite) : Mach :=
  let j := (off - 0xA00) / 32
  let k := (off - 0xA00) % 32 / 8
  let n := m.windowSlot j
  let v := w.bits
  if k = 3 then m
  else if k = 2 then
    if fld v 63 60 ≠ 0 then m.cfgReject scalePage 2
    else if bit v 58 then m.setSlot n { m.slot n with silent := false } else m
  else if k = 0 ∧ fld v 31 18 ≠ 0 then m.cfgReject scalePage 2
  else
    let s' := (m.slot n).pendWrite k w
    if s'.withPending.entryOk then m.setSlot n s' else m.cfgReject scalePage 1

/-! ## The advance (R220, R236, R237) -/

/-- Largest finite value of a slot's format (R47). -/
def fmtMax (fmt : Nat) : Num :=
  if fmt = 6 then .fin false 1 1 27
  else
    let l := layout fmt
    .fin false l.top 1 (l.emax - l.fb)

/-- ceil(log2 x) for a positive value. -/
def Num.ceilLog2 : Num → Int
  | .fin _ n d e =>
    let g := floorLog2 n d e
    if belowPow n d e (g + 1) && !ltScaled d g n e then g else g + 1
  | _ => 0

/-- A positive value held within 2^−126 to 2^127, and whether that changed it (R220). -/
def clampScale (x : Num) : Num × Bool :=
  let lo : Num := .fin false 1 1 (-126)
  let hi : Num := .fin false 1 1 127
  if Num.lt x lo then (lo, true) else if Num.lt hi x then (hi, true) else (x, false)

/-- The largest amax of a history. -/
def histMax (h : List Nat) : Nat := h.foldl max 0

/-- The scale rule of R220 for an enabled slot: its new history, scale and whether it was clamped. -/
def Slot.nextScale (s : Slot) : List Nat × Nat × Bool :=
  if s.sat || s.nonfinite then
    let r := clampScale (Num.mul (f32Val s.scale) (.fin false 1 1 (s.headroom + 1))).1
    ([], toF32 r.1, r.2)
  else
    let hist := (if 0 < s.writes then s.amaxStep :: s.hist else s.hist).take (s.hm1 + 1)
    let a := histMax hist
    if a = 0 then
      let r := clampScale (f32Val s.scale)
      (hist, toF32 r.1, r.2)
    else
      let q := (Num.div (f32Val a) (fmtMax s.fmt)).1
      if s.exact && !s.lrfold then
        let r := clampScale (f32Val (encodeNum 1 .up true false (Num.mul q (.fin false 1 1 s.headroom)).1).code)
        (hist, toF32 r.1, r.2)
      else
        let r := clampScale (.fin false 1 1 (q.ceilLog2 + s.headroom))
        (hist, toF32 r.1, r.2)

/-- ZRUN and FLUSH_FRAC after a step that was not skipped (R236). -/
def Slot.nextZrun (s : Slot) : Nat × Nat :=
  (if s.writes = s.zeros then min (s.zrun + 1) (2 ^ 32 - 1) else 0,
   if s.writes = 0 then 0 else min (65536 * s.flushZeros / s.writes) 65535)

/-- One slot at the advance: pending values first, then the rule; whether it fired SILENT and whether it was clamped. -/
def Slot.advance (s0 : Slot) (skipped : Bool) (limit : Nat) : Slot × Bool × Bool :=
  let s := s0.withPending
  if !s.enable then (s, false, false)
  else
    let (hist, scale, clamped) := s.nextScale
    let z := if skipped then (s.zrun, s.flushFrac) else s.nextZrun
    let fired := !skipped && decide (0 < limit ∧ z.1 = limit ∧ s.zrun ≠ z.1)
    ({ s with hist := hist, scale := scale, zrun := z.1, flushFrac := z.2, silent := s.silent || fired,
              nonfinite := false, sat := false, poison := false, amaxStep := 0, writes := 0, zeros := 0,
              flushZeros := 0 }, fired, clamped)

/-- Every listed slot advanced, with the numbers of those that fired and how many were clamped. -/
def advanceSlots (skipped : Bool) (limit : Nat) : SMap Slot → SMap Slot × List Nat × Nat
  | [] => ([], [], 0)
  | (n, s) :: l =>
    let r := s.advance skipped limit
    let (l', f, c) := advanceSlots skipped limit l
    (if r.1 = Slot.reset then l' else (n, r.1) :: l', if r.2.1 then n :: f else f, c + b2n r.2.2)

/-- The rule of R220 on given slots, with the toggle of R241 and the events of R220 and R237; `put` takes the slots over. -/
def Mach.runRule (m : Mach) (old : SMap Slot) (skipped : Bool) (put : SMap Slot → SMap Slot) : Mach :=
  let (sl, fired, clamped) := advanceSlots skipped (m.act scalePage Reg.SCALE.SCALECTL_ZRUN_LIMIT) old
  let m1 : Mach := { m with train := { m.train with slots := put sl } }
  let m2 := if skipped then m1
    else m1.setLive scalePage Reg.SCALE.GATE_RESBANK (1 - m1.live scalePage Reg.SCALE.GATE_RESBANK)
  let m3 := match fired with
    | [] => m2
    | n :: _ => ((m2.setLive scalePage Reg.SCALE.SILENT_LAST_SLOT n).setLive scalePage Reg.SCALE.SILENT_LAST_COUNT
        fired.length).raise scalePage 16
  if clamped = 0 then m3 else (m3.bump scalePage Reg.SCALE.CLAMP_CNT clamped).raise scalePage 20

/-- What ends with the step beside the slots: the gate's result and the contribution (R227, R228). -/
def Mach.closeStep (m : Mach) : Mach :=
  ({ m with train := { m.train with contribTaken := false } } : Mach).setLive scalePage Reg.SCALE.GATE_VALID 0

/-- The advance: the commit of the SCALE page (R219). -/
def Mach.advanceScales (m : Mach) : Mach := (m.runRule m.train.slots m.stepSkipped (fun l => l)).closeStep

/-! ## The gate (R224 to R226) -/

/-- The module's contribution: the OR of NONFINITE over enabled slots with GATE = 1 (R224). -/
def Mach.gateContribution (m : Mach) : Bool :=
  m.train.slots.any (fun e => e.2.enable && e.2.gate && e.2.nonfinite)

/-- Take the contribution (R224, R227). -/
def Mach.takeContribution (m : Mach) : Mach := { m with train := { m.train with contribTaken := true } }

def updPage (s : Nat) : Page := ⟨.upd, s⟩

/-- The seed that an armed list keeps (R397). -/
def Mach.armSeed (m : Mach) (s : Nat) : Nat := ((SMap.find? m.train.upd s).map UpdRun.seed).getD m.seed

/-- The gate result arrives (R225, R226): it is shown, and every armed list runs or is skipped. -/
def Mach.gateResult (m : Mach) (r : Bool) : Mach :=
  let m1 := (m.setLive scalePage Reg.SCALE.GATE_RESULT (b2n r)).setLive scalePage Reg.SCALE.GATE_VALID 1
  let m2 := if r then
      let m2 := (m1.bump scalePage Reg.SCALE.SKIP_STEPS).raise scalePage 17
      m2.raiseIf m2.sawPoison scalePage 18
    else m1
  (upTo 20).foldl (fun m s =>
    if m.live (updPage s) Reg.UPD.STATE ≠ 1 then m
    else if r then
      ({ m with train := { m.train with upd := SMap.erase m.train.upd s } } : Mach).setLive (updPage s) Reg.UPD.STATE 4
    else
      let run : UpdRun := { slots := m.train.slots, seed := m.armSeed s, late := SMap.get m.chan.scratchDue (fun _ => false) s }
      let m1 : Mach := { m with train := { m.train with upd := SMap.insert m.train.upd s run } }
      m1.setLive (updPage s) Reg.UPD.STATE 2) m2

/-- R221. A write through the slot window. -/
def execScaleWindowWrite (off : BitVec 12) (w : RegWrite) (s : State) : Host.Outcome State Fault Refusal :=
  s.run (decide (0xA00 ≤ off.toNat ∧ off.toNat < 0xE00 ∧ off.toNat % 8 = 0))
    (fun m => m.owned w.src scalePage (fun m => m.slotWindowWrite off.toNat w))

end Sys2Proof.Machine
end

