-- ==== Sys2Proof/Machine/MxArith.lean ====
section
/-! DEFINITION. What the arrays compute (R70 to R104): operands, terms, accumulation in A40 or 40-bit integers, runs,
segments, the checksum column, and the drain. -/

namespace Sys2Proof.Machine

/-! ## Shape of an instruction (R75, R77, R78) -/

/-- The integer row of R77. -/
def mxInt (w : List Nat) : Bool := decide ((mxAFmt w = 8 ∨ mxAFmt w = 10) ∧ (mxBFmt w = 8 ∨ mxBFmt w = 10))

/-- Array parts P of a shape. -/
def mxParts (w : List Nat) : Nat := if mxShape w = 1 then 2 else if mxShape w = 2 then 4 else 1

/-- K indices of one array part (R78). -/
def mxKg (w : List Nat) : Nat := mxKAll w / mxParts w

/-- Run length of RUNLEN (R99). -/
def mxRun (w : List Nat) : Nat := if mxRunlen w = 0 then 8 else if mxRunlen w = 1 then 16 else 32

/-- FP4 × FP4, whose products meet in pairs (R97). -/
def mxPairs (w : List Nat) : Bool := decide (mxAFmt w = 7 ∧ mxBFmt w = 7)

/-- Cycles of products: ceil(K_g / ρ), R77, R78. -/
def mxCycles (w : List Nat) : Nat :=
  let half := fun f => decide (f = 2 ∨ f = 3)
  if half (mxAFmt w) || half (mxBFmt w) || decide (mxExpand w ≠ 0) then 2 * mxKg w
  else if mxPairs w || (mxRunacc w && decide (mxShape w ≠ 2)) then ceilDiv (mxKg w) 2
  else mxKg w

/-- Output column that column j of array a holds (R75). -/
def mxCol (shape a j : Nat) : Nat := if shape = 1 then 64 * (a / 2) + j else if shape = 2 then j else 64 * a + j

/-- Active columns of an array. -/
def mxCols (w : List Nat) (a : Nat) : List Nat := (upTo 64).filter (fun j => decide (mxCol (mxShape w) a j < mxN w))

/-- Arrays whose parts make an output column. -/
def mxArrays (w : List Nat) (n : Nat) : List Nat :=
  if mxShape w = 1 then [2 * (n / 64), 2 * (n / 64) + 1] else if mxShape w = 2 then [0, 1, 2, 3] else [n / 64]

/-- Column of an array that holds an output column. -/
def mxSub (n : Nat) : Nat := n % 64

/-- Key of an accumulator, and of a row of an array. -/
def accKey (a r j : Nat) : Nat := (a * 64 + r) * 64 + j
def rowKey (a r : Nat) : Nat := a * 64 + r

/-! ## Operands (R60, R61, R74, R76) -/

/-- An operand: its code, value, the flags of reading it, poison. -/
structure MxElem where
  code : Nat
  v : Num
  fl : BitVec 8
  bad : Bool
deriving DecidableEq, Repr

/-- Read an element of a pond at a bit address. -/
def Mach.mxElem (m : Mach) (u fmt : Nat) (denorm : Bool) (b : Nat) : MxElem :=
  let w := fmtWidth fmt
  let code := elemRead (fun a => m.rdByte (pondKey u a)) b w
  let x := readNum denorm fmt code
  ⟨code, x.1, x.2 ||| snanFlag [x.1], m.anyMarked (pondKey u (b / 8)) ((b + w + 7) / 8 - b / 8)⟩

/-- Element (r, k) of A; in TS3 the taps are in (ky, kx) order and channels within (R76). -/
def Mach.mxA (m : Mach) (u : Nat) (w : List Nat) (denorm : Bool) (r k : Nat) : MxElem :=
  let f := mxAFmt w
  if mxShape w = 3 then
    let ky := k / (mxKW w * mxK w)
    let rest := k % (mxKW w * mxK w)
    m.mxElem u f denorm (8 * (Machine.mxA w + ky * mxARow w + (r + rest / mxK w) * mxAStride w) + (rest % mxK w) * fmtWidth f)
  else m.mxElem u f denorm (8 * (Machine.mxA w + r * mxAStride w) + k * fmtWidth f)

/-- Record j of EXPAND = 2: scale code, zero point, reserved bits, poison (R74). -/
def Mach.mxRec (m : Mach) (u : Nat) (w : List Nat) (n : Nat) : Nat × Int × Nat × Bool :=
  let v := m.rdNum (pondKey u (mxX w + 8 * n)) 8
  (natBits v 31 0, sextNat 8 (natBits v 39 32), natBits v 63 40, m.anyMarked (pondKey u (mxX w + 8 * n)) 8)

/-- The N records of an EXPAND = 2 instruction as the pond holds them; none in another instruction. -/
def Mach.mxRecs (m : Mach) (u : Nat) (w : List Nat) : List (Nat × Int × Nat × Bool) :=
  if mxExpand w = 2 then (upTo (mxN w)).map (fun n => m.mxRec u w n) else []

/-- The record of a column among those that an instruction keeps from its dispatch (R74, R81). -/
def recAt (recs : List (Nat × Int × Nat × Bool)) (n : Nat) : Nat × Int × Nat × Bool := recs.getD n (0, 0, 0, false)

/-- Element (k, n) of B after expansion, with the records read when the instruction left the queue (R74). -/
def Mach.mxB (m : Mach) (u : Nat) (w : List Nat) (recs : List (Nat × Int × Nat × Bool)) (denorm : Bool) (k n : Nat) : MxElem :=
  let f := mxBFmt w
  let e := m.mxElem u f denorm (8 * (Machine.mxB w + k * mxBStride w) + n * fmtWidth f)
  if mxExpand w = 1 then
    let t := m.mxElem u 2 denorm (8 * mxX w + 16 * e.code)
    { t with bad := t.bad || e.bad }
  else if mxExpand w = 2 then
    let r := recAt recs n
    ⟨e.code, Num.ofInt (sextNat (fmtWidth f) e.code - r.2.1), 0, e.bad || r.2.2.2⟩
  else e

/-! ## Accumulation (R79, R96 to R99) -/

/-- What one index contributes. -/
inductive MxTerm where
  | num (v : Num)
  | int (i : Int)
deriving DecidableEq, Repr

def a40Flags : BitVec 8 := Flag.overflow ||| Flag.invalid

/-- Round a value to A40 (R96). -/
def a40 (v : Num) : Coded :=
  let e := encodeNum 12 .rne true false v
  ⟨e.code, e.flags &&& a40Flags⟩

def a40Val (code : Nat) : Num := decode 12 code

/-- x ⊕ y; an exact zero sum is +0 (R96). -/
def a40Add (acc : Nat) (v : Num) : Coded :=
  let s := Num.add (a40Val acc) v
  let e := a40 s.1
  ⟨if (a40Val e.code).isZero then 0 else e.code, (s.2 &&& a40Flags) ||| e.flags⟩

/-- A sum modulo 2^40; WRAPPED when the exact sum does not fit 40 bits of two's complement (R96, R66). DEDUCED, log 97. -/
def int40Add (acc : Nat) (i : Int) : Coded := packInt 40 (-549755813888) 549755813887 false (sextNat 40 acc + i)

/-- What an accumulator of a new tile holds (R79). -/
def mxInit (w : List Nat) : Nat :=
  if mxInt w then 0 else if mxMode w = 3 then 2 ^ 39 + overCode (layout 12) else if mxMode w = 4 then overCode (layout 12) else 0

/-- One step of the accumulator. -/
def mxStep (w : List Nat) (acc : Nat) (t : MxTerm) : Coded :=
  match t with
  | .int i => int40Add acc i
  | .num v =>
    if mxMode w = 3 then (let r := Num.max (a40Val acc) v; ⟨(a40 r.1).code, r.2 &&& a40Flags⟩)
    else if mxMode w = 4 then (let r := Num.min (a40Val acc) v; ⟨(a40 r.1).code, r.2 &&& a40Flags⟩)
    else a40Add acc v

/-- The integer of an integer code. -/
def mxIntVal (fmt code : Nat) : Int := if fmt = 10 then (code % 256 : Nat) else sextNat 8 code

/-- The term of a pair of operands, with the flags that it raises (R79, R96, R97). -/
def mxTerm (w : List Nat) (a b : MxElem) : MxTerm × BitVec 8 :=
  if mxInt w then
    let x := mxIntVal (mxAFmt w) a.code
    let y := mxIntVal (mxBFmt w) b.code
    (.int (if mxMode w = 0 then x * y else if mxMode w = 1 then (x - y).natAbs else if mxMode w = 2 then (x - y) * (x - y)
      else b2n (decide (a.code = b.code))), 0)
  else
    let rd := a.fl ||| b.fl
    if mxMode w = 0 then
      let p := Num.mul a.v b.v
      (.num p.1, rd ||| (p.2 &&& a40Flags))
    else
      let s := if mxMode w = 3 ∨ mxMode w = 4 then Num.add a.v b.v else Num.sub a.v b.v
      let t := if mxMode w = 1 then (s.1.abs, s.2) else if mxMode w = 2 then
        (let q := Num.mul s.1 s.1; (q.1, s.2 ||| q.2)) else s
      let e := a40 t.1
      (.num (a40Val e.code), rd ||| (t.2 &&& a40Flags) ||| e.flags)

/-- Round a magnitude to 11 significant bits by RNE (R99). -/
def round11 : Num → Num
  | .fin neg n d e =>
    if n = 0 then .fin neg 0 1 0
    else
      let q := floorLog2 n d e - 10
      .fin neg (roundAt .rne n d e q).1 1 q
  | v => v

/-- The exact sum of a group of float terms, rounded to 11 bits after each addition in a run (R98, R99); infinities of opposite
sign raise INVALID, and the roundings of a run no flag (R96, R99). -/
def groupSum (run : Bool) : List MxTerm → MxTerm × BitVec 8
  | [] => (.num (.fin false 0 1 0), 0)
  | t :: ts => ts.foldl (fun (x : MxTerm × BitVec 8) y =>
      match x.1, y with
      | .num a, .num b =>
        let s := Num.add a b
        (.num (if run then round11 s.1 else s.1), x.2 ||| (s.2 &&& a40Flags))
      | _, _ => x) (t, 0)

/-- Cut a list into groups of k. -/
def groupsOf {α : Type} (k : Nat) : Nat → List α → List (List α)
  | 0, _ => []
  | f + 1, l => if l.isEmpty then [] else l.take k :: groupsOf k f (l.drop k)

/-- The terms of a part as they meet the accumulator: singly, in exact pairs, or in runs (R98). A poisoned term is left
out. -/
def mxGrouped (w : List Nat) (ts : List (Option MxTerm)) : List (MxTerm × BitVec 8) :=
  let sums := fun (k : Nat) (run : Bool) =>
    ((groupsOf k ts.length ts).filter (fun g => g.any Option.isSome)).map (fun g => groupSum run (g.filterMap id))
  if mxPairs w then sums 2 false else if mxRunacc w then sums (mxRun w) true
  else (ts.filterMap id).map (fun t => (t, 0))

/-- A pending term in front of the terms of the next instruction (R84). -/
def halfTerm (h : Option (Option Num)) : List (Option MxTerm) :=
  match h with
  | none => []
  | some v => [v.map MxTerm.num]

/-- The terms of a part that meet the accumulator now, and the last one when it still waits for its partner: in FP4 × FP4 the
pairs run on from one instruction of a hold chain to the next (R84, R98). -/
def mxSplit (w : List Nat) (ts : List (Option MxTerm)) : List (Option MxTerm) × Option (Option Num) :=
  if mxPairs w ∧ ts.length % 2 = 1 then
    (ts.dropLast, ts.getLast?.map (fun t => t.bind (fun x => match x with | .num v => some v | .int _ => none)))
  else (ts, none)

/-- What one accumulator comes to: code and flags, whether a product was poisoned, and the term that waits for its partner. -/
structure MxAcc where
  sum : Coded
  bad : Bool
  half : Option (Option Num)
deriving DecidableEq, Repr

/-- One accumulator through K indices `ks`. -/
def mxAcc (w : List Nat) (A : Nat → Nat → MxElem) (B : Nat → Nat → MxElem) (ks : List Nat) (r n acc : Nat)
    (half : Option (Option Num)) : MxAcc :=
  let ts := ks.map (fun k => if (A r k).bad || (B k n).bad then none else some (mxTerm w (A r k) (B k n)))
  let fl := ts.foldl (fun f t => match t with | some t => f ||| t.2 | none => f) 0
  let sp := mxSplit w (halfTerm half ++ ts.map (fun t => t.map (·.1)))
  let c := (mxGrouped w sp.1).foldl
    (fun (c : Coded) t => let s := mxStep w c.code t.1; ⟨s.code, c.flags ||| t.2 ||| s.flags⟩) ⟨acc, fl⟩
  ⟨c, ts.any Option.isNone, sp.2⟩

/-- K indices that array a takes of [lo, hi) (R75, R101). -/
def mxPart (w : List Nat) (lo hi a : Nat) : List Nat :=
  let p := (hi - lo) / mxParts w
  (upTo p).map (fun i => lo + (a % mxParts w) * p + i)

/-! ## The checksum column (R86 to R89) -/

/-- Sum of values, exact. -/
def numSum (l : List Num) : Num := l.foldl (fun a b => (Num.add a b).1) (.fin false 0 1 0)

/-- C_r and U_r of a row through the indices `ks`, from where they stand. A subnormal wc[k] or wu[k] is kept, whatever the unit's
DENORM: R88 does not say whether R51 reaches these sums of the checker, and R89's bound for a row without a fault counts on their
values. DESIGN CHOICE, log 32. -/
def mxColumn (w : List Nat) (A : Nat → Nat → MxElem) (B : Nat → Nat → MxElem) (a : Nat) (ks : List Nat) (r : Nat)
    (cu : Nat × Nat) : Nat × Nat :=
  let ns := (mxCols w a).map (mxCol (mxShape w) a)
  ks.foldl (fun cu k =>
    if mxInt w then
      let wc := (ns.map (fun n => mxIntVal (mxBFmt w) (B k n).code)).foldl (fun x y => x + y) 0
      ((int40Add cu.1 (mxIntVal (mxAFmt w) (A r k).code * wc)).code, 0)
    else
      let wc := encodeNum 1 .rne true false (numSum (ns.map (fun n => (B k n).v)))
      let wu := encodeNum 1 .up true false (numSum (ns.map (fun n => (B k n).v.abs)))
      ((a40Add cu.1 (Num.mul (A r k).v (f32Val wc.code)).1).code,
       (a40Add cu.2 (Num.mul (A r k).v.abs (f32Val wu.code)).1).code)) cu

/-- S_r: the sum of a row's accumulators, j ascending. -/
def mxRowSum (w : List Nat) (accs : List Nat) : Nat :=
  accs.foldl (fun s x => if mxInt w then (int40Add s (sextNat 40 x)).code else (a40Add s (a40Val x)).code) 0

/-- Whether a row's check is skipped (R89). -/
def mxSkip (w : List Nat) (tol kt : Nat) (c u : Nat) (accs : List Nat) (poisoned : Bool) : Bool :=
  poisoned || (!mxInt w && (decide ((2 ^ (30 - tol) : Nat) - (96 : Int) < kt) ||
    ([c, u] ++ accs).any (fun x => !(a40Val x).finite)))

/-- Whether a row mismatches (R87, R88). -/
def mxMismatch (w : List Nat) (tol : Nat) (c u s : Nat) : Bool :=
  if mxInt w then decide (c ≠ s)
  else
    let t : Num := .fin false (2 ^ 10 + (if mxRunacc w then mxRun w * 2 ^ tol else 0)) 1 (-((tol : Int) + 10))
    Num.lt (Num.mul t (a40Val u)).1 (Num.sub (a40Val c) (a40Val s)).1.abs

/-! ## One pass of the arrays -/

/-- What a pass over a segment leaves: the tile, flags, rows that mismatch and how many checks were skipped. -/
structure MxPass where
  tile : Tile
  flags : BitVec 8
  mism : List (Nat × Nat)
  skipped : Nat
deriving DecidableEq, Repr

/-- A new tile (R79, R83). -/
def mxFresh (w : List Nat) (sA sB tol : Nat) : Tile :=
  { words := w, sA := sA, sB := sB, tag := mxTag w, tol := tol, kt := 0, acc := [], bad := [], cs := [], us := [], skip := [],
    half := [] }

def Tile.accAt (t : Tile) (k : Nat) : Nat := SMap.get t.acc (fun _ => mxInit t.words) k

def zeroNat (_ : Nat) : Nat := 0

/-- The products of the K indices [lo, hi) added to a tile. -/
def mxProducts (w : List Nat) (A : Nat → Nat → MxElem) (B : Nat → Nat → MxElem) (lo hi : Nat) (t : Tile) : Tile × BitVec 8 :=
  let rows := (upTo 4).flatMap (fun a => (upTo (mxM w)).map (fun r => (a, r)))
  let t1 : Tile × BitVec 8 := rows.foldl (fun (t : Tile × BitVec 8) ar =>
    let ks := mxPart w lo hi ar.1
    let rs := (mxCols w ar.1).map (fun j =>
      let k := accKey ar.1 ar.2 j
      (k, mxAcc w A B ks ar.2 (mxCol (mxShape w) ar.1 j) (t.1.accAt k) (SMap.find? t.1.half k)))
    let k := rowKey ar.1 ar.2
    let cu := if mxMode w = 0 then mxColumn w A B ar.1 ks ar.2 (SMap.get t.1.cs zeroNat k, SMap.get t.1.us zeroNat k)
      else (0, 0)
    let bads := (rs.filter (fun x => x.2.bad)).map (·.1)
    ({ t.1 with
        acc := rs.foldl (fun m x => SMap.set m (fun _ => mxInit w) x.1 x.2.sum.code) t.1.acc
        half := rs.foldl (fun m x => match x.2.half with | some h => SMap.insert m x.1 h | none => SMap.erase m x.1) t.1.half
        bad := t.1.bad ++ bads.filter (fun b => decide (b ∉ t.1.bad))
        cs := SMap.set t.1.cs zeroNat k cu.1
        us := SMap.set t.1.us zeroNat k cu.2
        skip := if bads.isEmpty then t.1.skip else t.1.skip ++ [k] },
     rs.foldl (fun f x => f ||| x.2.sum.flags) t.2)) (t, 0)
  ({ t1.1 with kt := t.kt + (hi - lo) / mxParts w }, t1.2)

/-- The terms that wait for a partner enter their accumulators alone, as the last of their part (R98), with the flags raised. -/
def Tile.closed (t : Tile) : Tile × BitVec 8 :=
  t.half.foldl (fun (r : Tile × BitVec 8) e =>
    match e.2 with
    | none => r
    | some v =>
      let s := mxStep t.words (r.1.accAt e.1) (.num v)
      ({ r.1 with acc := SMap.set r.1.acc (fun _ => mxInit t.words) e.1 s.code }, r.2 ||| s.flags)) ({ t with half := [] }, 0)

/-- What a defect leaves in a tile in segment s. -/
def mxUpset (ups : List Upset) (s : Nat) (t : Tile) : Tile :=
  ups.foldl (fun t u =>
    if u.seg ≠ s ∨ 4 ≤ u.arr ∨ mxM t.words ≤ u.row then t
    else if u.col = 64 then { t with cs := SMap.set t.cs zeroNat (rowKey u.arr u.row) (u.code % 2 ^ 40) }
    else if u.col ∈ mxCols t.words u.arr then
      { t with acc := SMap.set t.acc (fun _ => mxInit t.words) (accKey u.arr u.row u.col) (u.code % 2 ^ 40) }
    else t) t

/-- The check of a tile (R86 to R89): rows that mismatch, and how many were skipped. Only MAC is checked, and only arrays with an
active column take part. DEDUCED, log 32. -/
def Tile.check (t : Tile) (tol : Nat) : List (Nat × Nat) × Nat :=
  let w := t.words
  if mxMode w ≠ 0 then ([], 0)
  else
    ((upTo 4).flatMap (fun a => if (mxCols w a).isEmpty then [] else (upTo (mxM w)).map (fun r => (a, r)))).foldl
      (fun (acc : List (Nat × Nat) × Nat) ar =>
        let k := rowKey ar.1 ar.2
        let accs := (mxCols w ar.1).map (fun j => t.accAt (accKey ar.1 ar.2 j))
        let c := SMap.get t.cs zeroNat k
        let u := SMap.get t.us zeroNat k
        if mxSkip w tol t.kt c u accs (decide (k ∈ t.skip)) then (acc.1, acc.2 + 1)
        else if mxMismatch w tol c u (mxRowSum w accs) then (acc.1 ++ [ar], acc.2) else acc) ([], 0)

/-- The value of an output before scaling: the combination of the array parts (R75, R101), with its poison. -/
def Tile.value (t : Tile) (r n : Nat) : Coded × Bool :=
  let w := t.words
  let ks := (mxArrays w n).map (fun a => accKey a r (mxSub n))
  let xs := ks.map (fun k => t.accAt k)
  let comb := fun (x y : Coded) =>
    let s := if mxInt w then int40Add x.code (sextNat 40 y.code) else mxStep w x.code (.num (a40Val y.code))
    (⟨s.code, x.flags ||| y.flags ||| s.flags⟩ : Coded)
  let c := match xs with
    | [x] => (⟨x, 0⟩ : Coded)
    | [x, y] => comb ⟨x, 0⟩ ⟨y, 0⟩
    | [x, y, z, v] => comb (comb ⟨x, 0⟩ ⟨y, 0⟩) (comb ⟨z, 0⟩ ⟨v, 0⟩)
    | _ => ⟨0, 0⟩
  (c, ks.any (fun k => decide (k ∈ t.bad)))

/-- W_s: a segment value rounded to FP32 (R102). -/
def segRound (denorm : Bool) (c : Coded) : Coded :=
  let e := encodeNum 1 .rne denorm false (a40Val c.code)
  ⟨e.code, c.flags ||| e.flags⟩

/-- One node of the segment tree (R102). -/
def segAdd (w : List Nat) (denorm : Bool) (x y : Coded) : Coded :=
  if mxMode w = 3 ∨ mxMode w = 4 then
    let r := if mxMode w = 3 then Num.max (f32Val x.code) (f32Val y.code) else Num.min (f32Val x.code) (f32Val y.code)
    ⟨(encodeNum 1 .rne true false r.1).code, x.flags ||| y.flags ||| r.2⟩
  else
    let r := Num.add (f32Val x.code) (f32Val y.code)
    let e := encodeNum 1 .rne denorm false r.1
    ⟨e.code, x.flags ||| y.flags ||| r.2 ||| e.flags⟩

/-- Neighbours of a level combined. -/
def pairUp {α : Type} (f : α → α → α) : List α → List α
  | a :: b :: l => f a b :: pairUp f l
  | l => l

/-- The fixed tree over 2, 4 or 8 values. -/
def fixedTree {α : Type} (f : α → α → α) : Nat → List α → List α
  | 0, l => l
  | k + 1, l => fixedTree f k (pairUp f l)

/-- One execution of an instruction: the tile after it, the outputs before scaling with their poison, flags, mismatching
rows and skipped checks. -/
structure MxResult where
  tile : Tile
  outs : List (List (Num × Int × Bool))
  flags : BitVec 8
  mism : List (Nat × Nat)
  skipped : Nat
deriving DecidableEq, Repr

/-- The segments' values of one output as T (R102): as a value and, in integer modes, as an integer. -/
def mxCombine (w : List Nat) (denorm : Bool) (vs : List (Coded × Bool)) : (Num × Int × Bool) × BitVec 8 :=
  let bad := vs.any (·.2)
  if mxInt w then
    let c := (vs.map (·.1)).foldl (fun (x : Coded) y =>
      let s := int40Add x.code (sextNat 40 y.code); ⟨s.code, x.flags ||| y.flags ||| s.flags⟩) ⟨0, 0⟩
    ((Num.ofInt (sextNat 40 c.code), sextNat 40 c.code, bad), c.flags)
  else if mxKseg w = 0 then
    let c := (vs.map (·.1)).headD ⟨0, 0⟩
    ((a40Val c.code, 0, bad), c.flags)
  else
    let c := (fixedTree (segAdd w denorm) (mxKseg w) (vs.map (fun v => segRound denorm v.1))).headD ⟨0, 0⟩
    ((f32Val c.code, 0, bad), c.flags)

/-- Execute an instruction on operands A and B, from a tile. Each segment end is checked as a drain, so a row may mismatch at
several of them (R103). -/
def mxExec (w : List Nat) (A : Nat → Nat → MxElem) (B : Nat → Nat → MxElem) (denorm : Bool) (tol : Nat) (ups : List Upset)
    (t0 : Tile) : MxResult :=
  let g := 2 ^ mxKseg w
  let len := mxKAll w / g
  let segs := (upTo g).map (fun s =>
    let p := mxProducts w A B (s * len) ((s + 1) * len)
      (if mxKseg w = 0 then { t0 with tag := mxTag w, tol := tol } else mxFresh w t0.sA t0.sB tol)
    let q := if mxDrain w then p.1.closed else (p.1, 0)
    let t := mxUpset ups s q.1
    (t, p.2 ||| q.2, t.check tol))
  let last := match segs.getLast? with | some s => s.1 | none => t0
  let outs := (upTo (mxM w)).map (fun r => (upTo (mxN w)).map (fun n => 
    let vs := segs.map (fun s => s.1.value r n)
    let c := mxCombine w denorm vs
    (c.1, c.2)))
  { tile := last
    outs := outs.map (fun l => l.map (·.1))
    flags := (segs.foldl (fun f s => f ||| s.2.1) 0) |||
      (if mxDrain w then outs.foldl (fun f l => l.foldl (fun f x => f ||| x.2) f) 0 else 0)
    mism := if mxDrain w then segs.flatMap (fun s => s.2.2.1) else []
    skipped := if mxDrain w then (segs.map (fun s => s.2.2.2)).sum else 0 }

/-! ## The drain (R62, R80, R102, R222) -/

/-- The product of the scales, without sOut (R80). -/
def mxGain (w : List Nat) (r : MxRun) (sj : Nat) : Num :=
  let a := f32Val r.sA
  let b := f32Val (if mxExpand w = 2 then sj else r.sB)
  let g := if mxMode w = 0 then (Num.mul a b).1 else if mxMode w = 2 then (Num.mul a a).1 else a
  match r.lr with
  | some lr => (Num.mul g (f32Val lr)).1
  | none => g

/-- The rounding of output (r, n): RNE, or SR with USE 0x1 (R109, R110). -/
def mxRndOf (w : List Nat) (it : MxItem) (r n : Nat) : Rnd :=
  if mxRnd w then .sr (springR it.seed (springStream 1 (mxSOut w) it.step) (mxTag w * 16384 + r * 256 + n)) else .rne

/-- One drained output: what the slot is presented with, the code and the flags. -/
def mxDrainOne (w : List Nat) (run : MxRun) (sj r n : Nat) (v : Num × Int × Bool) : Num × Coded :=
  if mxInt w then
    let rg := intRange (mxOFmt w)
    (v.1, packInt (fmtWidth (mxOFmt w)) rg.1 rg.2 (mxSat w) v.2.1)
  else
    let x := Num.mul v.1 (mxGain w run sj)
    let q := (Num.div x.1 (f32Val run.sOut)).1
    let md := mxRndOf w run.item r n
    if mxOFmt w = 1 then (let y := encodeNum 1 md run.denorm false q; (x.1, ⟨y.code, x.2 ||| y.flags⟩))
    else
      let y := encodeNum 1 .rne run.denorm false q
      let o := encodeNum (mxOFmt w) md run.denorm (mxSat w) (f32Val y.code)
      ((Num.mul (f32Val y.code) (f32Val run.sOut)).1, ⟨o.code, x.2 ||| y.flags ||| o.flags⟩)

end Sys2Proof.Machine
end

