-- ==== Sys2Proof/Machine/VecFile.lean ====
section
/-! DEFINITION. The vector register file: lanes, predicates and marks (R126, R134), ownership and the moves of vector state
(R119), power-down and wake (R135), and how a vector instruction comes to be executed. -/

namespace Sys2Proof.Machine

/-! ## Lanes (R126, R134) -/

def Mach.vreg (m : Mach) (u v : Nat) : BitVec 2048 := SMap.get m.core.vregs (fun _ => 0) (u * 32 + v)

def Mach.vmark (m : Mach) (u v : Nat) : BitVec 512 := SMap.get m.core.vmarks (fun _ => 0) (u * 32 + v)

def Mach.pred (m : Mach) (u p : Nat) : BitVec 256 := SMap.get m.core.preds (fun _ => 0) (u * 8 + p)

/-- Write a register and its marks. -/
def Mach.setVreg (m : Mach) (u v : Nat) (r : BitVec 2048) (k : BitVec 512) : Mach :=
  { m with core := { m.core with vregs := SMap.set m.core.vregs (fun _ => 0) (u * 32 + v) r
                                 vmarks := SMap.set m.core.vmarks (fun _ => 0) (u * 32 + v) k } }

/-- Write a predicate; p0 ignores writes (R126). -/
def Mach.setPred (m : Mach) (u p : Nat) (b : BitVec 256) : Mach :=
  if p = 0 then m else { m with core := { m.core with preds := SMap.set m.core.preds (fun _ => 0) (u * 8 + p) b } }

/-- Replace n bits from bit lo. -/
def putBits {k : Nat} (r : BitVec k) (lo n v : Nat) : BitVec k :=
  (r &&& ~~~(BitVec.ofNat k ((2 ^ n - 1) <<< lo))) ||| BitVec.ofNat k ((v % 2 ^ n) <<< lo)

/-- Lane i of width w. -/
def laneOf (r : BitVec 2048) (w i : Nat) : Nat := (r.toNat >>> (w * i)) % 2 ^ w

/-- The mark of lane i of width w. -/
def laneMark (k : BitVec 512) (w i : Nat) : Bool := decide ((k.toNat >>> (w * i / 4)) % 2 ^ (w / 4) ≠ 0)

/-- A lane to write: number, code, mark. -/
structure Lane where
  i : Nat
  code : Nat
  bad : Bool
deriving DecidableEq, Repr

/-- Write lanes of width w of a register. -/
def Mach.putLanes (m : Mach) (u v w : Nat) (ls : List Lane) : Mach :=
  let rk := ls.foldl (fun (rk : BitVec 2048 × BitVec 512) l =>
    (putBits rk.1 (w * l.i) w l.code, putBits rk.2 (w * l.i / 4) (w / 4) (if l.bad then 2 ^ (w / 4) - 1 else 0)))
    (m.vreg u v, m.vmark u v)
  m.setVreg u v rk.1 rk.2

/-- VLMAX(FMT), R126. -/
def vlMax (u fmt : Nat) : Nat := vlen u / fmtWidth fmt

/-- Lanes 0 to min(VL, VLMAX) − 1. -/
def Mach.activeLanes (m : Mach) (u c fmt : Nat) : Nat := min (m.ctx u c).vl (vlMax u fmt)

/-- The predicate bit that governs lane i: pairs share a bit where there are more lanes than bits (R126). -/
def predIndex (paired : Bool) (i : Nat) : Nat := if paired then i / 2 else i

/-- The format has twice as many lanes as the predicates have bits. -/
def fmtPaired (fmt : Nat) : Bool := decide (fmtWidth fmt = 4)

/-- Bit i of predicate pm; p0 reads as all ones. -/
def predBit (pm : Nat) (p : BitVec 256) (i : Nat) : Bool := decide (pm = 0) || p.toNat.testBit i

/-- The active lanes that predicate pm enables. -/
def Mach.enabled (m : Mach) (u c fmt : Nat) (pm : Nat) : List Nat :=
  (upTo (m.activeLanes u c fmt)).filter (fun i => predBit pm (m.pred u pm) (predIndex (fmtPaired fmt) i))

/-! ## Ownership and moves of vector state (R119, R138) -/

/-- CELL.VSAVE[c] in force: its address when it is valid. -/
def Mach.vsave (m : Mach) (u c : Nat) : Option Nat :=
  if m.act (unitPage u) Reg.CELL.VSAVE_VALID c = 1 then
    some (m.act (unitPage u) (if isSolver u then Reg.SOLV.VSAVE_ADDR else Reg.CELL.VSAVE_ADDR) c)
  else none

/-- Bytes of a register and of a predicate. -/
def vregBytes (u : Nat) : Nat := vlen u / 8
def predBytes (u : Nat) : Nat := vlen u / 64

/-- Write the vector state of the owner as an image: v0 to v31, then p0 to p7. A marked part poisons its words. -/
def Mach.saveImage (m : Mach) (u a : Nat) : Mach :=
  let nb := vregBytes u
  let m1 := (upTo 32).foldl (fun m v =>
    (upTo (nb / 8)).foldl (fun m k =>
      m.wrNum (pondKey u (a + nb * v + 8 * k)) 8 (laneOf (m.vreg u v) 64 k) (laneMark (m.vmark u v) 64 k)) m) m
  (upTo 8).foldl (fun m p =>
    m.wrNum (pondKey u (a + nb * 32 + predBytes u * p)) (predBytes u)
      (if p = 0 then 2 ^ (8 * predBytes u) - 1 else (m.pred u p).toNat)) m1

/-- Take the vector state from an image. -/
def Mach.restoreImage (m : Mach) (u a : Nat) : Mach :=
  let nb := vregBytes u
  let m1 := (upTo 32).foldl (fun m v =>
    m.setVreg u v (BitVec.ofNat 2048 (m.rdNum (pondKey u (a + nb * v)) nb))
      ((upTo (nb / 8)).foldl (fun k i =>
        putBits k (16 * i) 16 (if m.marked (pondKey u (a + nb * v + 8 * i)) then 2 ^ 16 - 1 else 0)) 0)) m
  (upTo 8).foldl (fun m p =>
    m.setPred u p (BitVec.ofNat 256 (m.rdNum (pondKey u (a + nb * 32 + predBytes u * p)) (predBytes u)))) m1

/-- Clear the vector state to zero. -/
def Mach.clearVector (m : Mach) (u : Nat) : Mach :=
  let m1 := (upTo 32).foldl (fun m v => m.setVreg u v 0 0) m
  (upTo 8).foldl (fun m p => m.setPred u p 0) m1

/-- The predicate pm of context c, wherever it stands: in the unit, in the context's image, or cleared. -/
def Mach.predOf (m : Mach) (u c pm : Nat) : BitVec 256 :=
  if (m.unit u).vOwner = some c then m.pred u pm
  else match SMap.find? (m.unit u).vImage c with
    | some a => BitVec.ofNat 256 (m.rdNum (pondKey u (a + vregBytes u * 32 + predBytes u * pm)) (predBytes u))
    | none => 0

/-- Save the owner's state to the slot in force; into an invalid slot it is discarded (R119). -/
def Mach.saveOwner (m : Mach) (u : Nat) : Mach :=
  match (m.unit u).vOwner with
  | none => m
  | some d =>
    match m.vsave u d with
    | some a =>
      let m1 := ((m.saveImage u a).bump (unitPage u) Reg.CELL.VSTATE_MOVES).spend (unitPage u) Reg.CELL.VSTATE_CYC 66
      m1.setUnit u { m1.unit u with vImage := SMap.insert (m1.unit u).vImage d a, vOwner := none }
    | none => m.setUnit u { m.unit u with vImage := SMap.erase (m.unit u).vImage d, vOwner := none }

/-- Give a context its state back, or clear the file; the context becomes the owner (R119). -/
def Mach.restoreIssuer (m : Mach) (u c : Nat) : Mach :=
  let m1 := match SMap.find? (m.unit u).vImage c, m.vsave u c with
    | some a, some _ => ((m.restoreImage u a).bump (unitPage u) Reg.CELL.VSTATE_MOVES).spend (unitPage u) Reg.CELL.VSTATE_CYC 66
    | _, _ => m.clearVector u
  m1.setUnit u { m1.unit u with vOwner := some c }

/-- R119. The move for the waiting issuer ends. -/
def Mach.vstateMoveDone (m : Mach) (u : Nat) : Mach :=
  match (m.unit u).vMove with
  | none => m
  | some c =>
    let m1 := (m.saveOwner u).restoreIssuer u c
    (m1.setUnit u { m1.unit u with vMove := none }).wakeIf u (fun w => decide (w = .vecMove))

/-- R119. -/
def execVstateMoveDone (u : UnitId) (s : State) : Host.Outcome State Fault Refusal :=
  s.run true (fun m => m.vstateMoveDone u.val)

/-! ## Power (R135) -/

/-- R135. VIDLE cycles of 0.4 ns have passed without a vector instruction, and none is in flight; one that waits for the move of
vector state has been issued. -/
def Mach.vectorIdle (m : Mach) (u : Nat) : Mach :=
  let x := m.unit u
  let n := m.act (unitPage u) Reg.CELL.VCTL_VIDLE
  if n ≠ 0 ∧ x.inFlight.isEmpty ∧ x.vMove.isNone ∧ !x.vDown ∧ 2 * n ≤ 5 * (m.ticks - x.vLast) then
    m.setUnit u { x with vDown := true, vPend := false }
  else m

/-- R135. -/
def execVectorIdlePowerDown (u : UnitId) (s : State) : Host.Outcome State Fault Refusal :=
  s.run true (fun m => m.vectorIdle u.val)

/-- R135. The wake ends and the descheduled issuers continue. -/
def Mach.vectorWake (m : Mach) (u : Nat) : Mach :=
  match (m.unit u).vWake with
  | none => m
  | some _ =>
    (((m.setUnit u { m.unit u with vDown := false, vWake := none, vLast := m.ticks }).bump (unitPage u)
      Reg.CELL.VEC_WAKES).spend (unitPage u) Reg.CELL.VEC_WAKE_CYC 200).wakeIf u (fun w => decide (w = .vecWake))

/-- R135. -/
def execVectorWakeDone (u : UnitId) (s : State) : Host.Outcome State Fault Refusal :=
  s.run true (fun m => m.vectorWake u.val)

/-! ## Issue of a vector instruction -/

/-- Execute a vector instruction (R119, R121, R135): faults in the order of their codes, `early` those below 0x04 and
`late` those above; a reserved format is refused without a fault (R42); a powered-down unit wakes first; then the
context must own the file. The instruction occupies the unit for `busy` cycles (R133). While a VPDN still waits for a
reduction, the unit is awake and the instruction executes at once. DEDUCED, log 95. -/
def Mach.vecIssue (m : Mach) (u c : Nat) (early late : Option Nat) (reserved : Bool) (busy : Nat) (body : Mach → Mach) : Mach :=
  match early with
  | some code => m.fault u c code
  | none =>
    if (m.vsave u c).isNone then m.fault u c 0x04
    else match late with
      | some code => m.fault u c code
      | none =>
        if reserved then (m.raise (unitPage u) 20).advance u c
        else
          let x := m.unit u
          if x.vDown then
            let w := match x.vWake with | some d => d | none => c
            (m.setUnit u { x with vWake := some w }).sleep u c .vecWake
          else if x.vMove.isSome then (m.setUnit u { x with vLast := m.ticks }).sleep u c .vecMove
          else if x.vOwner = some c then body ((m.setUnit u { x with vLast := m.ticks }).bump (unitPage u) Reg.CELL.VEC_BUSY_CYC busy)
          else (m.setUnit u { x with vMove := some c, vLast := m.ticks }).sleep u c .vecMove

/-- The injected uncorrectable error of a vector register: the first lane that the instruction reads of register v is delivered
marked, and what is stored stays, unless the instruction writes the register itself (R134, R412, R414). -/
def Mach.rfDelivered (m : Mach) (u v w : Nat) (written : Bool) (body : Mach → Mach) : Mach :=
  let r := m.takeDetector u 31 0x04 0 .hard false
  if !r.1 then body m
  else
    let k := m.vmark u v
    let m1 := body (r.2.setVreg u v (r.2.vreg u v) (putBits k 0 (w / 4) (2 ^ (w / 4) - 1)))
    if written then m1 else m1.setVreg u v (m1.vreg u v) k

/-- ILLEGAL when a condition fails. -/
def illegalUnless (ok : Bool) : Option Nat := if ok then none else some 0x01

/-- A reserved format code (R41). -/
def fmtReserved (f : Nat) : Bool := decide (13 ≤ f)

/-- FP64 is available only in solver cells (R127, R139). -/
def fmtHere (u f : Nat) : Bool := decide (f ≠ 0) || isSolver u

/-- Formats of vector arithmetic, R127, R139. -/
def fmtArith (u f : Nat) : Bool :=
  decide (f = 1 ∨ f = 2 ∨ f = 3 ∨ f = 8 ∨ f = 10 ∨ f = 11) || (decide (f = 0) && isSolver u)

/-- Formats of complex arithmetic, R129, R139. -/
def fmtComplex (u f : Nat) : Bool := decide (f = 1 ∨ f = 3) || (decide (f = 0) && isSolver u)

/-- Formats of conversions, reductions and configuration, R127, R139. -/
def fmtData (u f : Nat) : Bool := decide (1 ≤ f ∧ f ≤ 11) || (decide (f = 0) && isSolver u)

/-- Formats of vector memory, R127, R139. -/
def fmtMem (u f : Nat) : Bool := decide (1 ≤ f ∧ f ≤ 12) || (decide (f = 0) && isSolver u)

/-- NUMCTL.DENORM of a unit (R51, R137). -/
def Mach.denorm (m : Mach) (u : Nat) : Bool := decide (m.live (unitPage u) Reg.CELL.DENORM = 1)

/-- SRCTL.STEP of a unit in force (R113). -/
def Mach.srStep (m : Mach) (u : Nat) : Nat := m.act (unitPage u) Reg.CELL.SRCTL_STEP

end Sys2Proof.Machine
end

