-- ==== Sys2Proof/Machine/Matrix.lean ====
section
/-! DEFINITION. The matrix queue: MX.RUN with its entry checks (R72 to R83, R103, R104, R113), MX.WAIT and MX.POLL (R72,
R93), dispatch with tile saves and restores (R82, R90, R112), and completion with the checksum's retry (R91, R92). -/

namespace Sys2Proof.Machine

/-! ## Counts of a context -/

def Mach.setIssuedMx (m : Mach) (u c : Nat) (x : Issued) : Mach := m.setCtx u c { m.ctx u c with mx := x }

/-- An instruction of a context completes: its TAG is the latest; a wait for the last one ends (R93). -/
def Mach.mxRetire (m : Mach) (u c tag : Nat) (queued refused poisoned : Bool) : Mach :=
  let x := (m.ctx u c).mx
  let y : Issued := { x with out := if queued then x.out - 1 else x.out, tag := tag, refused := x.refused || refused,
                             poisoned := x.poisoned || poisoned }
  let m1 := (m.setIssuedMx u c y).bump (unitPage u) Reg.CELL.MX_INSTR
  if y.out = 0 ∧ (m1.ctx u c).state = .waiting ∧ (m1.ctx u c).wait = .mxWait then m1.wake u c else m1

/-- A refusal (R81): the code is recorded with MX_REFUSED; code 0 is one reported by another event. -/
def Mach.mxRefuse (m : Mach) (u c code tag : Nat) (queued : Bool) : Mach :=
  let p := unitPage u
  let m1 := if code = 0 then m
    else ((m.setLive p Reg.CELL.MX_LAST_REFUSE_CODE code).setLive p Reg.CELL.MX_LAST_REFUSE_TAG tag).raise p 17
  m1.mxRetire u c tag queued true false

/-! ## Entry checks (R77, R81, R83) -/

def mxShort (f : Nat) : Bool := decide (f = 4 ∨ f = 5 ∨ f = 6)
def mxHalf (f : Nat) : Bool := decide (f = 2 ∨ f = 3)

/-- The combinations of R77 for a MODE and an EXPAND code that are not reserved. -/
def mxPairAt (w : List Nat) (mode ex : Nat) : Bool :=
  let a := mxAFmt w
  let b := mxBFmt w
  let o := mxOFmt w
  let run := mxRunacc w
  let floatOut := decide (1 ≤ o ∧ o ≤ 7)
  if a = 8 ∨ a = 10 then
    decide (b = 8 ∨ b = 10) && decide (ex = 0) && !run && decide (mode = 0 ∨ mode = 1 ∨ mode = 2 ∨ mode = 5) &&
      (decide (o = 11) || (decide (o = 8) && decide (mode ≠ 5)))
  else if ex = 1 ∨ ex = 2 then
    decide (2 ≤ a ∧ a ≤ 7) && decide (b = 8 ∨ b = 9) && decide (mode = 0) && !run && floatOut
  else
    decide (ex = 0) && floatOut &&
    ((mxShort a && mxShort b && (if run then decide (mode = 0) else decide (mode ≤ 4))) ||
     (!run && mxHalf a && mxHalf b && decide (mode ≤ 4)) ||
     (!run && decide (mode = 0) &&
       ((decide (a = 7) && (decide (b = 7) || mxShort b)) || (mxShort a && decide (b = 7)) ||
        (mxHalf a && (mxShort b || decide (b = 7))) || ((mxShort a || decide (a = 7)) && mxHalf b))))

/-- The combination is one of R77. A reserved MODE or EXPAND code is named by code 0x08, so beside it PAIR fails only by the rest of the
combination: where no MODE, or no EXPAND other than 0, would make it one of R77. DEDUCED, log 31. -/
def mxPairOk (w : List Nat) : Bool :=
  (if 5 < mxMode w then upTo 6 else [mxMode w]).any (fun mode =>
    (if mxExpand w = 3 then [1, 2] else [mxExpand w]).any (fun ex => mxPairAt w mode ex))

/-- Widest N of a shape (R75). -/
def mxNMax (w : List Nat) : Nat := if mxShape w = 1 then 128 else if mxShape w = 2 then 64 else 256

/-- What a held tile is known by at queue entry: the descriptor that starts it and its scales (R83). -/
structure MxHold where
  words : List Nat
  sA : Nat
  sB : Nat
deriving DecidableEq, Repr

/-- The fields of R83 that a continuation must match. -/
def mxSame (w v : List Nat) : Bool :=
  decide (mxShape w = mxShape v ∧ mxMode w = mxMode v ∧ mxAFmt w = mxAFmt v ∧ mxBFmt w = mxBFmt v ∧
    mxExpand w = mxExpand v ∧ mxRunacc w = mxRunacc v ∧ mxRunlen w = mxRunlen v ∧ mxKseg w = mxKseg v ∧ mxM w = mxM v ∧
    mxN w = mxN v)

/-- A continuation matches a tile: the fields, and in float modes the scales that it uses. -/
def mxMatches (w : List Nat) (h : MxHold) (sA sB : Nat) : Bool :=
  mxSame w h.words && (mxInt w || (decide (sA = h.sA) && (decide (mxExpand w = 2) || decide (sB = h.sB))))

/-- The tile after one more instruction of its context. -/
def mxThen (h : Option MxHold) (w : List Nat) (sA sB : Nat) : Option MxHold :=
  if mxDrain w then none else if mxAccIn w then h else some ⟨w, sA, sB⟩

/-- Scales of the slots SA and SB as they stand. -/
def Mach.mxScales (m : Mach) (w : List Nat) : Nat × Nat := ((m.slot (mxSA w)).scale, (m.slot (mxSB w)).scale)

/-- The tile that a context will hold when its queued instructions have run (R81, R82). -/
def Mach.mxHolding (m : Mach) (u c : Nat) : Option MxHold :=
  let x := m.mxOf u
  let h0 := match SMap.find? x.tiles c with
    | some (some t) => some (⟨t.words, t.sA, t.sB⟩ : MxHold)
    | _ => none
  let h1 := match x.running with
    | some r => if r.item.ctx = c then mxThen h0 r.item.words r.sA r.sB else h0
    | none => h0
  (x.queue.filter (fun i => decide (i.ctx = c))).foldl
    (fun h i => mxThen h i.words (m.mxScales i.words).1 (m.mxScales i.words).2) h1

/-- The alignments of code 0x07: every address of the operands that the instruction reads or writes, so each base, and each stride
that leads to a second row. -/
def mxAligned (w : List Nat) : Bool :=
  let ok := fun (f a : Nat) => decide (fmtWidth f < 8 ∨ a % (fmtWidth f / 8) = 0)
  let by' := fun (n f a : Nat) => decide (n ≤ 1) || ok f a
  let conv := decide (mxShape w = 3)
  (decide (mxKAll w = 0) || (ok (mxAFmt w) (mxA w) && by' (if conv then mxM w + mxKW w - 1 else mxM w) (mxAFmt w) (mxAStride w) &&
    (!conv || by' (mxKH w) (mxAFmt w) (mxARow w)) && ok (mxBFmt w) (mxB w) && by' (mxKAll w) (mxBFmt w) (mxBStride w))) &&
  (decide (mxExpand w ≠ 1 ∨ mxKAll w = 0) || decide (mxX w % 2 = 0)) && (decide (mxExpand w ≠ 2) || decide (mxX w % 8 = 0)) &&
  (!mxDrain w || (ok (mxOFmt w) (mxO w) && by' (mxM w) (mxOFmt w) (mxOStride w)))

/-- Reserved bits of the descriptor (R74). -/
def mxReserved (w : List Nat) : Bool :=
  decide (wfld w 0 31 28 ≠ 0 ∨ wfld w 0 63 48 ≠ 0 ∨ wfld w 1 63 40 ≠ 0 ∨ wfld w 2 63 48 ≠ 0 ∨ wfld w 3 63 44 ≠ 0 ∨
    wfld w 4 63 44 ≠ 0 ∨ wfld w 5 63 44 ≠ 0 ∨ wfld w 6 63 44 ≠ 0 ∨ wordAt w 7 ≠ 0)

/-- The first failing code of R81 in table order; 0 when none. `slotOk` is the VALID bit of the save slot. -/
def mxCode (w : List Nat) (h : Option MxHold) (sA sB : Nat) (slotOk : Bool) : Nat :=
  let conv := decide (mxShape w = 3)
  if mxM w = 0 ∨ 64 < mxM w ∨ mxN w = 0 ∨ mxNMax w < mxN w ∨
      (conv ∧ (mxKH w = 0 ∨ mxKW w = 0 ∨ 2048 < mxK w * fmtWidth (mxAFmt w))) ∨ (!conv ∧ (mxKH w ≠ 0 ∨ mxKW w ≠ 0)) ∨
      (mxK w = 0 ∧ !(mxAccIn w && mxDrain w)) then 0x01
  else if !mxPairOk w then 0x02
  else if mxK w % (mxParts w * 2 ^ mxKseg w) ≠ 0 ∨ (conv ∧ mxKseg w ≠ 0) ∨ (mxKseg w ≠ 0 ∧ !mxDrain w) ∨
      (mxRunacc w ∧ !mxDrain w ∧ mxRunlen w ≠ 3 ∧ mxKg w % mxRun w ≠ 0) then 0x03
  else if mxAccIn w ∧ h.isNone then 0x04
  else if mxAccIn w ∧ !(match h with | some t => mxMatches w t sA sB | none => true) then 0x05
  else if !mxInt w ∧ 1 ≤ mxMode w ∧ mxMode w ≤ 4 ∧ sA ≠ sB then 0x06
  else if 0x400000 < (mxRangeA w).1 + (mxRangeA w).2 ∨ 0x400000 < (mxRangeB w).1 + (mxRangeB w).2 ∨
      0x400000 < (mxRangeO w).1 + (mxRangeO w).2 ∨ 0x400000 < (mxRangeX w).1 + (mxRangeX w).2 ∨ !mxAligned w ∨
      (!mxDrain w ∧ !slotOk) then 0x07
  else if mxReserved w ∨ 5 < mxMode w ∨ mxExpand w = 3 ∨ (mxRunacc w ∧ mxRunlen w = 3) then 0x08
  else 0

/-- The scale slots that a float instruction uses hold valid scales (R63, R81). -/
def Mach.mxScalesOk (m : Mach) (w : List Nat) : Bool :=
  mxInt w || (scaleOk (m.slot (mxSA w)).scale && (decide (mxExpand w = 2) || scaleOk (m.slot (mxSB w)).scale) &&
    (!mxDrain w || scaleOk (m.slot (mxSOut w)).scale))

/-- The save slot that serves a context's tile: the one in force for the tile that it holds, else ACCSAVE in force (R113). -/
def Mach.mxSlot (m : Mach) (u c : Nat) : Nat × Bool :=
  match SMap.find? (m.mxOf u).slots c with
  | some a => (a, true)
  | none => (m.act (unitPage u) Reg.CELL.ACCSAVE_ADDR c, decide (m.act (unitPage u) Reg.CELL.ACCSAVE_VALID c = 1))

/-- The instruction enters the queue or is refused (R81). -/
def Mach.mxEnter (m : Mach) (u c : Nat) (w : List Nat) : Mach :=
  let p := unitPage u
  if fmtReserved (mxAFmt w) || fmtReserved (mxBFmt w) || fmtReserved (mxOFmt w) then
    (m.raise p 20).mxRefuse u c 0 (mxTag w) false
  else if !m.mxScalesOk w then (m.raise p 21).mxRefuse u c 0 (mxTag w) false
  else
    let slot := m.mxSlot u c
    let code := mxCode w (m.mxHolding u c) (m.mxScales w).1 (m.mxScales w).2 slot.2
    if code ≠ 0 then m.mxRefuse u c code (mxTag w) false
    else
      let x := m.mxOf u
      let it : MxItem := { ctx := c, words := w, slot := m.act p Reg.CELL.ACCSAVE_ADDR c, seed := m.seed, step := m.srStep u,
                           tol := m.act p Reg.CELL.MXCTL_CHKTOL, retry := decide (m.act p Reg.CELL.MXCTL_CHKRETRY = 1),
                           first := x.queue.isEmpty && x.running.isNone }
      let i := (m.ctx u c).mx
      (m.setMx u { x with queue := x.queue ++ [it] }).setIssuedMx u c { i with out := i.out + 1 }

/-- MX.RUN (R73): illegal in a solver cell; a full queue is waited for. -/
def Mach.mxIssue (m : Mach) (u c : Nat) (ga : RegNo) (imm : BitVec 13) : Mach :=
  if isSolver u then m.fault u c 0x01
  else m.withDesc u c (descAddr (m.g u c ga) imm) 64 64 (fun w =>
      if 8 ≤ (m.mxOf u).queue.length then m.sleep u c .mxQueue else (m.mxEnter u c w).advance u c)

/-- R73. MX.RUN. -/
def execMxRun (u : UnitId) (c : CtxId) (_gd ga : RegNo) (imm : BitVec 13) (s : State) : Host.Outcome State Fault Refusal :=
  s.issue u c (fun m => m.mxIssue u.val c.val ga imm)

/-- The result word of MX.WAIT, SV.WAIT and CO.WAIT in their common part (R93, R147, R359). -/
def Issued.word (x : Issued) : Word := w64 (x.tag % 2 ^ 16 + 2 ^ 16 * b2n x.refused + 2 ^ 17 * b2n x.poisoned)

/-- MX.WAIT (R93). -/
def Mach.mxWait (m : Mach) (u c : Nat) (gd : RegNo) : Mach :=
  if isSolver u then m.fault u c 0x01
  else
    let x := (m.ctx u c).mx
    if x.out ≠ 0 then m.sleep u c .mxWait
    else (m.setIssuedMx u c { x with refused := false, poisoned := false }).writeBack u c gd x.word

/-- R93. MX.WAIT. -/
def execMxWait (u : UnitId) (c : CtxId) (gd _ga : RegNo) (_imm : BitVec 13) (s : State) : Host.Outcome State Fault Refusal :=
  s.issue u c (fun m => m.mxWait u.val c.val gd)

/-- MX.POLL (R72). -/
def Mach.mxPoll (m : Mach) (u c : Nat) (gd : RegNo) : Mach :=
  if isSolver u then m.fault u c 0x01 else m.writeBack u c gd (w64 (m.ctx u c).mx.out)

/-- R72. MX.POLL. -/
def execMxPoll (u : UnitId) (c : CtxId) (gd _ga : RegNo) (_imm : BitVec 13) (s : State) : Host.Outcome State Fault Refusal :=
  s.issue u c (fun m => m.mxPoll u.val c.val gd)

/-! ## Tiles (R82, R90, R112) -/

/-- Active accumulators of a tile. -/
def Tile.active (t : Tile) : List Nat :=
  (upTo 4).flatMap (fun a => (upTo (mxM t.words)).flatMap (fun r => (mxCols t.words a).map (fun j => accKey a r j)))

/-- Report rows that mismatch (R91): counters, the latest row, ARRAY_CHK, and one fault record for each array. -/
def Mach.mxMismatch (m : Mach) (u tag : Nat) (rows : List (Nat × Nat)) (retried poisoned injected : Bool)
    (cls : FaultClass) : Mach :=
  match rows.getLast? with
  | none => m
  | some (a, r) =>
    let p := unitPage u
    let m1 := (((((m.bump p Reg.CELL.MX_CHK_FAIL rows.length).setLive p Reg.CELL.MX_LAST_CHK_ROW r).setLive p
      Reg.CELL.MX_LAST_CHK_ARRAY a).setLive p Reg.CELL.MX_LAST_CHK_TAG tag).setLive p Reg.CELL.MX_LAST_CHK_RETRIED
      (b2n retried)).setLive p Reg.CELL.MX_LAST_CHK_POISONED (b2n poisoned)
    (((rows.map (·.1)).eraseDups).foldl (fun m a => m.report412 p 0x07 a cls injected false) (m1.raise p 16))

/-- Save the resident tile to its slot: 5 bytes an accumulator, checked as a drain would be; a row that mismatches is written
poisoned (R90, R112). Which accumulators hold a poisoned product is run state, and stays in the cell with the terms that wait for a
partner (R92, R112). The check names the TAG, and takes the CHKTOL, of the instruction that worked on the tile last. DEDUCED, log
97. -/
def Mach.saveTile (m : Mach) (u c : Nat) (t : Tile) : Mach :=
  let x := m.mxOf u
  let a := (SMap.find? x.slots c).getD 0
  let ck := t.closed.1.check t.tol
  let es := (upTo 16384).map (fun i =>
    (⟨8 * a + 40 * i, 40, t.accAt i, ck.1.any (fun ar => decide (rowKey ar.1 ar.2 = i / 64))⟩ : ElemWrite))
  let m1 := (m.setMx u { x with tiles := SMap.set x.tiles (fun _ => none) c (some { t with acc := [] }),
                                resident := none }).putElems (pondKey u 0) es
  let m2 := (m1.mxMismatch u t.tag ck.1 false true false .hard).bump (unitPage u) Reg.CELL.MX_CHK_SKIPPED ck.2
  (m2.bump (unitPage u) Reg.CELL.ACC_SAVES).spend (unitPage u) Reg.CELL.ACC_SAVE_CYC 320

/-- Restore a tile from its slot: C_r and U_r are re-seeded from the accumulators, with the terms that wait for a partner, and K_t
restarts (R90). -/
def Mach.restoreTile (m : Mach) (u c : Nat) (t : Tile) : Mach :=
  let x := m.mxOf u
  let a := (SMap.find? x.slots c).getD 0
  let base := pondKey u a
  let ks := t.active
  let acc := ks.foldl (fun s k => SMap.set s (fun _ => mxInit t.words) k (m.elemAt base 40 k)) []
  let bad := ks.filter (fun k => decide (k ∈ t.bad) || m.elemBad base 40 k)
  let t1 : Tile := { t with acc := acc, bad := bad, kt := 0, cs := [], us := [],
                            skip := (bad.map (fun k => k / 64)).eraseDups }
  let full := t1.closed.1
  let rows := (upTo 4).flatMap (fun a => (upTo (mxM t.words)).map (fun r => (a, r)))
  let t2 := rows.foldl (fun (t : Tile) ar =>
    let accs := (mxCols t.words ar.1).map (fun j => full.accAt (accKey ar.1 ar.2 j))
    let us := accs.foldl (fun s v => (a40Add s (a40Val v).abs).code) 0
    { t with cs := SMap.set t.cs zeroNat (rowKey ar.1 ar.2) (mxRowSum t.words accs)
             us := SMap.set t.us zeroNat (rowKey ar.1 ar.2) (if mxInt t.words then 0 else us) }) t1
  ((m.setMx u { x with tiles := SMap.set x.tiles (fun _ => none) c (some t2), resident := some c }).bump (unitPage u)
    Reg.CELL.ACC_RESTORES).spend (unitPage u) Reg.CELL.ACC_SAVE_CYC 320

/-- The tile of a context, if it holds one. -/
def MxSt.tile (x : MxSt) (c : Nat) : Option Tile :=
  match SMap.find? x.tiles c with
  | some (some t) => some t
  | _ => none

/-- What must be in the arrays before an instruction of context c runs: another context's resident tile is saved, its
own held tile restored when it continues one (R82). -/
def Mach.placeTile (m : Mach) (u c : Nat) (accIn : Bool) : Mach :=
  let m1 := match (m.mxOf u).resident with
    | some d => if d = c then m else (match (m.mxOf u).tile d with | some t => m.saveTile u d t | none => m)
    | none => m
  if accIn ∧ (m1.mxOf u).resident ≠ some c then
    match (m1.mxOf u).tile c with
    | some t => m1.restoreTile u c t
    | none => m1
  else m1

/-! ## Dispatch (R80, R81) -/

/-- The later check of the EXPAND = 2 records: 0 accepted, 0x100 SCALE_INVALID, else the lowest code of R81. -/
def Mach.mxRecords (m : Mach) (u : Nat) (w : List Nat) : Nat :=
  if mxExpand w ≠ 2 then 0
  else
    let rs := (m.mxRecs u w).filter (fun r => !r.2.2.2)
    if rs.any (fun r => !scaleOk r.1) then 0x100
    else if mxBFmt w = 9 ∧ rs.any (fun r => decide (r.2.1 < -8 ∨ 7 < r.2.1)) then 0x01
    else if rs.any (fun r => decide (r.2.2.1 ≠ 0)) then 0x08 else 0

/-- A context that waits for the queue continues when an entry frees (R73). -/
def Mach.mxFreed (m : Mach) (u : Nat) : Mach := m.wakeIf u (fun w => decide (w = .mxQueue))

/-- Cycles before the products of an instruction (R78), beside the 72 of a drain, which are counted when it ends: 72 after the arrays
have been idle; else 72 after a held tile of another kind, and 72 more when its operands overlap the output that has just been
drained. -/
def mxTurn (it : MxItem) (prev : Option (List Nat)) : Nat :=
  if it.first then 72
  else match prev with
    | none => 72
    | some v =>
      let w := it.words
      if mxDrain v then (if [mxRangeA w, mxRangeB w, mxRangeX w].any (overlaps (mxRangeO v)) then 72 else 0)
      else if mxShape w = mxShape v ∧ mxMode w = mxMode v ∧ mxAFmt w = mxAFmt v ∧ mxBFmt w = mxBFmt v ∧ mxExpand w = mxExpand v ∧
        mxRunacc w = mxRunacc v then 0 else 72

/-- The head of the queue leaves it (R80 to R82). -/
def Mach.mxStart (m : Mach) (u : Nat) (it : MxItem) (rest : List MxItem) : Mach :=
  let w := it.words
  let m1 := (m.setMx u { m.mxOf u with queue := rest }).mxFreed u
  let sc := m1.mxScales w
  let rc := m1.mxRecords u w
  let own := (m1.mxOf u).tile it.ctx
  if rc = 0x100 then (m1.raise (unitPage u) 21).mxRefuse u it.ctx 0 (mxTag w) true
  else if rc ≠ 0 then m1.mxRefuse u it.ctx rc (mxTag w) true
  else if mxAccIn w ∧ own.isNone then m1.mxRefuse u it.ctx 0x04 (mxTag w) true
  else if mxAccIn w ∧ !(match own with | some t => mxMatches w ⟨t.words, t.sA, t.sB⟩ sc.1 sc.2 | none => true) then
    m1.mxRefuse u it.ctx 0x05 (mxTag w) true
  else
    let m2 := m1.placeTile u it.ctx (mxAccIn w)
    let x := m2.mxOf u
    let so := m2.slot (mxSOut w)
    let turn := mxTurn it (m1.mxOf u).prev
    let run : MxRun := { item := it, sA := sc.1, sB := sc.2, sOut := so.scale,
                         lr := if so.lrfold then some so.lr else none, denorm := m2.denorm u,
                         recs := m1.mxRecs u w }
    (m2.setMx u { x with
      running := some run
      prev := some w
      tiles := if mxAccIn w then x.tiles else SMap.set x.tiles (fun _ => none) it.ctx none
      resident := if mxAccIn w then x.resident else none
      slots := if mxAccIn w then x.slots else if mxDrain w then SMap.erase x.slots it.ctx
        else SMap.insert x.slots it.ctx ((SMap.find? x.slots it.ctx).getD it.slot) }).bump (unitPage u) Reg.CELL.MX_TURN_CYC turn

/-- Bytes of a held tile in its save slot (R90). -/
def tileBytes : Nat := 81920

/-- A row that the start of an instruction may read or write, its EXPAND = 2 records or a save slot, is being copied (R418). -/
def Mach.mxStartHeld (m : Mach) (u : Nat) (w : List Nat) : Bool :=
  !m.ras.repairs.isEmpty && ((decide (mxExpand w = 2) && m.rowHeld (pondKey u (mxX w)) (8 * mxN w)) ||
    (m.mxOf u).slots.any (fun e => m.rowHeld (pondKey u e.2) tileBytes))

/-- A row of the ranges of an instruction is being copied (R418). -/
def Mach.mxRowHeld (m : Mach) (u : Nat) (w : List Nat) : Bool :=
  !m.ras.repairs.isEmpty && [mxRangeA w, mxRangeB w, mxRangeX w, mxRangeO w].any (fun r => m.rowHeld (pondKey u r.1) r.2)

/-- R81. The arrays take the next queued instruction. -/
def Mach.mxDispatch (m : Mach) (u : Nat) : Mach :=
  match (m.mxOf u).running, (m.mxOf u).queue with
  | none, it :: rest => if m.unitRuns u && !m.mxStartHeld u it.words then m.mxStart u it rest else m
  | _, _ => m

/-- R81. -/
def execMxDispatch (u : UnitId) (s : State) : Host.Outcome State Fault Refusal :=
  s.run true (fun m => m.mxDispatch u.val)

/-! ## Completion (R73, R91, R92) -/

/-- Whether an output takes the part of an array row that failed. -/
def mxFails (w : List Nat) (mism : List (Nat × Nat)) (r n : Nat) : Bool :=
  mism.any (fun ar => decide (ar.2 = r) && decide (ar.1 ∈ mxArrays w n))

/-- One written output with its report. -/
structure MxOut where
  elem : ElemWrite
  slot : SlotElem
deriving DecidableEq, Repr

/-- The outputs of an instruction. -/
def Mach.mxOutputs (m : Mach) (_u : Nat) (run : MxRun) (res : MxResult) (failing : List (Nat × Nat)) : List MxOut :=
  let w := run.item.words
  let ow := fmtWidth (mxOFmt w)
  (List.zipWith (fun r row => List.zipWith (fun n v =>
    let rec2 := recAt run.recs n
    let bad := v.2.2 || rec2.2.2.2 || mxFails w failing r n
    let d := mxDrainOne w run rec2.1 r n v
    let code := if bad then m.junk (r * 256 + n) ow else d.2.code
    (⟨⟨8 * (mxO w + r * mxOStride w) + n * ow, ow, code, bad⟩,
      ⟨d.1, ⟨code, if bad then 0 else d.2.flags⟩, bad⟩⟩ : MxOut)) (upTo (mxN w)) row) (upTo (mxM w)) res.outs).flatten

/-- The result is written to the pond, the flags go to the context, the reports to SOUT, and the instruction retires. -/
def Mach.mxWrite (m : Mach) (u : Nat) (run : MxRun) (res : MxResult) (failing : List (Nat × Nat)) : Mach :=
  let w := run.item.words
  let c := run.item.ctx
  let outs := m.mxOutputs u run res failing
  let poisoned := outs.any (fun o => o.elem.bad)
  let fl := outs.foldl (fun f o => f ||| o.slot.coded.flags) res.flags
  let m1 := (m.pondElems u (outs.map (·.elem))).addFlags u c fl
  let m2 := if mxInt w then m1 else m1.report (mxSOut w) (mxOFmt w) (outs.map (·.slot))
  let x := m2.mxOf u
  let m3 := (m2.setMx u { x with running := none, tiles := SMap.set x.tiles (fun _ => none) c none,
                                 resident := if x.resident = some c then none else x.resident,
                                 slots := SMap.erase x.slots c }).stir
  ((m3.bump (unitPage u) Reg.CELL.MX_CHK_SKIPPED res.skipped).mxRetire u c (mxTag w) true false poisoned).releaseStores u

/-- An instruction with DRAIN = 0 leaves its tile in the arrays (R82). -/
def Mach.mxHold (m : Mach) (u : Nat) (run : MxRun) (res : MxResult) : Mach :=
  let c := run.item.ctx
  let x := m.mxOf u
  let m1 := m.setMx u { x with running := none, tiles := SMap.set x.tiles (fun _ => none) c (some res.tile),
                               resident := some c }
  ((m1.addFlags u c res.flags).mxRetire u c (mxTag run.item.words) true false false).releaseStores u

/-- Cycles of the segment ends of an execution (R103). -/
def mxSegTurn (w : List Nat) : Nat := 72 * (2 ^ mxKseg w - 1)

/-- A drain with the checksum's verdict; a retry adds its overhead and its products to the turnover (R91, R94). -/
def Mach.mxDrained (m : Mach) (u : Nat) (run : MxRun) (res : MxResult) (again : Unit → MxResult) (injected : Bool) : Mach :=
  let w := run.item.words
  if res.mism.isEmpty then m.mxWrite u run res []
  else if run.item.retry && !mxAccIn w then
    let r2 := again ()
    let m := m.bump (unitPage u) Reg.CELL.MX_TURN_CYC (144 + mxCycles w + mxSegTurn w)
    if r2.mism.isEmpty then
      let m1 := (m.mxMismatch u (mxTag w) res.mism false false injected .transient).bump (unitPage u)
        Reg.CELL.MX_CHK_RETRY_OK
      (m1.bump (unitPage u) Reg.CELL.MX_CHK_SKIPPED res.skipped).mxWrite u run r2 []
    else
      let m1 := (m.bump (unitPage u) Reg.CELL.MX_CHK_FAIL res.mism.length).mxMismatch u (mxTag w) r2.mism true true
        injected .retryFail
      (m1.bump (unitPage u) Reg.CELL.MX_CHK_SKIPPED res.skipped).mxWrite u run r2 r2.mism
  else (m.mxMismatch u (mxTag w) res.mism false true injected .hard).mxWrite u run res res.mism

/-- A unit's reads of operands from an address take the injections of the pond's detectors: an uncorrectable word is delivered poisoned,
as the first of them, and stays as it is stored (R412, R414). The pond as the unit reads it, and the state. -/
def Mach.pondDelivered (m : Mach) (u a : Nat) : Mach × Mach :=
  let r := m.pondInject u (a / 64)
  (if r.1 then { r.2 with poison := marksAfter r.2.poison (pondKey u a) 1 true } else r.2, r.2)

/-- The reads of the operands of an instruction, from the first of A. -/
def Mach.mxDelivered (m : Mach) (u : Nat) (w : List Nat) : Mach × Mach :=
  if mxKAll w = 0 then (m, m) else m.pondDelivered u (Machine.mxA w)

/-- R73. The instruction in the arrays completes. -/
def Mach.mxComplete (m0 : Mach) (u : Nat) (up : ArrayUpsets) : Mach :=
  match (m0.mxOf u).running with
  | none => m0
  | some run =>
    if m0.mxRowHeld u run.item.words then m0
    else
    let rd := (m0.mxDelivered u run.item.words).1
    let m := (m0.mxDelivered u run.item.words).2
    let it := run.item
    let w := it.words
    let t0 := match mxAccIn w, (m.mxOf u).tile it.ctx with
      | true, some t => t
      | _, _ => mxFresh w run.sA run.sB it.tol
    let exec := fun (ups : List Upset) =>
      mxExec w (fun r k => rd.mxA u w run.denorm r k) (fun k n => rd.mxB u w run.recs run.denorm k n) run.denorm it.tol ups t0
    let res := exec up.first
    let m1 := (m.bump (unitPage u) Reg.CELL.MX_BUSY_CYC (mxCycles w)).bump (unitPage u) Reg.CELL.MX_TURN_CYC
      ((if mxDrain w then 72 else 0) + mxSegTurn w)
    if !mxDrain w then m1.mxHold u run res
    else
      let inj := if mxMode w = 0 then m1.takeInject (unitPage u) 16 else (false, m1)
      let res1 := if inj.1 ∧ (0, 0) ∉ res.mism then { res with mism := res.mism ++ [(0, 0)] } else res
      inj.2.mxDrained u run res1 (fun _ => exec up.retry) inj.1

/-- R73. -/
def execMxComplete (u : UnitId) (up : ArrayUpsets) (s : State) : Host.Outcome State Fault Refusal :=
  s.run true (fun m => m.mxComplete u.val up)

end Sys2Proof.Machine
end

