-- ==== Sys2Proof/Machine/RingBase.lean ====
section
/-! DEFINITION. Rings as other units see them: what finishes an entry (R440, R441). -/

namespace Sys2Proof.Machine

/-- The list in canonical form whose keys below n hold the values of a function, and which lists nothing else. -/
def SMap.tabulate {α : Type} [DecidableEq α] (d f : Nat → α) (n : Nat) : SMap α :=
  (upTo n).filterMap (fun k => if f k = d k then none else some (k, f k))

def ringPage : Page := ⟨.ring, 0⟩

def ringDefault (_ : Nat) : RingSt := RingSt.reset

def Mach.ringOf (m : Mach) (r : Nat) : RingSt := SMap.get m.rings ringDefault r

def Mach.setRing (m : Mach) (r : Nat) (x : RingSt) : Mach := { m with rings := SMap.set m.rings ringDefault r x }

/-- Change the started entry with an index. -/
def RingSt.modEnt (x : RingSt) (i : Nat) (f : RingEnt → RingEnt) : RingSt :=
  { x with started := x.started.map (fun e => if e.index = i then f e else e) }

/-- An entry is placed with its target. -/
def Mach.ringPlaced (m : Mach) (r i : Nat) : Mach := m.setRing r ((m.ringOf r).modEnt i (fun e => { e with placed := true }))

/-- The target of an entry has finished: code and result. An entry that moved poisoned data and went well ends with POISON
(R443). -/
def Mach.ringFinish (m : Mach) (r i code result : Nat) : Mach :=
  m.setRing r ((m.ringOf r).modEnt i (fun e =>
    { e with placed := true, outcome := some (if code = 0 ∧ e.bad then 0x0B else code, result), time := m.now }))

/-- The port that owns a ring. -/
def RingSt.owner (x : RingSt) : HostId := if bit x.cfg 5 then 1 else 0

def RingSt.depth (x : RingSt) : Nat := 2 ^ fld x.cfg 4 0
def RingSt.kind (x : RingSt) : Nat := fld x.cfg 9 7
def RingSt.target (x : RingSt) : Nat := fld x.cfg 21 10
def RingSt.vector (x : RingSt) : Nat := fld x.cfg 32 22
def RingSt.msixEn (x : RingSt) : Bool := bit x.cfg 33
def RingSt.accept (x : RingSt) : Bool := bit x.cfg 34
def RingSt.coalN (x : RingSt) : Nat := fld x.cfg 42 35
def RingSt.coalUs (x : RingSt) : Nat := fld x.cfg 58 43

end Sys2Proof.Machine
end

