-- ==== Sys2Proof/Machine/SolverMath.lean ====
section
/-! DEFINITION. The arithmetic of the solver cell: chains of fused multiply-adds (R142), LDLᵀ under the pivot rule (R157),
the Riccati recursion, residuals (R153) and the step of R155. Every value is an FP64 code. The order in which the terms of
a formula are added beyond R142 is a reading of the formulas as they are written. DEDUCED. -/

namespace Sys2Proof.Machine

/-! ## Vectors and matrices (R142) -/

/-- FP64 code of 1. -/
def f64One : Nat := 0x3FF0000000000000

/-- A dot product: a chain from +0 in ascending index. -/
def fdot (a b : List Nat) : Nat := (List.zip a b).foldl (fun acc p => f64Fma p.1 p.2 acc) 0

/-- A sparse row times a vector. -/
def sdot (r : Sparse) (x : List Nat) : Nat := r.foldl (fun acc e => f64Fma e.2 (x.getD e.1 0) acc) 0

/-- The transpose of sparse rows times a vector: each entry a chain over the rows. -/
def tdot (n : Nat) (rows : List Sparse) (y : List Nat) : List Nat :=
  (List.zip rows y).foldl (fun acc ry =>
    ry.1.foldl (fun acc e => acc.set e.1 (f64Fma e.2 ry.2 (acc.getD e.1 0))) acc) (List.replicate n 0)

def vadd (a b : List Nat) : List Nat := List.zipWith f64Add a b
def vsub (a b : List Nat) : List Nat := List.zipWith f64Sub a b
def vneg (a : List Nat) : List Nat := a.map f64Neg

/-- A maximum that keeps a NaN. -/
def nanMax (a b : Nat) : Nat :=
  if (f64Val a).isNan then a else if (f64Val b).isNan then b else if f64Lt a b then b else a

/-- The maximum norm. -/
def vnorm (a : List Nat) : Nat := a.foldl (fun m x => nanMax m (f64Abs x)) 0

/-- The maximum norm over finite entries. -/
def vnormFin (a : List Nat) : Nat := vnorm (a.filter f64Finite)

def allFinite (a : List Nat) : Bool := a.all f64Finite

def vget (v : List Nat) (i : Nat) : Nat := v.getD i 0
def mget (a : Mat) (i j : Nat) : Nat := (a.getD i []).getD j 0

/-- Columns of a matrix with n columns. -/
def mcols (n : Nat) (a : Mat) : Mat := (upTo n).map (fun j => a.map (fun r => r.getD j 0))

/-- a · bᵀ, b given by rows. -/
def mulT (a b : Mat) : Mat := a.map (fun r => b.map (fdot r))

def mulV (a : Mat) (x : List Nat) : List Nat := a.map (fun r => fdot r x)

def madd (a b : Mat) : Mat := List.zipWith vadd a b
def msub (a b : Mat) : Mat := List.zipWith vsub a b

/-- Add a diagonal. -/
def addDiag (a : Mat) (d : List Nat) : Mat :=
  (upTo a.length).map (fun i => let r := a.getD i []; r.set i (f64Add (r.getD i 0) (d.getD i 0)))

/-- A sparse row with all its n entries. -/
def denseRow (n : Nat) (r : Sparse) : List Nat :=
  r.foldl (fun acc e => acc.set e.1 e.2) (List.replicate n 0)

/-- A dense row as a sparse one, from an index up. -/
def sparseRow (i : Nat) (r : List Nat) : Sparse := List.zip ((upTo r.length).map (· + i)) r

/-! ## LDLᵀ and the pivot rule (R157) -/

/-- PIVTOL, REGDELTA, and whether this is a refactorisation (R158). -/
structure PivRule where
  tol : Nat
  reg : Nat
  boost : Bool
deriving DecidableEq, Repr

/-- A pivot as it is used, and whether it was replaced. -/
def pivot (pr : PivRule) (mx : Nat) (primal : Bool) (d : Nat) : Nat × Bool :=
  let wrong := if primal then f64Lt d 0 else f64Lt 0 d
  if f64Lt (f64Abs d) (f64Mul (f64Pow2 (-(pr.tol : Int))) mx) || (f64Val d).isZero || wrong then
    let delta := f64Mul (f64Pow2 ((if pr.boost then 8 else 0) - (pr.reg : Int))) mx
    (if primal then delta else f64Neg delta, true)
  else (d, false)

/-- Row of L that belongs to a matrix row, from the rows above it. -/
def ldlRow (d : List Nat) (arow : List Nat) : List (List Nat) → Nat → List Nat → List Nat
  | [], _, acc => acc
  | lj :: ls, j, acc =>
    let s := fdot acc (List.zipWith f64Mul lj d)
    ldlRow d arow ls (j + 1) (acc ++ [f64Div (f64Sub (vget arow j) s) (vget d j)])

/-- LDLᵀ of a symmetric matrix whose first n1 pivots are primal: the factors and the pivots replaced. -/
def ldl (pr : PivRule) (n1 : Nat) (a : Mat) : Ldl × Nat :=
  let top := vnorm ((upTo a.length).map (fun i => mget a i i))
  let mx := if (f64Val top).isZero then f64One else top
  (upTo a.length).foldl (fun (st : Ldl × Nat) i =>
    let arow := a.getD i []
    let lr := ldlRow st.1.d arow st.1.l 0 []
    let d := f64Sub (vget arow i) (fdot lr (List.zipWith f64Mul lr st.1.d))
    let p := pivot pr mx (decide (i < n1)) d
    ({ l := st.1.l ++ [lr], d := st.1.d ++ [p.1] }, st.2 + b2n p.2)) ({ l := [], d := [] }, 0)

/-- Solve with factors. -/
def ldlSolve (f : Ldl) (b : List Nat) : List Nat :=
  let z := (upTo f.l.length).foldl (fun z i => z ++ [f64Sub (vget b i) (fdot (f.l.getD i []) z)]) []
  let w := List.zipWith f64Div z f.d
  (upTo f.l.length).reverse.foldl (fun xs i =>
    let col := (f.l.drop (i + 1)).map (fun r => r.getD i 0)
    f64Sub (vget w i) (fdot col xs) :: xs) []

/-! ## The KKT system -/

/-- Both sides finite and equal: the row is solved as an equality (R145). -/
def QRow.eq (r : QRow) : Bool :=
  !r.box && f64Finite r.lb && f64Finite r.ub && Num.eqv (f64Val r.lb) (f64Val r.ub)

def QRow.hasL (r : QRow) : Bool := !r.eq && f64Finite r.lb
def QRow.hasU (r : QRow) : Bool := !r.eq && f64Finite r.ub

/-- The equality rows: A, then the rows solved as equalities. -/
def Qp.eqRows (p : Qp) : List Sparse := p.a ++ (p.rows.filter QRow.eq).map (·.coef)

/-- The reduced KKT matrix of the dense form. -/
def kktDense (p : Qp) (sig : List Nat) : Mat :=
  let n := p.n
  let rs := (List.zip p.rows sig).filter (fun e => !e.1.box && !e.1.eq)
  let c := rs.map (fun e => denseRow n e.1.coef)
  let cs := List.zipWith (fun r e => r.map (fun v => f64Mul v e.2)) c rs
  let h := madd (p.h.map (denseRow n)) (mulT (mcols n cs) (mcols n c))
  let diag := ((List.zip p.rows sig).filter (·.1.box)).map (·.2)
  let a := p.eqRows.map (denseRow n)
  let k := a.length
  (List.zipWith (fun r col => r ++ col) (addDiag h diag) (if k = 0 then List.replicate n [] else mcols n a)) ++
    a.map (fun r => r ++ List.replicate k 0)

/-- The rows of stage k in the record's order: c rows, then w box bounds. -/
def Qp.stageRows {α : Type} (c w k : Nat) (l : List α) : List α := (l.drop (k * (c + w))).take (c + w)

/-- The recursion of the stage form, last stage first: the factors of stages k to N − 1, P_k, and the pivots replaced.
`e` holds the rows and weights of each stage, and the weights of the box bounds of the state before it. -/
structure StageIn where
  st : QStage
  rows : List (QRow × Nat)
  /-- weights of the box bounds of x_k -/
  sigX : List Nat
deriving DecidableEq, Repr

/-- The folded blocks of a stage: Q', S', R' and the equality rows [E_x | E_u]. -/
def StageIn.folded (nx nu : Nat) (e : StageIn) : Mat × Mat × Mat × Mat :=
  let w := nx + nu
  let cr := List.zip e.st.c (e.rows.take e.st.c.length)
  let ineq := cr.filter (fun x => !x.2.1.eq)
  let c := ineq.map (·.1)
  let cs := ineq.map (fun x => x.1.map (fun v => f64Mul v x.2.2))
  let f := if c.isEmpty then List.replicate w (List.replicate w 0) else mulT (mcols w cs) (mcols w c)
  let sigU := ((e.rows.drop e.st.c.length).take nu).map (·.2)
  (addDiag (madd e.st.q ((f.take nx).map (fun r => r.take nx))) e.sigX,
   madd e.st.s ((f.drop nx).map (fun r => r.take nx)),
   addDiag (madd e.st.r ((f.drop nx).map (fun r => r.drop nx))) sigU,
   (cr.filter (fun x => x.2.1.eq)).map (·.1))

/-- Solve with the matrix of a stage: for the inputs, then for the multipliers of the rows solved as equalities. -/
def StageFact.solve (f : StageFact) (h : List Nat) : List Nat :=
  let nu := f.g.l.length
  let u0 := ldlSolve f.g (h.take nu)
  if f.eu.isEmpty then u0
  else
    let v := ldlSolve f.e (vsub (mulV f.eu u0) (h.drop nu))
    vsub u0 (mulV (mcols nu f.ge) v) ++ v

/-- One stage of the recursion from P_{k+1}: its factors, P_k and the pivots replaced. The matrix of order nu is factored with
primal pivots; rows solved as equalities are eliminated through it, and the pivots of the matrix left for their multipliers are
primal too (R145, R157). DEDUCED, log 22. -/
def riccatiStage (pr : PivRule) (nx nu : Nat) (e : StageIn) (pm : Mat) : StageFact × Mat × Nat :=
  let (q, s, r, ex) := e.folded nx nu
  let pa := mulT pm (mcols nx e.st.a)
  let pb := mulT pm (mcols nu e.st.b)
  let g := madd r (mulT (mcols nu e.st.b) (mcols nu pb))
  let l := madd s (mulT (mcols nu e.st.b) (mcols nx pa))
  let eu := ex.map (fun r => r.drop nx)
  let w := l ++ ex.map (fun r => r.take nx)
  let (fg, k) := ldl pr nu g
  let ge := eu.map (ldlSolve fg)
  let (fe, ke) := ldl pr eu.length (mulT eu ge)
  let f : StageFact := { p := pm, w := w, g := fg, eu := eu, ge := ge, e := fe }
  let y := (mcols nx w).map f.solve
  let pk := msub (madd q (mulT (mcols nx e.st.a) (mcols nx pa))) (mulT (mcols nx w) y)
  (f, pk, k + ke)

/-- The recursion over the stages. -/
def riccati (pr : PivRule) (nx nu : Nat) (pN : Mat) : List StageIn → List StageFact × Mat × Nat
  | [] => ([], pN, 0)
  | e :: es =>
    let (fs, pm, k) := riccati pr nx nu pN es
    let (f, pk, j) := riccatiStage pr nx nu e pm
    (f :: fs, pk, k + j)

/-- nx, nu and c of a stage problem. -/
def Qp.nu (p : Qp) : Nat := match p.stages with | s :: _ => s.r.length | [] => 0
def Qp.nx (p : Qp) : Nat := p.qN.length
def Qp.nc (p : Qp) : Nat := match p.stages with | s :: _ => s.c.length | [] => 0

/-- The inputs of the recursion. -/
def stageIns (p : Qp) (sig : List Nat) : List StageIn :=
  let c := p.nc
  let w := p.nx + p.nu
  (upTo p.stages.length).map (fun k =>
    { st := p.stages.getD k { q := [], s := [], r := [], a := [], b := [], c := [] }
      rows := List.zip (Qp.stageRows c w k p.rows) (Qp.stageRows c w k sig)
      sigX := if k = 0 then List.replicate p.nx 0 else (Qp.stageRows c w (k - 1) sig).drop (c + p.nu) })

/-- Factor the KKT matrix with weights Σ: the factors and the pivots replaced. -/
def factor (pr : PivRule) (p : Qp) (sig : List Nat) : Fact × Nat :=
  if p.stages.isEmpty then
    let r := ldl pr p.n (kktDense p sig)
    (.dense r.1, r.2)
  else
    let c := p.nc
    let w := p.nx + p.nu
    let pN := addDiag p.qN ((Qp.stageRows c w (p.stages.length - 1) sig).drop (c + p.nu))
    let r := riccati pr p.nx p.nu pN (stageIns p sig)
    (.stage r.1, r.2.2)

/-- The right sides of a stage: of u_k, x_k, the dynamics and the equality rows. -/
structure StageRhs where
  ru : List Nat
  rx : List Nat
  rd : List Nat
  re : List Nat
deriving DecidableEq, Repr

/-- Backward pass of a solve: for each stage M⁻¹h, and p_k. -/
def riccatiBack (nx nu : Nat) (pN : List Nat) : List (QStage × StageFact × StageRhs) → List (List Nat × List Nat) × List Nat
  | [] => ([], pN)
  | (st, f, r) :: l =>
    let (hs, pn) := riccatiBack nx nu pN l
    let t := vsub pn (mulV f.p r.rd)
    let h := vsub r.ru (mulV (mcols nu st.b) t) ++ r.re
    let mh := f.solve h
    let pk := vsub (vadd (mulV (mcols nx f.w) mh) (mulV (mcols nx st.a) t)) r.rx
    ((mh, pn) :: hs, pk)

/-- Forward pass: (d_u, d_x of the next state, d_λ, d_ν) of each stage. -/
def riccatiForw (dx : List Nat) :
    List (QStage × StageFact × StageRhs × (List Nat × List Nat)) → List (List Nat × List Nat × List Nat × List Nat)
  | [] => []
  | (st, f, r, hp) :: l =>
    let un := vsub hp.1 (f.solve (mulV f.w dx))
    let du := un.take st.r.length
    let nxt := vsub (vadd (mulV st.a dx) (mulV st.b du)) r.rd
    let lam := vadd (mulV f.p nxt) hp.2
    (du, nxt, lam, un.drop st.r.length) :: riccatiForw nxt l

/-- Split the right sides of the stage form by stages. -/
def stageRhs (p : Qp) (r1 r2 : List Nat) : List StageRhs :=
  let nx := p.nx
  let nu := p.nu
  let w := nx + nu
  let n := p.stages.length
  let eqs := (upTo n).map (fun k => ((Qp.stageRows p.nc w k p.rows).filter QRow.eq).length)
  (upTo n).map (fun k =>
    { ru := (r1.drop (k * w)).take nu
      rx := if k = 0 then List.replicate nx 0 else (r1.drop (k * w - nx)).take nx
      rd := (r2.drop (k * nx)).take nx
      re := (r2.drop (n * nx + (eqs.take k).sum)).take (eqs.getD k 0) })

/-- Solve K [d_x; d_y] = [r1; r2] on a factorisation. -/
def kktSolve (p : Qp) (f : Fact) (r1 r2 : List Nat) : List Nat × List Nat :=
  match f with
  | .dense l =>
    let z := ldlSolve l (r1 ++ r2)
    (z.take p.n, z.drop p.n)
  | .stage fs =>
    let nx := p.nx
    let nu := p.nu
    let rs := stageRhs p r1 r2
    let pN := vneg (r1.drop (p.n - nx))
    let (hs, _) := riccatiBack nx nu pN (List.zip p.stages (List.zip fs rs))
    let out := riccatiForw (List.replicate nx 0)
      (List.zip p.stages (List.zip fs (List.zip rs hs)))
    (out.flatMap (fun o => o.1 ++ o.2.1), (out.flatMap (fun o => o.2.2.1)) ++ (out.flatMap (fun o => o.2.2.2)))

/-! ## Residuals (R153) -/

/-- The vectors behind the residuals. -/
structure ResVec where
  cx : List Nat
  rl : List Nat
  ru : List Nat
  dual : List Nat
  eq : List Nat
deriving DecidableEq, Repr

/-- The multiplier of a row solved as an equality. -/
def RowVal.nu (v : RowVal) : Nat := f64Sub v.zu v.zl

/-- Products with the rows and the bounds. -/
def resVec (p : Qp) (w : SvIter) : ResVec :=
  let cx := p.rows.map (fun r => sdot r.coef w.x)
  let rows := List.zip p.rows (List.zip w.rows cx)
  let hx := p.h.map (fun r => sdot r w.x)
  let nb := rows.filter (fun e => !e.1.box)
  let bx := rows.filter (fun e => e.1.box)
  let zr := fun (l : List (QRow × RowVal × Nat)) => l.map (fun e => e.2.1.nu)
  let dual := vadd (vadd (vadd (vadd hx p.f) (tdot p.n p.a w.y)) (tdot p.n (nb.map (·.1.coef)) (zr nb)))
    (tdot p.n (bx.map (·.1.coef)) (zr bx))
  { cx := cx
    rl := rows.map (fun e => if e.1.hasL then f64Sub (f64Sub e.2.2 e.1.lb) e.2.1.sl else 0)
    ru := rows.map (fun e => if e.1.hasU then f64Sub (f64Sub e.1.ub e.2.2) e.2.1.su else 0)
    dual := dual
    eq := vsub (p.a.map (fun r => sdot r w.x)) p.b ++
      (rows.filter (fun e => e.1.eq)).map (fun e => f64Sub e.2.2 e.1.lb) }

/-- Number of finite sides. -/
def Qp.sides (p : Qp) : Nat := (p.rows.map (fun r => b2n r.hasL + b2n r.hasU)).sum

/-- sᵀz over finite sides, of given slacks and multipliers. -/
def gapOf (p : Qp) (vs : List RowVal) : Nat :=
  (List.zip p.rows vs).foldl (fun acc e =>
    let a := if e.1.hasL then f64Fma e.2.sl e.2.zl acc else acc
    if e.1.hasU then f64Fma e.2.su e.2.zu a else a) 0

/-- ½xᵀHx + fᵀx. -/
def quadObj (p : Qp) (x : List Nat) : Nat :=
  f64Add (f64Mul 0x3FE0000000000000 (fdot x (p.h.map (fun r => sdot r x)))) (fdot p.f x)

/-- The residuals, the merit and the objective. -/
def residuals (p : Qp) (w : SvIter) : SvRes :=
  let v := resVec p w
  let bounds := p.rows.flatMap (fun r => [r.lb, r.ub])
  let rp := f64Div (vnorm (v.eq ++ v.rl ++ v.ru)) (f64Add f64One (vnormFin (p.b ++ bounds)))
  let rd := f64Div (vnorm v.dual) (f64Add f64One (vnorm p.f))
  let ob := quadObj p w.x
  let rc := if p.sides = 0 then 0
    else f64Div (f64Div (gapOf p w.rows) (f64OfInt p.sides)) (f64Add f64One (f64Abs ob))
  { rp := rp, rd := rd, rc := rc, phi := nanMax (nanMax rp rd) rc, obj := f64Add ob p.const }

/-- Every entry of an iterate is finite. -/
def SvIter.finite (w : SvIter) : Bool :=
  allFinite w.x && allFinite w.y && w.rows.all (fun v => allFinite [v.sl, v.su, v.zl, v.zu])

/-! ## The step (R155) -/

/-- Weights Σ_l + Σ_u of the rows; 0 for an absent side. -/
def sigmas (p : Qp) (vs : List RowVal) : List Nat :=
  List.zipWith (fun (r : QRow) (v : RowVal) =>
    f64Add (if r.hasL then f64Div v.zl v.sl else 0) (if r.hasU then f64Div v.zu v.su else 0)) p.rows vs

/-- A direction: of x, of the equality rows, and of each row's slacks and multipliers. -/
structure Dir where
  dx : List Nat
  dy : List Nat
  rows : List RowVal
deriving DecidableEq, Repr

def Dir.finite (d : Dir) : Bool :=
  allFinite d.dx && allFinite d.dy && d.rows.all (fun v => allFinite [v.sl, v.su, v.zl, v.zu])

/-- The direction whose complementarity residuals are rcl and rcu. -/
def direction (p : Qp) (f : Fact) (w : SvIter) (v : ResVec) (rcl rcu : List Nat) : Dir :=
  let idx := upTo p.rows.length
  let row := fun i => p.rows.getD i { coef := [], lb := 0, ub := 0, box := false }
  let val := fun i => w.rows.getD i { sl := 0, su := 0, zl := 0, zu := 0 }
  let q := idx.map (fun i =>
    let r := row i
    let x := val i
    let u := if r.hasU then f64Div (f64Fma x.zu (vget v.ru i) (vget rcu i)) x.su else 0
    let l := if r.hasL then f64Div (f64Fma x.zl (vget v.rl i) (vget rcl i)) x.sl else 0
    f64Sub u l)
  let r1 := vadd (vneg v.dual) (tdot p.n (p.rows.map (·.coef)) q)
  let z := kktSolve p f r1 (vneg v.eq)
  let eqNo := fun i => ((p.rows.take i).filter QRow.eq).length
  { dx := z.1
    dy := z.2.take p.a.length
    rows := idx.map (fun i =>
      let r := row i
      let x := val i
      if r.eq then { sl := 0, su := 0, zl := 0, zu := vget z.2 (p.a.length + eqNo i) }
      else
        let c := sdot r.coef z.1
        let dl := f64Add c (vget v.rl i)
        let du := f64Sub (vget v.ru i) c
        { sl := if r.hasL then dl else 0
          su := if r.hasU then du else 0
          zl := if r.hasL then f64Neg (f64Div (f64Fma x.zl dl (vget rcl i)) x.sl) else 0
          zu := if r.hasU then f64Neg (f64Div (f64Fma x.zu du (vget rcu i)) x.su) else 0 }) }

/-- The largest step that keeps the slacks and multipliers of finite sides at or above 0; +infinity when none limits it. -/
def ratio (p : Qp) (vs ds : List RowVal) : Nat :=
  (List.zip p.rows (List.zip vs ds)).foldl (fun m e =>
    let one := fun m (s d : Nat) =>
      if (f64Val d).isNan then d else if f64Lt d 0 then (let t := f64Div s (f64Neg d); if f64Lt t m then t else m) else m
    if e.1.eq then m
    else
      let m1 := if e.1.hasL then one (one m e.2.1.sl e.2.2.sl) e.2.1.zl e.2.2.zl else m
      if e.1.hasU then one (one m1 e.2.1.su e.2.2.su) e.2.1.zu e.2.2.zu else m1) 0x7FF0000000000000

/-- A row advanced by a step. A row solved as an equality keeps s = 0 and its multiplier split by sign into z_u and z_l. DESIGN CHOICE,
log 100. -/
def stepRow (r : QRow) (a : Nat) (v d : RowVal) : RowVal :=
  if r.eq then
    let nu := f64Fma a d.zu v.nu
    if f64Lt nu 0 then { sl := 0, su := 0, zl := f64Neg nu, zu := 0 } else { sl := 0, su := 0, zl := 0, zu := nu }
  else { sl := f64Fma a d.sl v.sl, su := f64Fma a d.su v.su, zl := f64Fma a d.zl v.zl, zu := f64Fma a d.zu v.zu }

def stepRows (p : Qp) (a : Nat) (vs ds : List RowVal) : List RowVal :=
  List.zipWith (fun r (e : RowVal × RowVal) => stepRow r a e.1 e.2) p.rows (List.zip vs ds)

/-- The predictor, the centring and the corrector of one iteration: the direction and its step length, and the pivots
replaced. A predictor that no side limits takes a step of 1. DESIGN CHOICE, log 100. -/
def stepDir (p : Qp) (pr : PivRule) (w : SvIter) : Dir × Nat × Nat :=
  let f := factor pr p (sigmas p w.rows)
  let v := resVec p w
  let rc0l := w.rows.map (fun x => f64Mul x.sl x.zl)
  let rc0u := w.rows.map (fun x => f64Mul x.su x.zu)
  let da := direction p f.1 w v rc0l rc0u
  let ra := ratio p w.rows da.rows
  let aa := if ra = 0x7FF0000000000000 then f64One else ra
  let gap := gapOf p w.rows
  let t := f64Div (gapOf p (stepRows p aa w.rows da.rows)) gap
  let sg := f64Mul (f64Mul t t) t
  let mu := f64Mul sg (f64Div gap (f64OfInt p.sides))
  let d := if p.sides = 0 then da
    else
      let cl := List.zipWith (fun (e : RowVal) rc => f64Sub (f64Fma e.sl e.zl rc) mu) da.rows rc0l
      let cu := List.zipWith (fun (e : RowVal) rc => f64Sub (f64Fma e.su e.zu rc) mu) da.rows rc0u
      direction p f.1 w v cl cu
  let a := f64Mul 0x3FEFC00000000000 (ratio p w.rows d.rows)
  (d, if f64Lt f64One a then f64One else a, f.2)

/-- The iterate after a step. -/
def stepIter (p : Qp) (w : SvIter) (d : Dir) (a : Nat) : SvIter :=
  { x := List.zipWith (fun x dx => f64Fma a dx x) w.x d.dx
    y := List.zipWith (fun y dy => f64Fma a dy y) w.y d.dy
    rows := stepRows p a w.rows d.rows }

/-! ## The certificate (R156) -/

/-- The multipliers of the equality rows: y, then those of the rows solved as equalities. -/
def SvIter.eqMult (w : SvIter) (p : Qp) : List Nat :=
  w.y ++ ((List.zip p.rows w.rows).filter (fun e => e.1.eq)).map (fun e => e.2.nu)

/-- Rule 2 of R156 with the tolerance 2^−INFEXP. Each product of the formula is a chain of its own (R142). -/
def certifies (p : Qp) (infexp : Nat) (w : SvIter) : Bool :=
  let rows := (List.zip p.rows w.rows).filter (fun e => !e.1.eq)
  let y := w.eqMult p
  let z := rows.flatMap (fun e => [e.2.zl, e.2.zu])
  let zeta := vnorm (y ++ z)
  let tol := f64Mul (f64Pow2 (-(infexp : Int))) zeta
  let nb := rows.filter (fun e => !e.1.box)
  let bx := rows.filter (fun e => e.1.box)
  let turned := fun (l : List (QRow × RowVal)) => tdot p.n (l.map (·.1.coef)) (l.map (fun e => f64Sub e.2.zl e.2.zu))
  let g := vadd (vadd (tdot p.n p.eqRows y) (turned nb)) (turned bx)
  let bs := p.b ++ ((p.rows.filter QRow.eq).map (·.lb))
  let low := fun (l : List (QRow × RowVal)) => l.foldl (fun acc e => if e.1.hasL then f64Fma e.1.lb e.2.zl acc else acc) 0
  let upp := fun (l : List (QRow × RowVal)) => l.foldl (fun acc e => if e.1.hasU then f64Fma e.1.ub e.2.zu acc else acc) 0
  let val := f64Sub (f64Add (f64Sub (f64Add (fdot bs y) (low nb)) (upp nb)) (low bx)) (upp bx)
  f64Lt 0 zeta && f64Le (vnorm g) tol && f64Le tol val

/-! ## Initial points (R154, R160) -/

/-- The cold start. -/
def coldStart (p : Qp) : SvIter :=
  { x := List.replicate p.n 0
    y := List.replicate p.a.length 0
    rows := p.rows.map (fun r =>
      { sl := if r.hasL then f64One else 0, su := if r.hasU then f64One else 0,
        zl := if r.hasL then f64One else 0, zu := if r.hasU then f64One else 0 }) }

/-- 2^−26. -/
def f64Floor26 : Nat := 0x3E50000000000000

/-- Entries of absent sides set to 0 (R152, R160), and with `raise` slacks and multipliers raised to 2^−26 (R160); the entries of a
row solved as an equality stay as they are. DESIGN CHOICE, log 100. -/
def cleaned (raise : Bool) (p : Qp) (w : SvIter) : SvIter :=
  let up := fun (has : Bool) (x : Nat) => if !has then 0 else if raise && f64Lt x f64Floor26 then f64Floor26 else x
  { w with rows := List.zipWith (fun (r : QRow) (v : RowVal) =>
      if r.eq then v
      else { sl := up r.hasL v.sl, su := up r.hasU v.su, zl := up r.hasL v.zl, zu := up r.hasU v.zu }) p.rows w.rows }

/-- Chunks of k entries. -/
def chunks {α : Type} (k : Nat) : Nat → List α → List (List α)
  | 0, _ => []
  | n + 1, l => l.take k :: chunks k n (l.drop k)

/-- Stages shifted by one, the last one twice (R160). -/
def shiftStages {α : Type} (l : List (List α)) : List (List α) :=
  match l with
  | [] => []
  | _ :: r => match l.getLast? with | some x => r ++ [x] | none => r

/-- Stages truncated or padded with the last one to n (R162). -/
def fitStages {α : Type} (n : Nat) (l : List (List α)) : List (List α) :=
  match l.getLast? with
  | none => []
  | some x => l.take n ++ List.replicate (n - l.length) x

end Sys2Proof.Machine
end

