-- ==== Sys2Proof/Machine/Solver.lean ====
section
/-! DEFINITION. The solver queue and the forward solve (R147 to R176): SV.RUN with its entry checks, SV.WAIT, SV.POLL,
dispatch under the deadline (R163 to R168), iterations, the result record and the output copy. -/

namespace Sys2Proof.Machine

def solvPage (n : Nat) : Page := ⟨.solv, n⟩

def svDefault (_ : Nat) : SvSt := SvSt.reset

/-- The firmware image in use. -/
def Mach.fwActive (m : Mach) : FwImage :=
  if m.live ⟨.keep, 0⟩ Reg.KEEP.FW_ACTIVE = 1 then m.power.flash.imgB else m.power.flash.imgA

/-- The sequencer of SOLV[n]. -/
def Mach.svOf (m : Mach) (n : Nat) : SvSt := SMap.get m.sv svDefault n

def Mach.setSv (m : Mach) (n : Nat) (x : SvSt) : Mach := { m with sv := SMap.set m.sv svDefault n x }

def Mach.svSlot (m : Mach) (n i : Nat) : Option SvSlot := (SMap.find? (m.svOf n).slots i).getD none

/-- Set or release a factor slot, with the registers that show it (R196). -/
def Mach.setSvSlot (m : Mach) (n i : Nat) (x : Option SvSlot) : Mach :=
  let p := solvPage n
  let m1 := m.setSv n { m.svOf n with slots := SMap.set (m.svOf n).slots (fun _ => none) i x }
  let put := fun (m : Mach) (f : Fld) (lo w v : Nat) =>
    m.setLive p f (m.live p f - natBits (m.live p f) (lo + w - 1) lo * 2 ^ lo + v * 2 ^ lo)
  let m2 := put m1 Reg.SOLV.FSLOT_HELD i 1 (b2n x.isSome)
  let m3 := put m2 Reg.SOLV.FSLOT_REG i 1 (match x with | some s => b2n s.reg | none => 0)
  put m3 Reg.SOLV.FSLOT_TAG (16 * i) 16 (match x with | some s => s.tag | none => 0)

/-! ## Descriptor fields (R149) -/

def svKind (w : List Nat) : Nat := wfld w 0 1 0
def svForm (w : List Nat) : Nat := wfld w 0 3 2
def svMFmt (w : List Nat) : Nat := wfld w 0 7 4
def svVFmt (w : List Nat) : Nat := wfld w 0 11 8
def svOFmt (w : List Nat) : Nat := wfld w 0 15 12
def svOCopy (w : List Nat) : Bool := wbit w 0 16
def svRnd (w : List Nat) : Bool := wbit w 0 17
def svWarm (w : List Nat) : Bool := wbit w 0 18
def svShift (w : List Nat) : Bool := wbit w 0 19
def svRetain (w : List Nat) : Bool := wbit w 0 20
def svFSlot (w : List Nat) : Nat := wfld w 0 22 21
def svTag (w : List Nat) : Nat := wfld w 0 47 32
def svSM (w : List Nat) : Nat := wfld w 3 15 0
def svSV (w : List Nat) : Nat := wfld w 3 31 16
def svSO (w : List Nat) : Nat := wfld w 3 47 32
def svData (w : List Nat) : Nat := wfld w 4 23 0
def svWork (w : List Nat) : Nat := wfld w 5 23 0
def svWs (w : List Nat) : Nat := wfld w 5 47 24
def svRes (w : List Nat) : Nat := wfld w 6 23 0
def svOut (w : List Nat) : Nat := wfld w 6 47 24
def svPattern (w : List Nat) : Nat := wfld w 7 31 0
def svDeadline (w : List Nat) : Nat := wordAt w 8
def svIters (w : List Nat) : Nat := wfld w 9 15 0

/-- The sizes of a problem (R145): W1 and W2 of a descriptor or record, with the form. -/
structure Dims where
  form : Nat
  n : Nat
  m : Nat
  p : Nat
  P : Nat
  N : Nat
  nx : Nat
  nu : Nat
  c : Nat
deriving DecidableEq, Repr

def dimsOf (form w1 w2 : Nat) : Dims :=
  { form := form, n := natBits w1 9 0, m := natBits w1 20 10, p := natBits w1 30 21, P := natBits w1 37 31,
    N := natBits w2 8 0, nx := natBits w2 15 9, nu := natBits w2 21 16, c := natBits w2 28 22 }

def svDims (w : List Nat) : Dims := dimsOf (svForm w) (wordAt w 1) (wordAt w 2)

def Dims.q (d : Dims) : Nat := d.m - d.p
def Dims.s (d : Dims) : Nat := d.n + d.p
def Dims.w (d : Dims) : Nat := d.nx + d.nu

/-- Problems of a descriptor. -/
def Dims.count (d : Dims) : Nat := if d.form = 2 then d.P else 1

/-- A size outside R145, or a nonzero field of another form. -/
def Dims.bad (d : Dims) : Bool :=
  if d.form = 3 then false
  else if d.form = 1 then
    decide (d.n ≠ 0 ∨ d.m ≠ 0 ∨ d.p ≠ 0 ∨ d.P ≠ 0 ∨ d.N = 0 ∨ 256 < d.N ∨ d.nx = 0 ∨ 64 < d.nx ∨ d.nu = 0 ∨ 32 < d.nu ∨ 96 < d.c)
  else
    decide (d.N ≠ 0 ∨ d.nx ≠ 0 ∨ d.nu ≠ 0 ∨ d.c ≠ 0 ∨ d.n = 0 ∨ d.n < d.p ∨ d.m < d.p) ||
    (if d.form = 0 then decide (d.P ≠ 0 ∨ 512 < d.n ∨ 1024 < d.m) else decide (d.P = 0 ∨ 64 < d.P ∨ 48 < d.n ∨ 96 < d.m))

/-! ## Areas (R146, R151, R152) -/

/-- Warm-start entries of one problem (R146). -/
def Dims.ews (d : Dims) : Nat :=
  if d.form = 1 then d.N * (5 * d.w + d.nx + 4 * d.c) else 5 * d.n + d.p + 4 * d.q

/-- Work area of a descriptor. -/
def Dims.work (d : Dims) : Nat :=
  if d.form = 1 then 8 * d.N * (d.w ^ 2 + d.nx ^ 2 + 8 * (d.w + d.c))
  else d.count * (8 * (d.s ^ 2 + d.n ^ 2 + 8 * (d.n + d.m)))

/-- Retained factorisation of a descriptor. -/
def Dims.fact (d : Dims) : Nat :=
  if d.form = 1 then 8 * d.N * (d.nx ^ 2 + d.w ^ 2) else d.count * (8 * d.s ^ 2)

def up64 (n : Nat) : Nat := ceilDiv n 64 * 64

/-- Bytes of a record, padded to the start of the next one. -/
def Dims.record (d : Dims) : Nat := up64 (128 + 8 * d.ews)

/-- Bytes of the result records. -/
def Dims.resBytes (d : Dims) : Nat := (d.count - 1) * d.record + (128 + 8 * d.ews)

/-- Primal entries of one problem. -/
def Dims.primal (d : Dims) : Nat := if d.form = 1 then d.N * d.w else d.n

/-- A block of problem data: rows, columns, in MFMT or VFMT, and whether only its lower triangle is read (R151). The group
is that of GMASK (R183): 0 H, 1 f, 2 A, 3 b, 4 C, 5 lb, 6 ub, 7 lbx, 8 ubx, 9 x_0. -/
structure Blk where
  rows : Nat
  cols : Nat
  mat : Bool
  sym : Bool
  group : Nat
deriving DecidableEq, Repr

def Dims.blocks (d : Dims) : List Blk :=
  let mt := fun r c s g => (⟨r, c, true, s, g⟩ : Blk)
  let vc := fun r g => (⟨r, 1, false, false, g⟩ : Blk)
  if d.form = 1 then
    (upTo d.N).flatMap (fun _ => [mt d.nx d.nx true 0, mt d.nu d.nx false 0, mt d.nu d.nu true 0, mt d.nx d.nx false 2,
      mt d.nx d.nu false 2, mt d.c d.w false 4]) ++ [mt d.nx d.nx true 0] ++
    (upTo d.N).flatMap (fun _ => [vc d.nx 1, vc d.nu 1, vc d.nx 3, vc d.c 5, vc d.c 6, vc d.w 7, vc d.w 8]) ++
    [vc d.nx 1, vc d.nx 9]
  else
    [mt d.n d.n true 0, mt d.p d.n false 2, mt d.q d.n false 4, vc d.n 1, vc d.p 3, vc d.q 5, vc d.q 6, vc d.n 7, vc d.n 8]

def Blk.count (b : Blk) : Nat := b.rows * b.cols

/-- Bytes of a block in its format, to the next 64-byte boundary. -/
def Blk.bytes (mf vf : Nat) (b : Blk) : Nat := up64 (packedBytes (if b.mat then mf else vf) b.count)

/-- Bytes of one problem's data. -/
def Dims.dataBytes (d : Dims) (mf vf : Nat) : Nat := (d.blocks.map (Blk.bytes mf vf)).sum

/-- The areas of a forward descriptor as (address, bytes): DATA, WORK, RES, OUT. -/
def svAreas (w : List Nat) : List (Nat × Nat) :=
  let d := svDims w
  if d.form = 3 then [(svData w, 0), (svWork w, 0), (svRes w, 0), (svOut w, 0)]
  else [(svData w, d.count * d.dataBytes (svMFmt w) (svVFmt w)), (svWork w, d.work), (svRes w, d.resBytes),
   (svOut w, if svOCopy w then (d.count - 1) * up64 (packedBytes (svOFmt w) d.primal) + packedBytes (svOFmt w) d.primal else 0)]

/-- Any two of a list of areas overlap. -/
def anyOverlap : List (Nat × Nat) → Bool
  | [] => false
  | a :: l => l.any (overlaps a) || anyOverlap l

/-! ## Entry checks (R150, R174, R191) -/

def svFmtM (f : Nat) : Bool := decide (f ≤ 7)
def svFmtV (f : Nat) : Bool := decide (f = 0 ∨ f = 1 ∨ f = 2 ∨ f = 3 ∨ f = 5)
def svFmtO (f : Nat) : Bool := decide (1 ≤ f ∧ f ≤ 7)

/-- A descriptor occupies, or releases, a factor slot (R191). -/
def svOccupies (i : Nat) (occ : Bool) (w : List Nat) : Bool :=
  if svKind w = 0 then occ || (svRetain w && decide (svFSlot w = i))
  else if svKind w = 1 then occ && !(wbit w 0 5 && decide (wfld w 0 4 3 = i))
  else if svKind w = 2 then occ && decide (wfld w 0 4 3 ≠ i)
  else occ

/-- The slot counts as occupied for a new descriptor (R191). -/
def Mach.slotTaken (m : Mach) (n i : Nat) : Bool :=
  let x := m.svOf n
  let run := match x.running with | some r => [r.item.words] | none => []
  (run ++ x.queue.map (·.words)).foldl (svOccupies i) (m.svSlot n i).isSome

/-- A pending commit changes slot i (R174). -/
def Mach.slotChanging (m : Mach) (n i : Nat) : Bool :=
  let p := solvPage n
  ((m.hdr p).pending || (m.hdr p).checking) && [Reg.SOLV.FSLOT_ADDR, Reg.SOLV.FSLOT_SIZE, Reg.SOLV.FSLOT_VALID].any
    (fun f => decide (m.live p f i ≠ m.act p f i))

/-- A factor slot in force as (address, bytes); nothing when it is not valid. -/
def Mach.slotArea (m : Mach) (n i : Nat) : Nat × Nat :=
  let p := solvPage n
  (m.act p Reg.SOLV.FSLOT_ADDR i, if m.act p Reg.SOLV.FSLOT_VALID i = 1 then m.act p Reg.SOLV.FSLOT_SIZE i * 64 else 0)

/-- Reserved bits of a forward descriptor. -/
def svReserved (w : List Nat) : Bool :=
  decide (wfld w 0 31 23 ≠ 0 ∨ wfld w 0 63 48 ≠ 0 ∨ wfld w 1 63 38 ≠ 0 ∨ wfld w 2 63 29 ≠ 0 ∨ wfld w 3 63 48 ≠ 0 ∨
    wfld w 4 63 24 ≠ 0 ∨ wfld w 5 63 48 ≠ 0 ∨ wfld w 6 63 48 ≠ 0 ∨ wfld w 7 63 32 ≠ 0 ∨ wfld w 9 63 16 ≠ 0) ||
    (upTo 6).any (fun i => decide (wordAt w (10 + i) ≠ 0))

/-- Where the area of a list leaves the solver pond or is not aligned. -/
def areaBad (a : Nat × Nat) : Bool := decide (a.1 % 64 ≠ 0 ∨ 0x1000000 < a.1 + a.2)

/-- The first failing code of R150 for a forward descriptor, in table order; 0 when none. The areas of a reserved FORM have no
size. DEDUCED, log 23. -/
def Mach.svCode (m : Mach) (n : Nat) (w : List Nat) : Nat :=
  let d := svDims w
  let areas := svAreas w
  let ws := (svWs w, if d.form = 3 then 0 else d.resBytes)
  let i := svFSlot w
  if d.bad || (svShift w && decide (d.form ≠ 1)) then 0x01
  else if !svFmtM (svMFmt w) || !svFmtV (svVFmt w) || !svFmtO (svOFmt w) then 0x02
  else if areas.any areaBad || (svWarm w && areaBad ws) then 0x03
  else if anyOverlap (if svRetain w then m.slotArea n i :: areas else areas) ||
      (svWarm w && ((areas.take 2 ++ areas.drop 3) ++ (if svRetain w then [m.slotArea n i] else [])).any (overlaps ws)) then 0x04
  else if svRetain w && (m.slotTaken n i || m.slotChanging n i) then 0x05
  else if svRetain w && decide ((m.slotArea n i).2 < (if d.form = 3 then 0 else d.fact) ∨ m.act (solvPage n) Reg.SOLV.FSLOT_VALID i ≠ 1) then 0x06
  else if !m.timeValid then 0x07
  else if svReserved w || decide (d.form = 3) then 0x08
  else 0

/-- A format code or scale that R42 and R63 refuse before R150. -/
def Mach.svEarly (m : Mach) (w : List Nat) : Option Nat :=
  if fmtReserved (svMFmt w) || fmtReserved (svVFmt w) || fmtReserved (svOFmt w) then some 20
  else if (decide (svMFmt w ≠ 0) && !scaleOk (m.slot (svSM w)).scale) ||
      (decide (svVFmt w ≠ 0) && !scaleOk (m.slot (svSV w)).scale) ||
      (svOCopy w && !scaleOk (m.slot (svSO w)).scale) then some 21
  else none

/-! ## Backward descriptor fields and entry checks (R183, R187, R188) -/

def bwMode (w : List Nat) : Nat := wfld w 0 2 2
def bwSlot (w : List Nat) : Nat := wfld w 0 4 3
def bwRelease (w : List Nat) : Bool := wbit w 0 5
def bwAFmt (w : List Nat) : Nat := wfld w 0 9 6
def bwGFmt (w : List Nat) : Nat := wfld w 0 13 10
def bwRnd (w : List Nat) : Bool := wbit w 0 14
def bwMask (w : List Nat) : Nat := wfld w 1 8 0
def bwX0 (w : List Nat) : Bool := wbit w 1 9
def bwFTag (w : List Nat) : Nat := wfld w 2 15 0
def bwSA (w : List Nat) : Nat := wfld w 2 31 16
def bwSG (w : List Nat) : Nat := wfld w 2 47 32
def bwRes (w : List Nat) : Nat := wfld w 3 23 0
def bwAdj (w : List Nat) : Nat := wfld w 3 47 24
def bwData (w : List Nat) : Nat := wfld w 4 23 0
def bwWork (w : List Nat) : Nat := wfld w 4 47 24
def bwGOut (w : List Nat) : Nat := wfld w 5 23 0
def bwBRes (w : List Nat) : Nat := wfld w 5 47 24
def bwSM (w : List Nat) : Nat := wfld w 6 15 0
def bwSV (w : List Nat) : Nat := wfld w 6 31 16

/-- The blocks whose gradients a descriptor asks for (R183, R186). -/
def bwBlocks (w : List Nat) (d : Dims) : List Blk :=
  d.blocks.filter (fun b => if b.group = 9 then bwX0 w else (bwMask w).testBit b.group)

/-- Bytes of one problem's gradients. -/
def bwGBytes (w : List Nat) (d : Dims) : Nat :=
  ((bwBlocks w d).map (fun b => up64 (packedBytes (bwGFmt w) b.count))).sum

/-- The sizes that a slot's forward had, or that a queued forward on the slot has. -/
def Mach.bwDims (m : Mach) (n : Nat) (w : List Nat) : Option (Dims × Nat × Nat) :=
  let x := m.svOf n
  let run := match x.running with | some r => [r.item.words] | none => []
  match ((run ++ x.queue.map (·.words)).filter
      (fun v => decide (svKind v = 0 ∧ svFSlot v = bwSlot w) && svRetain v)).getLast? with
  | some v => some (svDims v, svMFmt v, svVFmt v)
  | none => none

/-- The areas of a backward descriptor: RES, ADJ, DATA, WORK, GOUT, BRES. Without known sizes an area is its first byte. -/
def bwAreas (w : List Nat) (d : Option (Dims × Nat × Nat)) : List (Nat × Nat) :=
  match d with
  | some (d, mf, vf) =>
    [(bwRes w, d.resBytes), (bwAdj w, (d.count - 1) * up64 (packedBytes (bwAFmt w) d.primal) + packedBytes (bwAFmt w) d.primal),
     (bwData w, d.count * d.dataBytes mf vf),
     (bwWork w, d.count * (32 * d.ews) + (if bwMode w = 1 then d.work else 0)), (bwGOut w, d.count * bwGBytes w d),
     (bwBRes w, 128 * d.count)]
  | none => [(bwRes w, 1), (bwAdj w, 1), (bwData w, 1), (bwWork w, 1), (bwGOut w, 1), (bwBRes w, 128)]

/-- Reserved bits of a backward or release descriptor. -/
def bwReserved (w : List Nat) : Bool :=
  if svKind w = 2 then
    decide (wfld w 0 2 2 ≠ 0 ∨ wfld w 0 31 5 ≠ 0 ∨ wfld w 0 63 48 ≠ 0) || (upTo 15).any (fun i => decide (wordAt w (1 + i) ≠ 0))
  else
    decide (wfld w 0 31 15 ≠ 0 ∨ wfld w 0 63 48 ≠ 0 ∨ wfld w 1 63 10 ≠ 0 ∨ wfld w 2 63 48 ≠ 0 ∨ wfld w 3 63 48 ≠ 0 ∨
      wfld w 4 63 48 ≠ 0 ∨ wfld w 5 63 48 ≠ 0 ∨ wfld w 6 63 32 ≠ 0) || (upTo 9).any (fun i => decide (wordAt w (7 + i) ≠ 0))

/-- The first failing code of a backward or release descriptor at queue entry (R187). The sizes are those of the forward
whose factorisation it names: the one in the slot, or one queued for it. -/
def Mach.bwCode (m : Mach) (n : Nat) (w : List Nat) (held : Option (Dims × Nat × Nat)) : Nat :=
  if svKind w = 2 then (if bwReserved w then 0x08 else 0)
  else
    let areas := bwAreas w held
    let slots := (upTo 4).map (m.slotArea n)
    let own := areas.drop 3
    if (decide (bwMask w = 0) && !bwX0 w) || (bwX0 w && (match held with | some (d, _) => decide (d.form ≠ 1) | none => false)) then 0x01
    else if !svFmtM (bwAFmt w) || !svFmtM (bwGFmt w) then 0x02
    else if areas.any areaBad then 0x03
    else if anyOverlap areas || own.any (fun a => slots.any (overlaps a)) then 0x04
    else if bwReserved w then 0x08
    else 0

/-- A format code or scale that a backward is refused for before its codes (R42, R63). With the slot empty and no retaining forward queued
the forward's formats are not known, and SM and SV count as used. DESIGN CHOICE, log 100. -/
def Mach.bwEarly (m : Mach) (w : List Nat) (held : Option (Dims × Nat × Nat)) : Option Nat :=
  if svKind w = 2 then none
  else if fmtReserved (bwAFmt w) || fmtReserved (bwGFmt w) then some 20
  else
    let mf := match held with | some (_, f, _) => f | none => 1
    let vf := match held with | some (_, _, f) => f | none => 1
    if (decide (bwAFmt w ≠ 0) && !scaleOk (m.slot (bwSA w)).scale) || (decide (bwGFmt w ≠ 0) && !scaleOk (m.slot (bwSG w)).scale) ||
      (decide (mf ≠ 0) && !scaleOk (m.slot (bwSM w)).scale) || (decide (vf ≠ 0) && !scaleOk (m.slot (bwSV w)).scale) then some 21
    else none

/-! ## Queue (R147, R148) -/

/-- A descriptor completes: its issuer learns TAG, refusal, poison and STATUS; a ring's entry finishes (R147, R440). -/
def Mach.svRetire (m : Mach) (n : Nat) (it : SvItem) (queued refused poisoned : Bool) (status : Option Nat) : Mach :=
  let tag := svTag it.words
  match it.ring with
  | some (r, i) =>
    m.ringFinish r i 0 (tag + 2 ^ 16 * b2n refused + 2 ^ 17 * b2n poisoned + 2 ^ 20 * (if refused then 15 else status.getD 0))
  | none =>
    let u := 180 + n
    let x := (m.ctx u it.ctx).sv
    let fwd := decide (svKind it.words = 0)
    let y : Issued := { out := if queued then x.out - 1 else x.out, tag := tag, refused := x.refused || refused,
                        poisoned := x.poisoned || poisoned,
                        code := if fwd then (if refused then 15 else status.getD x.code) else x.code }
    let m1 := m.setCtx u it.ctx { m.ctx u it.ctx with sv := y }
    if y.out = 0 ∧ (m1.ctx u it.ctx).state = .waiting ∧ (m1.ctx u it.ctx).wait = .svWait then m1.wake u it.ctx else m1

/-- A refusal (R150): code 0 is one reported by another event. -/
def Mach.svRefuse (m : Mach) (n : Nat) (it : SvItem) (code : Nat) (queued : Bool) : Mach :=
  let p := solvPage n
  let m1 := if code = 0 then m
    else ((m.setLive p Reg.SOLV.SV_LAST_REFUSE_CODE code).setLive p Reg.SOLV.SV_LAST_REFUSE_TAG (svTag it.words)).raise p 16
  m1.svRetire n it queued true false none

/-- What a descriptor keeps from its entry. -/
def Mach.svItem (m : Mach) (n c : Nat) (ring : Option (Nat × Nat)) (w : List Nat) : SvItem :=
  let p := solvPage n
  { ctx := c, ring := ring, words := w, entered := m.now, seed := m.seed, step := m.act p Reg.SOLV.SRCTL_STEP,
    pivtol := m.act p Reg.SOLV.SVCTL_PIVTOL, regdelta := m.act p Reg.SOLV.SVCTL_REGDELTA,
    epsexp := m.act p Reg.SOLV.SVCTL_EPSEXP, infexp := m.act p Reg.SOLV.SVCTL_INFEXP,
    actexp := m.act p Reg.SOLV.DVCTL_ACTEXP, denorm := m.denorm (180 + n) }

/-- The sizes by which a backward is checked: those of a queued forward on its slot, else of the record that the slot
retains. -/
def Mach.bwHeld (m : Mach) (n : Nat) (w : List Nat) : Option (Dims × Nat × Nat) :=
  match m.bwDims n w with
  | some d => some d
  | none => (m.svSlot n (bwSlot w)).map (fun s => (dimsOf s.form s.w1 s.w2, s.mfmt, s.vfmt))

/-- The ranges of the solver pond that a queued descriptor may touch: its areas, the warm start, and its factor slot. -/
def Mach.svTouches (m : Mach) (n : Nat) (w : List Nat) : List (Nat × Nat) :=
  if svKind w = 0 then (svWs w, (svDims w).resBytes) :: m.slotArea n (svFSlot w) :: svAreas w
  else if svKind w = 1 then
    bwAreas w ((m.svSlot n (bwSlot w)).map (fun s => (dimsOf s.form s.w1 s.w2, s.mfmt, s.vfmt)))
  else []

/-- A row that a descriptor may touch is being copied into a spare row, so the sequencer's accesses are held (R418). -/
def Mach.svRowHeld (m : Mach) (n : Nat) (w : List Nat) : Bool :=
  !m.ras.repairs.isEmpty && (m.svTouches n w).any (fun r => m.rowHeld (pondKey (180 + n) r.1) r.2)

/-- A descriptor enters the queue or is refused (R150, R187). -/
def Mach.svEnter (m : Mach) (n c : Nat) (ring : Option (Nat × Nat)) (w : List Nat) : Mach :=
  let it := m.svItem n c ring w
  let held := m.bwHeld n w
  let early := if svKind w = 0 then m.svEarly w else if svKind w = 3 then none else m.bwEarly w held
  match early with
  | some b => (m.raise (solvPage n) b).svRefuse n it 0 false
  | none =>
    let code := if svKind w = 0 then m.svCode n w else if svKind w = 3 then (if m.timeValid then 0x08 else 0x07)
      else m.bwCode n w held
    if code ≠ 0 then m.svRefuse n it code false
    else
      let x := m.svOf n
      let m1 := m.setSv n { x with queue := x.queue ++ [it] }
      match ring with
      | some _ => m1
      | none =>
        let y := m1.ctx (180 + n) c
        m1.setCtx (180 + n) c { y with sv := { y.sv with out := y.sv.out + 1 } }

/-- SV.RUN (R147, R148): illegal in a tensor cell; a full queue is waited for. -/
def Mach.svRun (m : Mach) (u c : Nat) (ga : RegNo) (imm : BitVec 13) : Mach :=
  if !isSolver u then m.fault u c 0x01
  else m.withDesc u c (descAddr (m.g u c ga) imm) 128 64 (fun w =>
      if 16 ≤ (m.svOf (u - 180)).queue.length then m.sleep u c .svQueue
      else (m.svEnter (u - 180) c none w).advance u c)

/-- R147. SV.RUN. -/
def execSvRun (u : UnitId) (c : CtxId) (_gd ga : RegNo) (imm : BitVec 13) (s : State) : Host.Outcome State Fault Refusal :=
  s.issue u c (fun m => m.svRun u.val c.val ga imm)

/-- SV.WAIT (R147). -/
def Mach.svWaitOp (m : Mach) (u c : Nat) (gd : RegNo) : Mach :=
  if !isSolver u then m.fault u c 0x01
  else
    let x := (m.ctx u c).sv
    if x.out ≠ 0 then m.sleep u c .svWait
    else (m.setCtx u c { m.ctx u c with sv := { x with refused := false, poisoned := false } }).writeBack u c gd
      (x.word ||| w64 (x.code % 16 * 2 ^ 20))

/-- R147. SV.WAIT. -/
def execSvWait (u : UnitId) (c : CtxId) (gd _ga : RegNo) (_imm : BitVec 13) (s : State) : Host.Outcome State Fault Refusal :=
  s.issue u c (fun m => m.svWaitOp u.val c.val gd)

/-- R147. SV.POLL. -/
def execSvPoll (u : UnitId) (c : CtxId) (gd _ga : RegNo) (_imm : BitVec 13) (s : State) : Host.Outcome State Fault Refusal :=
  s.issue u c (fun m => if !isSolver u.val then m.fault u.val c.val 0x01
    else m.writeBack u.val c.val gd (w64 (m.ctx u.val c.val).sv.out))

/-! ## Cycle bounds and time left (R163 to R166) -/

def bndP (a b c : Nat) : Nat := ceilDiv a 16 * ceilDiv c 32 * b + 8
def bndF (s : Nat) : Nat := 22 * s + ceilDiv (s ^ 3) 1536
def bndT (s : Nat) : Nat := 4 * s + ceilDiv (s ^ 2) 512
def bndV (a b : Nat) : Nat := ceilDiv (a * b) 512 + 8

/-- Data entries whose format is not FP64. -/
def svEw (w : List Nat) : Nat :=
  let d := svDims w
  d.count * ((d.blocks.filter (fun b => if b.mat then decide (svMFmt w ≠ 0) else decide (svVFmt w ≠ 0))).map Blk.count).sum

def Dims.groups (d : Dims) : Nat := ceilDiv d.P 32

def svTStart (w : List Nat) : Nat :=
  let d := svDims w
  ceilDiv (svEw w + 2 * (if svWarm w then d.count * d.ews else 0)) 32 + 64

def Dims.tRes (d : Dims) : Nat :=
  if d.form = 1 then
    d.N * (2 * bndV d.nx d.nx + 2 * bndV d.nx d.nu + 2 * bndV d.c d.w + 2 * (d.c + d.w)) + 16
  else if d.form = 0 then bndV d.n d.n + 2 * bndV d.m d.n + 2 * (d.m + d.n) + 16
  else d.groups * (ceilDiv (d.n ^ 2) 16 + 2 * ceilDiv (d.m * d.n) 16 + 2 * (d.m + d.n) + 16)

/-- F and S of the stage form. -/
def Dims.bigF (d : Dims) : Nat :=
  2 * bndP d.nx d.nx d.nx + 3 * bndP d.nx d.nx d.nu + bndP d.nu d.nx d.nu + bndP d.w d.c d.w + bndF d.nu + 2 * bndP d.nu d.nu d.nx
def Dims.bigS (d : Dims) : Nat := 2 * bndV d.nx d.nx + 2 * bndV d.nx d.nu + 2 * bndT d.nu + 2 * bndV d.c d.w

def Dims.tFact (d : Dims) : Nat :=
  if d.form = 1 then d.N * d.bigF
  else if d.form = 0 then bndP d.n d.q d.n + bndF d.s
  else d.groups * (ceilDiv (d.q * d.n ^ 2) 16 + 22 * d.s + ceilDiv (d.s ^ 3) 96)

def Dims.tIter (d : Dims) : Nat :=
  d.tRes +
  (if d.form = 1 then 2 * d.N * (d.bigF + 2 * d.bigS) + 2 * d.N * (d.c + d.w) + 24
   else if d.form = 0 then
     2 * (bndP d.n d.q d.n + bndF d.s + 4 * bndT d.s + 4 * bndV d.m d.n) + 2 * (d.m + d.n) + 24
   else d.groups * (2 * (ceilDiv (d.q * d.n ^ 2) 16 + 22 * d.s + ceilDiv (d.s ^ 3) 96 + 4 * (4 * d.s + ceilDiv (d.s ^ 2) 16) +
     4 * ceilDiv (d.m * d.n) 16) + 2 * (d.m + d.n) + 24))

def svRRet (w : List Nat) : Nat := if svRetain w then (svDims w).tFact else 0

/-- The issue value a_f of a unit's field (R467, R468). -/
def Mach.issueRate (m : Mach) (u : Nat) : Nat :=
  match fieldOf u with
  | 0 => m.live pwrPage Reg.PWR.THROTTLE_A_0
  | 1 => m.live pwrPage Reg.PWR.THROTTLE_A_1
  | 2 => m.live pwrPage Reg.PWR.THROTTLE_A_2
  | _ => m.live pwrPage Reg.PWR.THROTTLE_A_3

/-- The remaining time to a deadline holds B active cycles at the rate in force: D − t ≥ B × 0.4 ns × 16 / a (R166). -/
def Mach.timeHolds (m : Mach) (n deadline b : Nat) : Bool :=
  decide (m.now ≤ deadline ∧ 32 * b ≤ 5 * m.issueRate (180 + n) * (deadline - m.now))

/-- The start test of R164. -/
def Mach.startHolds (m : Mach) (n : Nat) (w : List Nat) : Bool :=
  m.timeHolds n (svDeadline w) (svTStart w + (svDims w).tRes + svRRet w)

/-- The test of R165 before an iteration. -/
def Mach.iterHolds (m : Mach) (n : Nat) (w : List Nat) : Bool :=
  m.timeHolds n (svDeadline w) ((svDims w).tIter + (svDims w).tRes + svRRet w)

/-! ## Reading the data (R149, R151, R159) -/

/-- A block as it is widened: codes by rows, and whether an entry was poisoned. Above the diagonal of a symmetric block
stands the entry below it. -/
def Mach.readBlk (m : Mach) (base fmt : Nat) (scale : Num) (b : Blk) : Mat × Bool :=
  let wd := fmtWidth fmt
  let idx := fun i j => if b.sym ∧ i < j then j * b.cols + i else i * b.cols + j
  let code := fun k =>
    let v := m.elemAt base wd k
    if fmt = 0 then v else (f64 (Num.mul (decode fmt v) scale)).code
  ((upTo b.rows).map (fun i => (upTo b.cols).map (fun j => code (idx i j))),
   (upTo b.rows).any (fun i => (upTo b.cols).any (fun j => m.elemBad base wd (idx i j))))

/-- The blocks of a problem, from an address. -/
def Mach.readBlks (m : Mach) (u mf vf : Nat) (sm sv : Num) : Nat → List Blk → List (Mat × Bool)
  | _, [] => []
  | a, b :: bs =>
    m.readBlk (pondKey u a) (if b.mat then mf else vf) (if b.mat then sm else sv) b ::
      m.readBlks u mf vf sm sv (a + b.bytes mf vf) bs

/-- A column block as a vector. -/
def colVec (b : Mat) : List Nat := b.map (fun r => r.getD 0 0)

/-- The rows of a symmetric or general matrix as sparse rows from an index. -/
def sparseMat (i : Nat) (a : Mat) : List Sparse := a.map (sparseRow i)

/-- Box bounds of variables from an index. -/
def boxRows (i : Nat) (lb ub : List Nat) : List QRow :=
  (upTo lb.length).map (fun j => { coef := [(i + j, f64One)], lb := vget lb j, ub := vget ub j, box := true })

/-- A dense problem from its blocks. -/
def denseQp (d : Dims) (bs : List Mat) : Qp :=
  let b := fun i => bs.getD i []
  { n := d.n, h := sparseMat 0 (b 0), f := colVec (b 3), a := sparseMat 0 (b 1), b := colVec (b 4),
    rows := List.zipWith (fun r (e : Nat × Nat) => ({ coef := sparseRow 0 r, lb := e.1, ub := e.2, box := false } : QRow)) (b 2)
        (List.zip (colVec (b 5)) (colVec (b 6))) ++ boxRows 0 (colVec (b 7)) (colVec (b 8)),
    const := 0, stages := [], qN := [], x0 := [] }

/-- A stage problem as the dense problem in (u_0, x_1, …, x_N) with x_0 constant (R179). The sides of a stage-0 row are compared after
C_0,x x_0 has been subtracted from both (R145). DESIGN CHOICE, log 100. -/
def stageQp (d : Dims) (bs : List Mat) : Qp :=
  let nx := d.nx
  let nu := d.nu
  let w := nx + nu
  let mb := fun k i => bs.getD (6 * k + i) []
  let vb := fun k i => colVec (bs.getD (6 * d.N + 1 + 7 * k + i) [])
  let qN := bs.getD (6 * d.N) []
  let last := 6 * d.N + 1 + 7 * d.N
  let x0 := colVec (bs.getD (last + 1) [])
  let st := (upTo d.N).map (fun k => ({ q := mb k 0, s := mb k 1, r := mb k 2, a := mb k 3, b := mb k 4, c := mb k 5 } : QStage))
  let xi := fun k => k * w - nx
  let zero : QStage := { q := [], s := [], r := [], a := [], b := [], c := [] }
  let sg := fun k => st.getD k zero
  let hu := fun k => List.zipWith (fun (s r : List Nat) =>
    (if k = 0 then [] else sparseRow (xi k) s) ++ sparseRow (k * w) r) (sg k).s (sg k).r
  let hx := fun k => if k = d.N then sparseMat (xi k) qN
    else List.zipWith (fun (q s : List Nat) => sparseRow (xi k) q ++ sparseRow (k * w) s) (sg k).q (mcols nx (sg k).s)
  { n := d.N * w
    h := (upTo d.N).flatMap (fun k => hu k ++ hx (k + 1))
    f := (upTo d.N).flatMap (fun k =>
      (if k = 0 then vadd (vb 0 1) (mulV (sg 0).s x0) else vb k 1) ++
      (if k + 1 = d.N then colVec (bs.getD last []) else vb (k + 1) 0))
    a := (upTo d.N).flatMap (fun k => (upTo nx).map (fun i =>
      (if k = 0 then [] else sparseRow (xi k) ((sg k).a.getD i [])) ++ sparseRow (k * w) ((sg k).b.getD i []) ++
        [(k * w + nu + i, f64Neg f64One)]))
    b := (upTo d.N).flatMap (fun k => vneg (if k = 0 then vadd (vb 0 2) (mulV (sg 0).a x0) else vb k 2))
    rows := (upTo d.N).flatMap (fun k =>
      (upTo d.c).map (fun i =>
        let r := (sg k).c.getD i []
        let fix := if k = 0 then fdot (r.take nx) x0 else 0
        let side := fun (v : Nat) => if k = 0 then f64Sub v fix else v
        ({ coef := (if k = 0 then [] else sparseRow (xi k) (r.take nx)) ++ sparseRow (k * w) (r.drop nx)
           lb := side (vget (vb k 3) i), ub := side (vget (vb k 4) i), box := false } : QRow)) ++
      boxRows (k * w) (vb k 5) (vb k 6))
    const := f64Add (f64Mul 0x3FE0000000000000 (fdot x0 (mulV (sg 0).q x0))) (fdot (vb 0 0) x0)
    stages := st
    qN := qN
    x0 := x0 }

def qpOf (d : Dims) (bs : List Mat) : Qp := if d.form = 1 then stageQp d bs else denseQp d bs

/-- A NaN anywhere, or an infinity outside the bounds (R159). -/
def dataNonfinite (bks : List Blk) (bs : List Mat) : Bool :=
  (List.zip bks bs).any (fun e =>
    let bound := decide (5 ≤ e.1.group ∧ e.1.group ≤ 8)
    e.2.any (fun r => r.any (fun v => if bound then (f64Val v).isNan else !f64Finite v)))

/-- A side that R159 rules out, as the data hold it: (lower, upper) pairs. -/
def sideBad (l u : Nat) : Bool :=
  f64Lt u l || decide (f64Val l = .inf false) || decide (f64Val u = .inf true)

/-- lb and ub blocks of the data follow one another, for rows and for boxes. -/
def boundsBad : List Blk → List Mat → Bool
  | b :: b' :: bks, x :: y :: bs =>
    ((b.group = 5 ∧ b'.group = 6 ∨ b.group = 7 ∧ b'.group = 8) &&
      (List.zip (colVec x) (colVec y)).any (fun e => sideBad e.1 e.2)) || boundsBad (b' :: bks) (y :: bs)
  | _, _ => false

/-! ## Warm start (R160 to R162) -/

/-- An iterate from the entries of a record: the primal values, the equality multipliers, then the rows. -/
def iterOf (d : Dims) (es : List Nat) : SvIter :=
  let n := d.primal
  let k := if d.form = 1 then d.N * d.nx else d.p
  let r := es.drop (n + k)
  let cnt := if d.form = 1 then d.N * (d.c + d.w) else d.q + d.n
  { x := es.take n, y := (es.drop n).take k,
    rows := (chunks 4 cnt r).map (fun c => { sl := vget c 0, su := vget c 1, zl := vget c 2, zu := vget c 3 }) }

/-- The entries of a record (R152). -/
def SvIter.entries (w : SvIter) : List Nat := w.x ++ w.y ++ w.rows.flatMap (fun v => [v.sl, v.su, v.zl, v.zu])

/-- Move the stages of an iterate. -/
def moveStages (d : Dims) (old : Nat) (w : SvIter) (f : List (List Nat) → List (List Nat))
    (g : List (List RowVal) → List (List RowVal)) : SvIter :=
  { x := (f (chunks d.w old w.x)).flatten, y := (f (chunks d.nx old w.y)).flatten,
    rows := (g (chunks (d.c + d.w) old w.rows)).flatten }

/-- The warm start at an address: none when R161 and R162 discard it, or when its own N would take its entries past the pond. DESIGN
CHOICE, log 100. -/
def Mach.warmStart (m : Mach) (u : Nat) (w : List Nat) (p : Qp) (a : Nat) : Option SvIter :=
  let d := svDims w
  let h := wordsOf 4 (m.rdBytes 32 (pondKey u a))
  let od := dimsOf (wfld h 3 33 32) (wordAt h 1) (wordAt h 2)
  let same := decide (od = { d with N := od.N } ∧ wfld h 3 31 0 = svPattern w ∧ (d.form = 1 ∨ od.N = d.N)) && !od.bad
  if !(wbit h 0 12) || !same || decide (0x1000000 < a + 128 + 8 * od.ews) then none
  else
    let es := (upTo od.ews).map (fun i => m.elemAt (pondKey u (a + 128)) 64 i)
    let it := iterOf { d with N := od.N } es
    let it1 := if svShift w then moveStages d od.N it shiftStages shiftStages else it
    let it2 := if d.form = 1 ∧ od.N ≠ d.N then moveStages d od.N it1 (fitStages d.N) (fitStages d.N) else it1
    some (cleaned (svShift w || decide (od.N ≠ d.N)) p it2)

/-! ## Flags and header (R152, R170) -/

def flWsReject : Nat := 2 ^ 4
def flCold : Nat := 2 ^ 5
def flLate : Nat := 2 ^ 6
def flIterCap : Nat := 2 ^ 7
def flRefact : Nat := 2 ^ 8
def flNonfinite : Nat := 2 ^ 9
def flPoison : Nat := 2 ^ 10
def flBounds : Nat := 2 ^ 11
def flRvalid : Nat := 2 ^ 12
def flRetained : Nat := 2 ^ 13

/-- FP64 codes of the canonical NaN and of +infinity. -/
def f64Nan : Nat := (f64 (.nan false, 0)).code
def f64Inf : Nat := 0x7FF0000000000000

/-- A result whose iterate does not exist: NaN entries, infinite residuals (R158). -/
def svNoRes (obj : Nat) : SvRes := { rp := f64Inf, rd := f64Inf, rc := f64Inf, phi := f64Inf, obj := obj }

/-- The bytes and marks of a pond's range, as numbers. -/
def Mach.areaNums (m : Mach) (k n : Nat) : List Nat :=
  (m.rdBytes n k).map BitVec.toNat ++ (touched k n).map (fun t => b2n (SMap.get m.poison (fun _ => false) t))

/-- What the result of problem i depends on (R173): the descriptor but for its deadline, the settings and the solve program, and
the bytes and marks of the data and of the warm-start record. -/
def Mach.svKey (m : Mach) (n : Nat) (it : SvItem) (i : Nat) : List Nat :=
  let w := it.words
  let d := svDims w
  let area := fun (a k : Nat) => m.areaNums (pondKey (180 + n) a) k
  w.set 8 0 ++ [it.pivtol, it.regdelta, it.epsexp, it.infexp, Config.svromVersion, m.fwActive.patch, i] ++
    area (svData w + i * d.dataBytes (svMFmt w) (svVFmt w)) (d.dataBytes (svMFmt w) (svVFmt w)) ++
    (if svWarm w then area (svWs w + i * d.record) (128 + 8 * d.ews) else [])

/-- The problem starts: R159's checks, then its initial point (R154). Poison in the warm-start record, over the length that the descriptor's
own sizes give it, counts as poisoned data. DESIGN CHOICE, log 100. -/
def Mach.svProb (m : Mach) (n : Nat) (it : SvItem) (i : Nat) : SvProb :=
  let u := 180 + n
  let w := it.words
  let d := svDims w
  let bks := d.blocks
  let rd := m.readBlks u (svMFmt w) (svVFmt w) (f32Val (m.slot (svSM w)).scale) (f32Val (m.slot (svSV w)).scale)
    (svData w + i * d.dataBytes (svMFmt w) (svVFmt w)) bks
  let bs := rd.map (·.1)
  let p := qpOf d bs
  let wsA := svWs w + i * d.record
  let bad := rd.any (·.2) || (svWarm w && m.anyMarked (pondKey u wsA) (128 + 8 * d.ews))
  let nonfin := dataNonfinite bks bs
  let warm := if svWarm w then m.warmStart u w p wsA else none
  let start := match warm with | some x => x | none => coldStart p
  let fl := (if svWarm w ∧ warm.isNone then flWsReject else 0) + (if warm.isNone then flCold else 0)
  let bnd := !bad && !nonfin && boundsBad bks bs
  let key := m.svKey n it i
  { qp := p, cur := start, curRes := svNoRes (Config.solveOpen key 0 % 2 ^ 64), best := none, copy := [], iters := 0, npiv := 0,
    nrefact := 0, status := if bad || nonfin then some 4 else none
    flags := if bad then flPoison else if nonfin then flNonfinite else if bnd then fl + flBounds else fl
    retCur := bnd, key := key }

/-! ## Output copy (R172) -/

/-- The elements of an output copy: entry numbers continue over the problems of a batch. -/
def Mach.svCopyElems (m : Mach) (it : SvItem) (i : Nat) (xs : List Nat) : List SlotElem :=
  let w := it.words
  let d := svDims w
  let sl := m.slot (svSO w)
  (upTo xs.length).map (fun j =>
    let md : Rnd := if svRnd w then .sr (springR it.seed (springStream 2 (svSO w) it.step) (i * d.primal + j)) else .rne
    let r := sl.convertInto (svOFmt w) md it.denorm false (f64Val (vget xs j))
    ⟨r.1, r.2, false⟩)

/-- Write the output copy of problem i. -/
def Mach.svCopy (m : Mach) (n : Nat) (it : SvItem) (i : Nat) (es : List SlotElem) : Mach :=
  let w := it.words
  let wd := fmtWidth (svOFmt w)
  let base := svOut w + i * up64 (packedBytes (svOFmt w) (svDims w).primal)
  m.pondElems (180 + n) ((upTo es.length).filterMap (fun j => (es[j]?).map (fun e =>
    (⟨8 * base + wd * j, wd, e.coded.code, e.bad⟩ : ElemWrite))))

/-- Write the entries of the record of problem i. -/
def Mach.svEntries (m : Mach) (n : Nat) (it : SvItem) (i : Nat) (es : List Nat) (bad : Bool) : Mach :=
  let base := svRes it.words + i * (svDims it.words).record + 128
  (upTo es.length).foldl (fun m j => m.pondWrite (180 + n) (base + 8 * j) (toBytes 8 (vget es j)) bad) m

/-- A new best: its entries go to the record, and its primal values, converted now, to OUT (R155, R172). -/
def Mach.svBest (m : Mach) (n : Nat) (it : SvItem) (i : Nat) (p : SvProb) : SvProb × Mach :=
  let m1 := m.svEntries n it i p.cur.entries false
  if svOCopy it.words then
    let es := m.svCopyElems it i p.cur.x
    ({ p with copy := es }, m1.svCopy n it i es)
  else (p, m1)

/-! ## Running a solve -/

/-- Put a run's problem back. -/
def SvRun.set (r : SvRun) (i : Nat) (p : SvProb) : SvRun := { r with probs := r.probs.set i p }

/-- The work area and a factor slot hold what the spec does not state: open bytes of what the run depends on (R173, R194). -/
def Mach.svJunk (m : Mach) (n a len : Nat) (key : List Nat) : Mach :=
  m.pondWrite (180 + n) a ((upTo len).map (fun i => BitVec.ofNat 8 (Config.solveOpen key i))) false

/-- What the work area of a forward solve depends on at a moment of it. -/
def workKey (ps : List SvProb) (moment : Nat) : List Nat := ps.flatMap (·.key) ++ [moment, (ps.map (·.iters)).sum]

/-- The best after an evaluated iterate (R155): the first finite one, then one of strictly smaller merit. -/
def SvProb.consider (p : SvProb) : SvProb × Bool :=
  if p.cur.finite && (match p.best with | some (_, r) => f64Lt p.curRes.phi r.phi | none => true) then
    ({ p with best := some (p.cur, p.curRes) }, true)
  else (p, false)

/-- The tests of R156 after an evaluation; `room` says that the reserve window allows another iteration. -/
def SvProb.tests (p : SvProb) (it : SvItem) (room : Bool) : SvProb :=
  let eps := f64Pow2 (-(it.epsexp : Int))
  let conv := match p.best with | some (_, r) => f64Le r.phi eps | none => false
  if conv then { p with status := some 0 }
  else if certifies p.qp it.infexp p.cur then { p with status := some 3, retCur := true }
  else if 0 < svIters it.words ∧ p.iters = svIters it.words then { p with status := some 1, flags := p.flags + flIterCap }
  else if !room then { p with status := some (if p.iters = 0 then 2 else 1) }
  else p

/-- A forward solve starts, or ends at once with LATE_START (R164). -/
def Mach.svStart (m : Mach) (n : Nat) (it : SvItem) : Mach :=
  let x := m.svOf n
  let d := svDims it.words
  if m.startHolds n it.words then
    let rd := m.pondDelivered (180 + n) (svData it.words)
    let ps := (upTo d.count).map (rd.1.svProb n it)
    let run : SvRun := { item := it, tStart := m.now, begun := false, probs := ps, bwd := [], patch := m.fwActive.patch % 2 ^ 16,
                         inject := bit (m.hdr (solvPage n)).inject 23 }
    ((rd.2.setLive (solvPage n) Reg.SOLV.DEADLINE_AT (svDeadline it.words)).setSv n { x with running := some run }).svJunk n
      (svWork it.words) d.work (workKey ps 0)
  else
    let none' : SvProb := { qp := { n := 0, h := [], f := [], a := [], b := [], rows := [], const := 0, stages := [], qN := [], x0 := [] },
                            cur := { x := [], y := [], rows := [] }, curRes := svNoRes 0, best := none, copy := [], iters := 0,
                            npiv := 0, nrefact := 0, status := some 2, flags := flLate, retCur := false, key := [] }
    let run : SvRun := { item := it, tStart := m.now, begun := true, probs := List.replicate d.count none', bwd := [],
                         patch := m.fwActive.patch % 2 ^ 16, inject := false }
    (m.setLive (solvPage n) Reg.SOLV.DEADLINE_AT (svDeadline it.words)).setSv n { x with running := some run }

/-- The initial residuals of problem i, then the tests (R156). A problem that broke a bound ends here (R159). -/
def Mach.svInitProb (m : Mach) (n : Nat) (it : SvItem) (room : Bool) (i : Nat) (p : SvProb) : SvProb × Mach :=
  if p.status.isSome then (p, m)
  else
    let p1 := { p with curRes := residuals p.qp p.cur }
    let r := p1.consider
    let b := if r.2 then m.svBest n it i r.1 else (r.1, m)
    (if p1.retCur then { b.1 with status := some 3 } else b.1.tests it room, b.2)

/-- Run a step over the problems. -/
def Mach.svEach (m : Mach) (f : Mach → Nat → SvProb → SvProb × Mach) : Nat → List SvProb → List SvProb × Mach
  | _, [] => ([], m)
  | i, p :: ps =>
    let r := f m i p
    let rest := r.2.svEach f (i + 1) ps
    (r.1 :: rest.1, rest.2)

/-- R156. Widening and the initial residuals are done. -/
def Mach.svInit (m : Mach) (n : Nat) : Mach :=
  match (m.svOf n).running with
  | none => m
  | some run =>
    if run.begun || decide (svKind run.item.words ≠ 0) || !m.computeUp || m.svRowHeld n run.item.words then m
    else
      let room := m.iterHolds n run.item.words
      let b := svTStart run.item.words + (svDims run.item.words).tRes
      let r := (m.spend (solvPage n) Reg.SOLV.SV_BUSY_CYC b).svEach (fun m i p => m.svInitProb n run.item room i p) 0 run.probs
      r.2.setSv n { r.2.svOf n with running := some { run with begun := true, probs := r.1 } }

/-- R156. -/
def execInitialResidualsDone (n : SolvId) (s : State) : Host.Outcome State Fault Refusal :=
  s.run true (fun m => m.svInit n.val)

/-- SVROM.VERSION: the version of the ROM, which the spec leaves open (R144). -/
def svromNow : Nat := Config.svromVersion % 2 ^ 16

/-- Count replaced pivots. -/
def Mach.svPivots (m : Mach) (n k : Nat) : Mach := m.bump (solvPage n) Reg.SOLV.PIV_REPL k

/-- One iteration of problem i (R155, R158): the step, at most one refactorisation, the new iterate and the tests. An injection
that waited when the solve started acts on its first step (R176). -/
def Mach.svIterProb (m : Mach) (n : Nat) (it : SvItem) (armed room : Bool) (i : Nat) (p : SvProb) : SvProb × Mach :=
  if p.status.isSome then (p, m)
  else
    let inj := if armed then m.takeInject (solvPage n) 23 else (false, m)
    let m0 := inj.2
    let pr : PivRule := { tol := it.pivtol, reg := it.regdelta, boost := false }
    let s1 := stepDir p.qp pr p.cur
    let ok1 := !inj.1 && s1.1.finite && f64Finite s1.2.1
    let s := if ok1 then s1 else stepDir p.qp { pr with boost := true } p.cur
    let m1 := if ok1 then m0.svPivots n s1.2.2
      else (((m0.svPivots n (s1.2.2 + s.2.2)).raise (solvPage n) 23).bump (solvPage n) Reg.SOLV.REFACT).report412
          (solvPage n) 0x10 0 .logged inj.1 false
    let p1 := if ok1 then { p with npiv := p.npiv + s1.2.2 }
      else { p with npiv := p.npiv + s1.2.2 + s.2.2, nrefact := p.nrefact + 1, flags := p.flags ||| flRefact }
    if s.1.finite && f64Finite s.2.1 then
      let w := stepIter p.qp p.cur s.1 s.2.1
      let p2 := { p1 with cur := w, curRes := residuals p.qp w, iters := p.iters + 1 }
      let r := p2.consider
      let b := if r.2 then m1.svBest n it i r.1 else (r.1, m1)
      (b.1.tests it room, b.2)
    else ({ p1 with status := some 4 }, m1)

/-- R156. An iteration ends. -/
def Mach.svIterate (m : Mach) (n : Nat) : Mach :=
  match (m.svOf n).running with
  | none => m
  | some run =>
    if !run.begun || decide (svKind run.item.words ≠ 0) || run.probs.all (fun p => p.status.isSome) || !m.computeUp ||
        m.svRowHeld n run.item.words then m
    else
      let room := m.iterHolds n run.item.words
      let m0 := m.spend (solvPage n) Reg.SOLV.SV_BUSY_CYC (svDims run.item.words).tIter
      let r := m0.svEach (fun m i p => m.svIterProb n run.item run.inject room i p) 0 run.probs
      let done := (List.zip run.probs r.1).any (fun e => decide (e.1.iters < e.2.iters))
      ((r.2.setSv n { r.2.svOf n with running := some { run with probs := r.1, inject := false } }).bump (solvPage n)
        Reg.SOLV.ITERS_DONE (b2n done)).svJunk n (svWork run.item.words) (svDims run.item.words).work (workKey r.1 1)

/-- R156. -/
def execSolveIterationEnd (n : SolvId) (s : State) : Host.Outcome State Fault Refusal := s.run true (fun m => m.svIterate n.val)

/-! ## Completion (R158, R165, R169 to R172, R189) -/

/-- The iterate that the record returns, with its residuals. -/
def SvProb.returned (p : SvProb) : Option (SvIter × SvRes) := if p.retCur then some (p.cur, p.curRes) else p.best

/-- Header words of a result record (R152). -/
def svHeader (it : SvItem) (rom tStart now : Nat) (status flags iters npiv nrefact : Nat) (r : SvRes) : List Nat :=
  let w := it.words
  [status + flags + iters % 2 ^ 16 * 2 ^ 16 + svTag w * 2 ^ 32 + rom * 2 ^ 48, wordAt w 1, wordAt w 2,
   svPattern w + svForm w * 2 ^ 32, npiv % 2 ^ 32 + nrefact % 2 ^ 16 * 2 ^ 32, r.rp, r.rd, r.rc, r.obj, tStart, now,
   svDeadline w, 0, 0, 0, 0]

/-- Write words into a solver pond. -/
def Mach.svWords (m : Mach) (n a : Nat) (ws : List Nat) : Mach :=
  (upTo ws.length).foldl (fun m i => m.pondWrite (180 + n) (a + 8 * i) (toBytes 8 (wordAt ws i)) false) m

/-- A problem ends with a factorisation to retain (R189). -/
def SvProb.keeps (p : SvProb) (w : List Nat) : Bool :=
  svRetain w && (match p.returned with | some (x, _) => x.finite | none => false) && decide (p.status.getD 4 ≤ 2) &&
    decide (p.flags &&& flLate = 0)

/-- Post the record of problem i: its entries, the reports of its output copy as it stands (R172), and its header; whether it was written
poisoned, its status, and its factorisation when the descriptor retains, which it does only for all its problems together (R170,
R189). DEDUCED, log 25. -/
def Mach.svPost (m : Mach) (n : Nat) (run : SvRun) (i : Nat) (p : SvProb) : Mach × Bool × Nat × Option (Fact × Nat) :=
  let it := run.item
  let w := it.words
  let d := svDims w
  let late := decide (p.flags &&& flLate ≠ 0)
  let bad := decide (p.flags &&& flPoison ≠ 0)
  let st := p.status.getD 4
  let ret := p.returned
  let fin := match ret with | some (x, _) => x.finite | none => false
  let nans := (List.replicate d.ews f64Nan)
  let m1 := if late then m
    else match ret with
      | some (x, _) => m.svEntries n it i x.entries false
      | none => m.svEntries n it i (if bad then (upTo d.ews).map (fun j => Config.solveOpen p.key (2 * j + 2) % 2 ^ 64) else nans) bad
  let outX := match ret with
    | some (x, _) => x.x
    | none => List.replicate d.primal f64Nan
  let es := if bad then (upTo d.primal).map (fun j => (⟨.fin false 0 1 0, ⟨Config.solveOpen p.key (2 * j + 1) % 2 ^ 64, 0⟩, true⟩ : SlotElem))
    else if p.best.isSome then p.copy else m1.svCopyElems it i outX
  let m2 := if late || !svOCopy w then m1
    else (if p.best.isSome then m1 else m1.svCopy n it i es).report (svSO w) (svOFmt w) es
  let keep := run.probs.all (SvProb.keeps · w)
  let fc := match keep, ret with
    | true, some (x, _) => some (factor { tol := it.pivtol, reg := it.regdelta, boost := false } p.qp (sigmas p.qp x.rows))
    | _, _ => none
  let np := match fc with | some f => f.2 | none => 0
  let fl := p.flags + (if fin then flRvalid else 0) + (if fc.isSome then flRetained else 0)
  let res := match ret with | some (_, r) => r | none => svNoRes (Config.solveOpen p.key 0 % 2 ^ 64)
  let rom := svromNow
  let hd := svHeader it rom run.tStart m.now st fl p.iters (p.npiv + np) p.nrefact res
  let m3 := ((m2.svWords n (svRes w + i * d.record) hd).svPivots n np).stir
  (m3, bad && !late, st, fc)

/-- Post every problem. -/
def Mach.svPostAll (m : Mach) (n : Nat) (run : SvRun) : Nat → List SvProb → Mach × Bool × Nat × List (Fact × Nat) × Bool
  | _, [] => (m, false, 0, [], true)
  | i, p :: ps =>
    let r := m.svPost n run i p
    let rest := r.1.svPostAll n run (i + 1) ps
    (rest.1, r.2.1 || rest.2.1, max r.2.2.1 rest.2.2.1,
     (match r.2.2.2 with | some f => f :: rest.2.2.2.1 | none => rest.2.2.2.1), r.2.2.2.isSome && rest.2.2.2.2)

/-- The counter of a status (R171). -/
def svStatusCnt (st : Nat) : Fld :=
  match st with
  | 0 => Reg.SOLV.N_CONVERGED
  | 1 => Reg.SOLV.N_DEADLINE_BEST
  | 2 => Reg.SOLV.N_DEADLINE_WARM
  | 3 => Reg.SOLV.N_INFEASIBLE
  | _ => Reg.SOLV.N_NUMERIC

/-- The counters and events of a completed forward solve (R171). -/
def Mach.svCount (m : Mach) (n st : Nat) (rejected : Bool) : Mach :=
  let p := solvPage n
  let m1 := (m.bump p Reg.SOLV.SOLVES).bump p (svStatusCnt st)
  let m2 := if rejected then m1.bump p Reg.SOLV.N_WS_REJECT else m1
  m2.raiseIf (decide (st = 4)) p 17

/-- A forward solve posts its completion. -/
def Mach.svFinish (m : Mach) (n : Nat) (run : SvRun) : Mach :=
  let it := run.item
  let w := it.words
  let m0 := m.spend (solvPage n) Reg.SOLV.SV_BUSY_CYC (256 + svRRet w)
  let r := m0.svPostAll n run 0 run.probs
  let st := r.2.2.1
  let m1 := r.1.svCount n st (run.probs.any (fun p => decide (p.flags &&& flWsReject ≠ 0)))
  let m2 := if svRetain w ∧ r.2.2.2.2 ∧ !run.probs.isEmpty then
      let a := m1.slotArea n (svFSlot w)
      (m1.svJunk n a.1 (min a.2 (svDims w).fact) (workKey run.probs 2)).setSvSlot n (svFSlot w) (some
        { tag := svTag w, status := st, form := svForm w, w1 := wordAt w 1, w2 := wordAt w 2, pattern := svPattern w,
          reg := r.2.2.2.1.any (fun f => decide (f.2 ≠ 0)), facts := r.2.2.2.1.map (·.1), mfmt := svMFmt w, vfmt := svVFmt w })
    else m1
  let m3 := (m2.setSv n { m2.svOf n with running := none }).setLive (solvPage n) Reg.SOLV.DEADLINE_AT 0
  m3.svRetire n it true false r.2.1 (some st)

/-- R165. -/
def Mach.svComplete (m : Mach) (n : Nat) : Mach :=
  match (m.svOf n).running with
  | none => m
  | some run =>
    if decide (svKind run.item.words = 0) && run.probs.all (fun p => p.status.isSome) && m.computeUp &&
        !m.svRowHeld n run.item.words then m.svFinish n run else m

/-- R165. A forward solve that has stopped posts its record. -/
def execSolveComplete (n : SolvId) (s : State) : Host.Outcome State Fault Refusal := s.run true (fun m => m.svComplete n.val)

/-- R167. The first queued forward descriptor that can no longer pass its start test leaves the queue. -/
def Mach.svExpire (m : Mach) (n : Nat) : Mach :=
  let x := m.svOf n
  match x.queue.find? (fun it => decide (svKind it.words = 0) && !m.startHolds n it.words) with
  | none => m
  | some it =>
    let d := svDims it.words
    let rom := svromNow
    let m1 := m.setSv n { x with queue := x.queue.erase it }
    let m2 := (upTo d.count).foldl (fun m i => m.svWords n (svRes it.words + i * d.record)
      (svHeader it rom m.now m.now 2 flLate 0 0 0 (svNoRes (m.junk i 64)))) m1
    let m3 := ((m2.svCount n 2 false).bump (solvPage n) Reg.SOLV.N_EXPIRED).raise (solvPage n) 22
    if m.svRowHeld n it.words then m
    else (m3.wakeIf (180 + n) (fun w => decide (w = .svQueue))).stir.svRetire n it true false false (some 2)

/-- R167. -/
def execDescriptorExpire (n : SolvId) (s : State) : Host.Outcome State Fault Refusal :=
  s.run true (fun m => if m.computeUp then m.svExpire n.val else m)

end Sys2Proof.Machine
end

