-- ==== Sys2Proof/Machine/Backward.lean ====
section
/-! DEFINITION. Dispatch of the solver queue (R148) and the backward solve (R177 to R194): the linear solve on a retained
factorisation or on the active-set matrix, the gradients, the header, and the release of factor slots. The order in which
the terms of a gradient are added beyond R142 is a reading of the formulas as they are written. DEDUCED. -/

namespace Sys2Proof.Machine

/-! ## The solution of the adjoint system -/

/-- What the gradients are formed from: d_x, d_y of the rows of A, and for each inequality row or box bound its
coefficient pair (the multiplier of d_xᵀ and that of xᵀ) and the gradients of its two sides. -/
structure BwSol where
  dx : List Nat
  dy : List Nat
  rows : List (Nat × Nat × Nat × Nat)
deriving DecidableEq, Repr

def rowVal0 : RowVal := { sl := 0, su := 0, zl := 0, zu := 0 }

/-- The index of a row among the rows solved as equalities. -/
def eqIndex (p : Qp) (i : Nat) : Nat := ((p.rows.take i).filter QRow.eq).length

/-- A row that is an equality of the problem: its multiplier y and direction d (R178). -/
def eqRowGrad (y d : Nat) : Nat × Nat × Nat × Nat := (y, d, f64Neg d, f64Neg d)

/-- The implicit form (R177, R178): one solve on the retained factorisation. -/
def bwImplicit (p : Qp) (f : Fact) (it : SvIter) (adj : List Nat) : BwSol :=
  let k := p.eqRows.length
  let z := kktSolve p f (vneg adj) (List.replicate k 0)
  { dx := z.1
    dy := z.2.take p.a.length
    rows := (upTo p.rows.length).map (fun i =>
      let r := p.rows.getD i { coef := [], lb := 0, ub := 0, box := false }
      let v := it.rows.getD i rowVal0
      if r.eq then eqRowGrad v.nu (vget z.2 (p.a.length + eqIndex p i))
      else
        let t := if r.box then vget z.1 (match r.coef with | e :: _ => e.1 | [] => 0) else sdot r.coef z.1
        let sl := if r.hasL then f64Div v.zl v.sl else 0
        let su := if r.hasU then f64Div v.zu v.su else 0
        (v.nu, f64Mul (f64Add sl su) t, if r.hasL then f64Neg (f64Mul sl t) else 0,
          if r.hasU then f64Neg (f64Mul su t) else 0)) }

/-! ## The active set (R181, R182) -/

/-- The side of a row that is active: 0 none, 1 lower, 2 upper. -/
def activeSide (tau : Nat) (r : QRow) (v : RowVal) : Nat :=
  let l := r.hasL && f64Lt tau v.zl
  let u := r.hasU && f64Lt tau v.zu
  if l && u then (if f64Lt v.zl v.zu then 2 else 1) else if l then 1 else if u then 2 else 0

/-- The numbers of the rows that the active-set matrix holds beside A, in its order: those solved as equalities, which belong to A, then
those with an active side (R178, R181). -/
def activeNos (tau : Nat) (rows : List QRow) (vs : List RowVal) : List Nat :=
  let es := List.zip (upTo rows.length) (List.zip rows vs)
  ((es.filter (fun e => e.2.1.eq)) ++ es.filter (fun e => !e.2.1.eq && decide (activeSide tau e.2.1 e.2.2 ≠ 0))).map (·.1)

/-- The problem whose equality rows are A and the rows of given numbers. -/
def activeQp (p : Qp) (nos : List Nat) : Qp :=
  { p with a := p.a ++ nos.map (fun i => match p.rows[i]? with | some r => r.coef | none => []), rows := [] }

/-- Row j of a stage over (x_k, u_k): a row of C, a bound of u, or a bound of x_{k+1} through its dynamics. -/
def stageEqRow (nx nu : Nat) (st : QStage) (j : Nat) : List Nat :=
  let c := st.c.length
  if j < c then st.c.getD j []
  else if j < c + nu then (List.replicate (nx + nu) 0).set (nx + (j - c)) f64One
  else st.a.getD (j - c - nu) [] ++ st.b.getD (j - c - nu) []

def eqQRow : QRow := { coef := [], lb := 0, ub := 0, box := false }

/-- One solve of the active-set system in the stage form: d_x, d_λ and the direction of each equality row; and the pivots
replaced. -/
def bwActiveStage (tau : Nat) (pr : PivRule) (p : Qp) (it : SvIter) (adj : List Nat) : (List Nat × List Nat × List (Nat × Nat)) × Nat :=
  let nx := p.nx
  let nu := p.nu
  let w := nx + nu
  let c := p.nc
  let n := p.stages.length
  let zero : QStage := { q := [], s := [], r := [], a := [], b := [], c := [] }
  let eqs := (upTo n).map (fun k => (activeNos tau (Qp.stageRows c w k p.rows) (Qp.stageRows c w k it.rows)).map (fun j =>
    (j, stageEqRow nx nu (p.stages.getD k zero) j)))
  let sts := (upTo n).map (fun k => { p.stages.getD k zero with c := (eqs.getD k []).map (·.2) })
  let ins : List StageIn := (upTo n).map (fun k =>
    { st := sts.getD k zero, rows := (eqs.getD k []).map (fun _ => (eqQRow, 0)), sigX := List.replicate nx 0 })
  let (fs, _, piv) := riccati pr nx nu p.qN ins
  let r1 := vneg adj
  let rs := (upTo n).map (fun k =>
    ({ ru := (r1.drop (k * w)).take nu
       rx := if k = 0 then List.replicate nx 0 else (r1.drop (k * w - nx)).take nx
       rd := List.replicate nx 0
       re := (eqs.getD k []).map (fun _ => 0) } : StageRhs))
  let (hs, _) := riccatiBack nx nu (vneg (r1.drop (p.n - nx))) (List.zip sts (List.zip fs rs))
  let out := riccatiForw (List.replicate nx 0) (List.zip sts (List.zip fs (List.zip rs hs)))
  let duals := (upTo n).flatMap (fun k =>
    List.zipWith (fun (e : Nat × List Nat) d => (k * (c + w) + e.1, d)) (eqs.getD k []) ((out.map (·.2.2.2)).getD k []))
  let lam := (upTo n).flatMap (fun k =>
    let l := (out.map (·.2.2.1)).getD k []
    (upTo nx).map (fun i =>
      match duals.find? (fun e => decide (e.1 = k * (c + w) + c + nu + i)) with
      | some e => f64Add (vget l i) e.2
      | none => vget l i))
  ((out.flatMap (fun o => o.1 ++ o.2.1), lam, duals), piv)

/-- One solve of the active-set system: d_x, d_y of A and the direction of each equality row by its number. -/
def bwActiveSolve (tau : Nat) (pr : PivRule) (p : Qp) (it : SvIter) (adj : List Nat) :
    (List Nat × List Nat × List (Nat × Nat)) × Nat :=
  if p.stages.isEmpty then
    let nos := activeNos tau p.rows it.rows
    let q := activeQp p nos
    let f := factor pr q []
    let z := kktSolve q f.1 (vneg adj) (List.replicate q.a.length 0)
    ((z.1, z.2.take p.a.length, List.zip nos (z.2.drop p.a.length)), f.2)
  else bwActiveStage tau pr p it adj

/-- The solution of a solve with the active sides of a problem. -/
def bwActiveSol (tau : Nat) (p : Qp) (it : SvIter) (z : List Nat × List Nat × List (Nat × Nat)) : BwSol :=
  { dx := z.1
    dy := z.2.1
    rows := (upTo p.rows.length).map (fun i =>
      let r := p.rows.getD i { coef := [], lb := 0, ub := 0, box := false }
      let v := it.rows.getD i rowVal0
      let d := match z.2.2.find? (fun e => decide (e.1 = i)) with | some e => e.2 | none => 0
      if r.eq then eqRowGrad v.nu d
      else match activeSide tau r v with
        | 1 => (v.nu, d, f64Neg d, 0)
        | 2 => (v.nu, d, 0, f64Neg d)
        | _ => (0, 0, 0, 0)) }

/-- Every value of a solution is finite. -/
def BwSol.finite (s : BwSol) : Bool :=
  allFinite s.dx && allFinite s.dy && s.rows.all (fun r => allFinite [r.1, r.2.1, r.2.2.1, r.2.2.2])

/-! ## Gradients (R177 to R182) -/

/-- a·c + b·d as a chain. -/
def pairDot (a c b d : Nat) : Nat := f64Fma b d (f64Fma a c 0)

/-- The pieces that an entry of a block is formed from. -/
structure BwCtx where
  d : Dims
  p : Qp
  x : List Nat
  y : List Nat
  s : BwSol
  bs : List Mat
  /-- the dropped rows of MODE 1 give +0 -/
  dropped : Nat → Bool

/-- G_H at (i, j): symmetric, formed as for the lower triangle (R177). -/
def BwCtx.gh (b : BwCtx) (i j : Nat) : Nat :=
  let r := max i j
  let c := min i j
  f64Mul 0x3FE0000000000000 (pairDot (vget b.s.dx r) (vget b.x c) (vget b.x r) (vget b.s.dx c))

/-- The gradient of row i of A at column j. -/
def BwCtx.ga (b : BwCtx) (i j : Nat) : Nat := pairDot (vget b.y i) (vget b.s.dx j) (vget b.s.dy i) (vget b.x j)

/-- The gradient of inequality row i at column j. -/
def BwCtx.gc (b : BwCtx) (i j : Nat) : Nat :=
  if b.dropped i then 0
  else match b.s.rows[i]? with
    | some r => pairDot r.1 (vget b.s.dx j) r.2.1 (vget b.x j)
    | none => 0

/-- The gradients of the sides of row i. -/
def BwCtx.side (b : BwCtx) (upper : Bool) (i : Nat) : Nat :=
  match b.s.rows[i]? with
  | some r => if upper then r.2.2.2 else r.2.2.1
  | none => 0

/-- A matrix of entries. -/
def matOf (r c : Nat) (f : Nat → Nat → Nat) : List Nat := (upTo r).flatMap (fun i => (upTo c).map (f i))

/-- The gradient blocks of the dense form in the order of R151, with their groups. -/
def BwCtx.denseBlocks (b : BwCtx) : List (Nat × List Nat) :=
  let d := b.d
  [(0, matOf d.n d.n b.gh), (2, matOf d.p d.n b.ga), (4, matOf d.q d.n b.gc), (1, (upTo d.n).map (vget b.s.dx)),
   (3, (upTo d.p).map (fun i => f64Neg (vget b.s.dy i))), (5, (upTo d.q).map (b.side false)), (6, (upTo d.q).map (b.side true)),
   (7, (upTo d.n).map (fun i => b.side false (d.q + i))), (8, (upTo d.n).map (fun i => b.side true (d.q + i)))]

/-- The gradient blocks of the stage form in the order of R151, x_0 last (R179). A dropped stage-0 row of MODE 1 follows R179 in C_0,x, so
its entries are products with −0, where R181 says +0 of dropped rows (R182). DESIGN CHOICE, log 100. -/
def BwCtx.stageBlocks (b : BwCtx) : List (Nat × List Nat) :=
  let d := b.d
  let nx := d.nx
  let nu := d.nu
  let w := d.w
  let xi := fun k i => k * w - nx + i
  let ui := fun k i => k * w + i
  let row := fun k i => k * (d.c + w) + i
  let x0 := b.p.x0
  let g0 := fun i => f64Neg (f64Add (b.side false (row 0 i)) (b.side true (row 0 i)))
  let s0 := (b.p.stages.getD 0 { q := [], s := [], r := [], a := [], b := [], c := [] })
  let lam0 := b.s.dy.take nx
  (upTo d.N).flatMap (fun k =>
    [(0, matOf nx nx (fun i j => if k = 0 then 0 else b.gh (xi k i) (xi k j))),
     (0, matOf nu nx (fun i j => if k = 0 then f64Mul (vget b.s.dx i) (vget x0 j) else b.gh (ui k i) (xi k j))),
     (0, matOf nu nu (fun i j => b.gh (ui k i) (ui k j))),
     (2, matOf nx nx (fun i j => if k = 0 then f64Mul (vget b.s.dy i) (vget x0 j) else b.ga (k * nx + i) (xi k j))),
     (2, matOf nx nu (fun i j => b.ga (k * nx + i) (ui k j))),
     (4, matOf d.c w (fun i j =>
       if j < nx then (if k = 0 then f64Mul (g0 i) (vget x0 j) else b.gc (row k i) (xi k j)) else b.gc (row k i) (ui k (j - nx))))]) ++
  [(0, matOf nx nx (fun i j => b.gh (xi d.N i) (xi d.N j)))] ++
  (upTo d.N).flatMap (fun k =>
    [(1, (upTo nx).map (fun i => if k = 0 then 0 else vget b.s.dx (xi k i))), (1, (upTo nu).map (fun i => vget b.s.dx (ui k i))),
     (3, (upTo nx).map (fun i => vget b.s.dy (k * nx + i))), (5, (upTo d.c).map (fun i => b.side false (row k i))),
     (6, (upTo d.c).map (fun i => b.side true (row k i))), (7, (upTo w).map (fun i => b.side false (row k (d.c + i)))),
     (8, (upTo w).map (fun i => b.side true (row k (d.c + i))))]) ++
  [(1, (upTo nx).map (fun i => vget b.s.dx (xi d.N i))),
   (9, (upTo nx).map (fun j =>
     f64Sub (f64Add (fdot (s0.a.map (fun r => vget r j)) lam0) (fdot (s0.s.map (fun r => vget r j)) (b.s.dx.take nu)))
       (fdot (s0.c.map (fun r => vget r j)) ((upTo d.c).map (fun i => f64Add (b.side false (row 0 i)) (b.side true (row 0 i)))))))]

/-- The gradient blocks that a descriptor asks for, in their order. -/
def BwCtx.blocks (b : BwCtx) (w : List Nat) : List (List Nat) :=
  ((if b.d.form = 1 then b.stageBlocks else b.denseBlocks).filter
    (fun e => if e.1 = 9 then bwX0 w else (bwMask w).testBit e.1)).map (·.2)

/-! ## Reading a backward's inputs (R184, R185) -/

def Ldl.nums (f : Ldl) : List Nat := f.l.flatten ++ f.d

/-- A factorisation as numbers. -/
def Fact.nums : Fact → List Nat
  | .dense f => f.nums
  | .stage fs => fs.flatMap (fun f => f.p.flatten ++ f.w.flatten ++ f.g.nums ++ f.eu.flatten ++ f.ge.flatten ++ f.e.nums)

/-- What the gradients of problem i depend on (R194): the descriptor, the settings and the solve program, the scales, the factorisation, and
the bytes and marks of the record, the data and the adjoint. -/
def Mach.bwKey (m : Mach) (n : Nat) (it : SvItem) (s : SvSlot) (i : Nat) : List Nat :=
  let w := it.words
  let u := 180 + n
  let d := dimsOf s.form s.w1 s.w2
  w ++ [it.pivtol, it.regdelta, it.epsexp, it.infexp, it.actexp, Config.svromVersion, m.fwActive.patch, i, s.tag, s.status] ++
    [bwSM w, bwSV w, bwSA w, bwSG w].map (fun k => (m.slot k).scale) ++ s.facts.flatMap Fact.nums ++
    m.areaNums (pondKey u (bwRes w + i * d.record)) (128 + 8 * d.ews) ++
    m.areaNums (pondKey u (bwData w + i * d.dataBytes s.mfmt s.vfmt)) (d.dataBytes s.mfmt s.vfmt) ++
    m.areaNums (pondKey u (bwAdj w + i * up64 (packedBytes (bwAFmt w) d.primal))) (packedBytes (bwAFmt w) d.primal)

/-- The header of a forward record. -/
def Mach.recHead (m : Mach) (u a : Nat) : List Nat := wordsOf 4 (m.rdBytes 32 (pondKey u a))

/-- The record at RES is that of the slot's factorisation (R187). A poisoned header is left to the rule on poison. -/
def Mach.recMatches (m : Mach) (u a : Nat) (s : SvSlot) : Bool :=
  let h := m.recHead u a
  m.anyMarked (pondKey u a) 32 ||
    decide (wfld h 0 47 32 = s.tag ∧ wfld h 3 33 32 = s.form ∧ wordAt h 1 = s.w1 ∧ wordAt h 2 = s.w2 ∧ wfld h 3 31 0 = s.pattern)

/-- Problem i of a backward. The adjoints of a batch follow one another, each on a 64-byte boundary (R184). DESIGN CHOICE, log 100. -/
def Mach.bwProb (m : Mach) (n : Nat) (item : SvItem) (s : SvSlot) (i : Nat) : BwProb :=
  let w := item.words
  let u := 180 + n
  let d := dimsOf s.form s.w1 s.w2
  let bks := d.blocks
  let rd := m.readBlks u s.mfmt s.vfmt (f32Val (m.slot (bwSM w)).scale) (f32Val (m.slot (bwSV w)).scale)
    (bwData w + i * d.dataBytes s.mfmt s.vfmt) bks
  let bs := rd.map (·.1)
  let rec' := bwRes w + i * d.record
  let wd := fmtWidth (bwAFmt w)
  let base := pondKey u (bwAdj w + i * up64 (packedBytes (bwAFmt w) d.primal))
  let sa := f32Val (m.slot (bwSA w)).scale
  let adj := (upTo d.primal).map (fun j =>
    let v := m.elemAt base wd j
    if bwAFmt w = 0 then v else (f64 (Num.mul (decode (bwAFmt w) v) sa)).code)
  { qp := qpOf d bs
    blocks := bs
    it := iterOf d ((upTo d.ews).map (fun j => m.elemAt (pondKey u (rec' + 128)) 64 j))
    adj := adj
    bad := rd.any (·.2) || m.anyMarked (pondKey u rec') (128 + 8 * d.ews) ||
      (upTo d.primal).any (fun j => m.elemBad base wd j)
    nonfin := (upTo d.primal).any (fun j => !m.elemBad base wd j && !f64Finite (vget adj j))
    key := m.bwKey n item s i }

/-! ## Dispatch (R148, R183, R187) -/

/-- The descriptor at the head leaves the queue for the sequencer. -/
def Mach.svTake (m : Mach) (n : Nat) (it : SvItem) (rest : List SvItem) : Mach :=
  let m1 := m.setSv n { m.svOf n with queue := rest }
  let m2 := m1.wakeIf (180 + n) (fun w => decide (w = .svQueue))
  let s := m2.svSlot n (bwSlot it.words)
  if svKind it.words = 0 then m2.svStart n it
  else if svKind it.words = 2 then
    let m3 := if s.isSome then (m2.setSvSlot n (bwSlot it.words) none).bump (solvPage n) Reg.SOLV.RELEASES else m2
    (m3.spend (solvPage n) Reg.SOLV.SV_BUSY_CYC 16).svRetire n it true false false none
  else match s with
    | none => m2.svRefuse n it 0x09 true
    | some x =>
      if bwFTag it.words ≠ x.tag ∨ !m2.recMatches (180 + n) (bwRes it.words) x then m2.svRefuse n it 0x0A true
      else
        let d := dimsOf x.form x.w1 x.w2
        let rd := m2.pondDelivered (180 + n) (bwData it.words)
        let run : SvRun := { item := it, tStart := m2.now, begun := true, probs := [],
                             bwd := (upTo d.count).map (rd.1.bwProb n it x), patch := m2.fwActive.patch % 2 ^ 16, inject := false }
        rd.2.setSv n { rd.2.svOf n with running := some run }

def Mach.svDispatch (m : Mach) (n : Nat) : Mach :=
  let x := m.svOf n
  match x.running, x.queue with
  | none, it :: rest => if m.unitRuns (180 + n) && !m.svRowHeld n it.words then m.svTake n it rest else m
  | _, _ => m

/-- R148. The sequencer takes the descriptor at the head of its queue. -/
def execSolverDispatch (n : SolvId) (s : State) : Host.Outcome State Fault Refusal := s.run true (fun m => m.svDispatch n.val)

/-! ## Completion (R186, R192, R193) -/

/-- The gradient blocks of a problem. -/
def bwGrads (w : List Nat) (d : Dims) (it : SvItem) (b : BwProb) (s : BwSol) : List (List Nat) :=
  let tau := f64Pow2 (-(it.actexp : Int))
  let c : BwCtx := { d := d, p := b.qp, x := b.it.x, y := b.it.y, s := s, bs := b.blocks
                     dropped := fun i =>
                       bwMode w = 1 ∧ !((b.qp.rows[i]?).any QRow.eq) ∧
                         (match b.qp.rows[i]?, b.it.rows[i]? with
                          | some r, some v => activeSide tau r v
                          | _, _ => 0) = 0 }
  c.blocks w

/-- The gradients of a problem, the refactorisations and the pivots replaced: under MODE = 1 a non-finite result of a finite
adjoint is formed once more after a refactorisation (R193). -/
def bwSolve (w : List Nat) (d : Dims) (it : SvItem) (f : Fact) (b : BwProb) : List (List Nat) × Nat × Nat :=
  if bwMode w = 0 then (bwGrads w d it b (bwImplicit b.qp f b.it b.adj), 0, 0)
  else
    let tau := f64Pow2 (-(it.actexp : Int))
    let pr : PivRule := { tol := it.pivtol, reg := it.regdelta, boost := false }
    let z := bwActiveSolve tau pr b.qp b.it b.adj
    let s := bwActiveSol tau b.qp b.it z.1
    let g := bwGrads w d it b s
    if s.finite && g.all allFinite || !allFinite b.adj then (g, 0, z.2)
    else
      let z2 := bwActiveSolve tau { pr with boost := true } b.qp b.it b.adj
      (bwGrads w d it b (bwActiveSol tau b.qp b.it z2.1), 1, z.2 + z2.2)

/-- A gradient entry in GFMT; `e` is its place in the count of R186. -/
def Mach.bwElem (m : Mach) (it : SvItem) (w : List Nat) (key : List Nat) (bad nan : Bool) (e g : Nat) : SlotElem :=
  let x := f64Val (if nan && !f64Finite g then f64Nan else g)
  if bad then ⟨.fin false 0 1 0, ⟨Config.solveOpen key e % 2 ^ fmtWidth (bwGFmt w), 0⟩, true⟩
  else if bwGFmt w = 0 then ⟨x, ⟨if nan && !f64Finite g then f64Nan else g, 0⟩, false⟩
  else
    let md : Rnd := if bwRnd w then .sr (springR it.seed (springStream 2 (bwSG w) it.step) e) else .rne
    let r := (m.slot (bwSG w)).convertInto (bwGFmt w) md it.denorm false x
    ⟨r.1, r.2, false⟩

/-- Write the gradient blocks of a problem from an address; the entries counted from `e`. -/
def Mach.bwBlocksOut (m : Mach) (n : Nat) (it : SvItem) (w : List Nat) (key : List Nat) (bad nan : Bool) : Nat → Nat → List (List Nat) → Mach
  | _, _, [] => m
  | a, e, b :: bs =>
    let wd := fmtWidth (bwGFmt w)
    let es := (upTo b.length).map (fun j => m.bwElem it w key bad nan (e + j) (vget b j))
    let m1 := m.pondElems (180 + n) ((upTo es.length).filterMap (fun j => (es[j]?).map (fun x =>
      (⟨8 * a + wd * j, wd, x.coded.code, x.bad⟩ : ElemWrite))))
    let m2 := if bwGFmt w = 0 then m1 else m1.report (bwSG w) (bwGFmt w) es
    m2.bwBlocksOut n it w key bad nan (a + up64 (packedBytes (bwGFmt w) b.length)) (e + b.length) bs

/-- The words of a backward header (R192). -/
def bwHeader (it : SvItem) (w : List Nat) (rom tStart now status : Nat) (s : SvSlot) (reg nonfin bad released : Bool)
    (nref npiv : Nat) : List Nat :=
  [status + 2 ^ 4 * b2n (decide (s.status ≠ 0)) + 2 ^ 5 * b2n reg + 2 ^ 6 * b2n nonfin + 2 ^ 7 * b2n bad + 2 ^ 8 * b2n released +
     nref % 2 ^ 16 * 2 ^ 16 + svTag it.words * 2 ^ 32 + rom * 2 ^ 48,
   bwFTag w + s.status * 2 ^ 16, npiv % 2 ^ 32, tStart, now, 0, 0, 0, 0, 0, 0, 0, 0, 0, 0, 0]

/-- One problem of a backward: its gradients and its header; whether it was poisoned and whether it is NUMERIC. -/
def Mach.bwPost (m : Mach) (n : Nat) (run : SvRun) (s : SvSlot) (released : Bool) (i : Nat) (b : BwProb) (f : Fact) :
    Mach × Bool × Bool :=
  let it := run.item
  let w := it.words
  let d := dimsOf s.form s.w1 s.w2
  let r := bwSolve w d it f b
  let gs := r.1
  let e0 := i * (gs.map List.length).sum
  let nonfin := b.nonfin
  let numeric := nonfin || (!b.bad && !gs.all allFinite)
  let nref := if b.bad then 0 else r.2.1
  let npiv := if b.bad then 0 else r.2.2
  let m1 := m.bwBlocksOut n it w b.key b.bad nonfin (bwGOut w + i * bwGBytes w d) e0 gs
  let m2 := (upTo nref).foldl (fun m _ => m.report412 (solvPage n) 0x10 0 .logged false false)
    (((m1.svPivots n npiv).raiseIf (decide (nref ≠ 0)) (solvPage n) 23).bump (solvPage n) Reg.SOLV.REFACT nref)
  let m3 := m2.raiseIf (numeric && !nonfin) (solvPage n) 17
  let reg := if bwMode w = 0 then s.reg else decide (npiv ≠ 0)
  let rom := svromNow
  (m3.svWords n (bwBRes w + 128 * i)
    (bwHeader it w rom run.tStart m.now (if numeric then 4 else 0) s reg nonfin b.bad released nref npiv), b.bad, numeric)

def Mach.bwPostAll (m : Mach) (n : Nat) (run : SvRun) (s : SvSlot) (released : Bool) :
    Nat → List BwProb → List Fact → Mach × Bool × Bool
  | _, [], _ => (m, false, false)
  | _, _, [] => (m, false, false)
  | i, b :: bs, f :: fs =>
    let r := m.bwPost n run s released i b f
    let rest := r.1.bwPostAll n run s released (i + 1) bs fs
    (rest.1, r.2.1 || rest.2.1, r.2.2 || rest.2.2)

/-- The bound of R195 on the cycles of a backward. -/
def bwBound (w : List Nat) (s : SvSlot) : Nat :=
  let d := dimsOf s.form s.w1 s.w2
  let short := fun (b : Blk) => if b.mat then decide (s.mfmt ≠ 0) else decide (s.vfmt ≠ 0)
  let ew := d.count * ((d.blocks.filter short).map Blk.count).sum
  let eg := d.count * ((bwBlocks w d).map Blk.count).sum
  let sol := if d.form = 1 then d.N * d.bigS
    else if d.form = 0 then bndV d.m d.n + 2 * bndT d.s + 8
    else d.groups * (ceilDiv (d.m * d.n) 16 + 2 * (4 * d.s + ceilDiv (d.s ^ 2) 16) + 8)
  ceilDiv (d.count * d.primal + ew + 2 * (d.count * d.ews)) 32 + 64 + (1 + bwMode w) * (bwMode w * d.tFact + sol) +
    (ceilDiv eg 256 + ceilDiv eg 32 + 16)

/-- The work area holds what the spec does not state. -/
def bwWorkBytes (w : List Nat) (d : Dims) : Nat := d.count * (32 * d.ews) + (if bwMode w = 1 then d.work else 0)

/-- A backward completes (R190, R192 to R194). -/
def Mach.bwFinish (m : Mach) (n : Nat) (run : SvRun) (s : SvSlot) : Mach :=
  let p := solvPage n
  let w := run.item.words
  let rel := bwRelease w
  let m0 := (m.spend p Reg.SOLV.SV_BUSY_CYC (bwBound w s)).svJunk n (bwWork w) (bwWorkBytes w (dimsOf s.form s.w1 s.w2))
    (run.bwd.flatMap (·.key) ++ [3])
  let r := m0.bwPostAll n run s rel 0 run.bwd s.facts
  let m1 := ((r.1.bump p Reg.SOLV.BWD_DONE).bump p Reg.SOLV.BWD_APPROX (b2n (decide (s.status ≠ 0)))).bump p
    Reg.SOLV.BWD_NUMERIC (b2n r.2.2)
  let m2 := if rel then (m1.setSvSlot n (bwSlot w) none).bump p Reg.SOLV.RELEASES else m1
  let m3 := (m2.setSv n { m2.svOf n with running := none }).stir
  m3.svRetire n run.item true false r.2.1 none

def Mach.bwComplete (m : Mach) (n : Nat) : Mach :=
  match (m.svOf n).running with
  | none => m
  | some run =>
    match m.svSlot n (bwSlot run.item.words) with
    | some s =>
      if decide (svKind run.item.words = 1) && m.computeUp && !m.svRowHeld n run.item.words then m.bwFinish n run s else m
    | none => m

/-- R192. A backward descriptor completes. -/
def execBackwardComplete (n : SolvId) (s : State) : Host.Outcome State Fault Refusal := s.run true (fun m => m.bwComplete n.val)

end Sys2Proof.Machine
end

