-- ==== Sys2Proof/Machine/FabricBase.lean ====
section
/-! DEFINITION. Packets, flows and routes (R293 to R321): the header and its CRC, the choice of the next port, and the
injection of a packet. -/

namespace Sys2Proof.Machine

def routerPage : Page := ⟨.router, 0⟩
def portPage (p : Nat) : Page := ⟨.port, p⟩
def calPage (p : Nat) : Page := ⟨.cal, p⟩
def barrPage : Page := ⟨.barr, 0⟩
def timePage : Page := ⟨.time, 0⟩
def collPage (f : Nat) : Page := ⟨.coll, f⟩

def Mach.dimX (m : Mach) : Nat := m.act routerPage Reg.ROUTER.ROUTERCTL_DIM_X
def Mach.dimY (m : Mach) : Nat := m.act routerPage Reg.ROUTER.ROUTERCTL_DIM_Y
def Mach.myX (m : Mach) : Nat := m.act routerPage Reg.ROUTER.ROUTERCTL_MY_X
def Mach.myY (m : Mach) : Nat := m.act routerPage Reg.ROUTER.ROUTERCTL_MY_Y

/-- The table bank in force: 0 A, 1 B (R319). -/
def Mach.bankNow (m : Mach) : Nat := m.live routerPage Reg.ROUTER.EPOCH_IN_FORCE

/-- A register of a table bank. -/
def Mach.bankWord (m : Mach) (b off : Nat) : Word := SMap.get m.fab.banks (fun _ => 0) (b * 4096 + off)

def collDefault (_ : Nat) : CollSt := CollSt.reset
def Mach.collOf (m : Mach) (f : Nat) : CollSt := SMap.get m.coll collDefault f
def Mach.setColl (m : Mach) (f : Nat) (x : CollSt) : Mach := { m with coll := SMap.set m.coll collDefault f x }

/-- Change a running descriptor of an engine. -/
def Mach.modRun (m : Mach) (f id : Nat) (g : CollRun → CollRun) : Mach :=
  let x := m.collOf f
  m.setColl f { x with running := x.running.map (fun r => if r.item.id = id then g r else r) }

end Sys2Proof.Machine

namespace Sys2Proof

open Machine

/-- Bytes of a packet: header and payload. -/
def Packet.bytes (p : Packet) : Nat := 32 + 64 * p.len.toNat

/-- W0 of a header with DEMOTED, DETOUR and DL taken as 0 (R300, R314). -/
def Packet.w0 (p : Packet) : Nat :=
  p.tc.toNat + b2n p.epoch * 2 ^ 2 + b2n p.mcast * 2 ^ 6 + b2n p.axis * 2 ^ 7 + b2n p.dir * 2 ^ 8 + b2n p.mflow * 2 ^ 9 +
    p.dstX.toNat * 2 ^ 16 + p.dstY.toNat * 2 ^ 24 + p.srcX.toNat * 2 ^ 32 + p.srcY.toNat * 2 ^ 40 + p.len.toNat * 2 ^ 48

def Packet.w1 (p : Packet) : Nat := p.seq.toNat + p.index.toNat * 2 ^ 32 + p.kind.toNat * 2 ^ 45

/-- Poison marks packed eight to a byte, the first in the lowest bit. -/
def packMarks (l : List Bool) : List Nat :=
  (upTo (ceilDiv l.length 8)).map (fun k =>
    (upTo 8).foldl (fun a i => a + b2n (l.getD (8 * k + i) false) * 2 ^ i) 0)

/-- The end-to-end CRC (R314). -/
def Packet.crcNow (p : Packet) : BitVec 32 :=
  BitVec.ofNat 32 (crcOf crc32c (natBytes 8 p.w0 ++ natBytes 8 p.w1 ++ natBytes 8 p.injTime.toNat ++ natBytes 4 p.ctx.toNat ++
    p.payload.map BitVec.toNat ++ packMarks p.marks))

/-- The packet without what its injection stamps. -/
def Packet.unstamped (p : Packet) : Packet :=
  { p with seq := 0, epoch := false, injTime := 0, crc := 0, demoted := false, detour := false, dl := false, blocked := 0 }

/-- Word k of a payload. -/
def Packet.word (p : Packet) (k : Nat) : Nat := ofBytes ((p.payload.drop (8 * k)).take 8)

/-- The flow of a packet at its sender (R310). -/
def Packet.flow (p : Packet) : FlowId :=
  if p.mflow then { tc := p.tc, mflow := true, x := 0, y := 0, axis := p.axis, dir := p.dir }
  else { tc := p.tc, mflow := false, x := p.dstX, y := p.dstY, axis := false, dir := false }

/-- The flow of a packet at its receiver. -/
def Packet.rxKey (p : Packet) : RxKey :=
  { x := p.srcX.toNat, y := p.srcY.toNat, tc := p.tc.toNat, mflow := p.mflow, axis := p.mflow && p.axis, dir := p.mflow && p.dir }

/-- Credits of 64 bytes that a packet takes in a buffer (R306). -/
def Packet.credits (p : Packet) : Nat := ceilDiv p.bytes 64

/-- Fabric-control and time packets belong to no flow (R310, R330). -/
def Packet.flowless (p : Packet) : Bool := decide (p.kind = 4 ∨ p.kind = 5)

/-- The occupied credits of a port's adaptive channel. -/
def Occupancy.at (o : Occupancy) (p : Nat) : Nat :=
  match p with
  | 0 => o.xp
  | 1 => o.xn
  | 2 => o.yp
  | _ => o.yn

end Sys2Proof

namespace Sys2Proof.Machine

/-! ## Sequence numbers and flows (R310) -/

/-- a is after b. -/
def seqAfter (a b : Nat) : Bool :=
  let d := (a + 2 ^ 32 - b % 2 ^ 32) % 2 ^ 32
  decide (0 < d ∧ d < 2 ^ 31)

def seqAdd (a k : Nat) : Nat := (a + k) % 2 ^ 32

def FlowTx.empty (fl : FlowId) : FlowTx :=
  { fl := fl, next := 0, out := [], resync := none, resyncFrom := [], resyncs := 0, resyncAt := 0, rto := 0, retry := 0 }

/-- CUM is one below the first SEQ. -/
def FlowRx.empty (k : RxKey) : FlowRx := { key := k, cum := 2 ^ 32 - 1, got := [], hold := [], taps := [] }

def Mach.flowTx (m : Mach) (fl : FlowId) : FlowTx := (m.fab.tx.find? (fun t => decide (t.fl = fl))).getD (FlowTx.empty fl)
def Mach.flowRx (m : Mach) (k : RxKey) : FlowRx := (m.fab.rx.find? (fun t => decide (t.key = k))).getD (FlowRx.empty k)

def Mach.setFlowTx (m : Mach) (t : FlowTx) : Mach :=
  { m with fab := { m.fab with tx := m.fab.tx.filter (fun x => decide (x.fl ≠ t.fl)) ++ [t] } }

def Mach.setFlowRx (m : Mach) (t : FlowRx) : Mach :=
  { m with fab := { m.fab with rx := m.fab.rx.filter (fun x => decide (x.key ≠ t.key)) ++ [t] } }

/-- Bytes outstanding in a flow. -/
def FlowTx.bytes (t : FlowTx) : Nat := (t.out.map (fun o => o.pk.bytes)).sum

/-- The flow gave up: RETRY RESYNCs went unanswered (R315). -/
def FlowTx.closed (t : FlowTx) : Bool := t.resync.isSome && decide (t.retry < t.resyncs)

def Mach.e2eRetry (m : Mach) : Nat := m.act routerPage Reg.ROUTER.E2ECTL_RETRY
def Mach.e2eRto (m : Mach) : Nat := 1000 * m.act routerPage Reg.ROUTER.E2ECTL_RTO_US

/-- A packet of a descriptor failed: the elements that it carried into a reduction will not be summed (R365, R368). -/
def CollRun.failed (r : CollRun) (pk : Packet) : CollRun :=
  let first := natBits (pk.word 2) 39 0
  { r with code := if r.code = 0 then 0x10 else r.code,
           fails := if natBits (pk.word 0) 57 53 = 31 then r.fails else addRun first (first + natBits (pk.word 3) 31 0) r.fails }

/-- A packet ends for its endpoint with a ring code: 0 acknowledged (R300, R315, R316). -/
def Mach.pktDone (m : Mach) (o : PktOwner) (pk : Packet) (code : Nat) : Mach :=
  match o with
  | .nobody => m
  | .ring r i => m.ringFinish r i code 0
  | .coll f id => if code = 0 then m else m.modRun f id (fun r => r.failed pk)

/-! ## Routes (R304 to R308, R317) -/

/-- Size of a dimension: 0 X, 1 Y. -/
def Mach.dim (m : Mach) (a : Nat) : Nat := if a = 0 then m.dimX else m.dimY
def Mach.mine (m : Mach) (a : Nat) : Nat := if a = 0 then m.myX else m.myY

/-- The port of a dimension and direction (0 P, 1 N). -/
def portOf (a d : Nat) : Nat := 2 * a + d

/-- The minimal directions of a dimension: none when it is done, both on a tie (R304). -/
def minDirs (D c t : Nat) : List Nat :=
  let d := (t + D - c) % D
  if d = 0 then [] else if d < D - d then [0] else if D - d < d then [1] else [0, 1]

/-- The hop crosses the dateline (R305). -/
def Mach.crosses (m : Mach) (port : Nat) : Bool :=
  if port % 2 = 0 then decide (m.mine (port / 2) + 1 = m.dim (port / 2)) else decide (m.mine (port / 2) = 0)

def Mach.portUp (m : Mach) (p : Nat) : Bool :=
  decide (m.live (portPage p) Reg.PORT.STATE = 2 ∨ m.live (portPage p) Reg.PORT.STATE = 3)

/-- The port is excluded for a packet of a bank (R307). -/
def Mach.excluded (m : Mach) (bank p : Nat) : Bool := !m.portUp p || (m.bankWord bank 0x918).toNat.testBit p

/-- The virtual channel of a packet off the adaptive channel (R306). -/
def escapeVc (tc bank : Nat) (hi detour : Bool) : Nat :=
  (if tc = 2 then 10 else if tc = 3 then 18 else 2) + 4 * bank + 2 * b2n detour + b2n hi

/-- What a router does with a packet. -/
inductive Route where
  | here
  | out (port vc : Nat) (pk : Packet)
  | demote (port : Nat)
  | wait (port : Nat)
  | drop
deriving DecidableEq, Repr

/-- The class whose channels a packet uses: a demoted packet travels as TC1 (R303). -/
def pktClass (pk : Packet) : Nat := if pk.tc = 0 then 1 else pk.tc.toNat

/-- A hop off the adaptive channel: the dateline rule sets DL and the channel (R305). `turn` says that the packet enters the
dimension of the port here. -/
def Mach.hop (m : Mach) (pk : Packet) (port : Nat) (turn : Bool) : Route :=
  let dl := m.crosses port || (!turn && pk.dl)
  .out port (escapeVc (pktClass pk) (b2n pk.epoch) dl pk.detour) { pk with dl := dl }

/-- The detour hop of a packet whose next port is blocked, or its drop (R307, R308). -/
def Mach.detourHop (m : Mach) (pk : Packet) (blocked : Nat) : Route :=
  let b := b2n pk.epoch
  let e := 1 - blocked / 2
  let d0 := b2n ((m.bankWord b 0x918).toNat.testBit (4 + blocked))
  let p0 := portOf e d0
  let p1 := portOf e (1 - d0)
  let pk' := { pk with detour := true, blocked := BitVec.ofNat 1 (blocked / 2) }
  if pk.detour ∨ m.dim e ≤ 1 then .drop
  else if !m.excluded b p0 then m.hop pk' p0 true
  else if !m.excluded b p1 then m.hop pk' p1 true
  else .drop

/-- The minimal directions that a packet still has to go in a dimension. -/
def Mach.dirsOf (m : Mach) (pk : Packet) (a : Nat) : List Nat :=
  minDirs (m.dim a) (m.mine a) (if a = 0 then pk.dstX.toNat else pk.dstY.toNat)

/-- The dimension that a packet finishes first: X, and after a detour the dimension D that was blocked (R307). -/
def firstDim (pk : Packet) : Nat := if pk.detour then pk.blocked.toNat else 0

/-- The port by dimension order: P on a tie (R305). -/
def Mach.orderPort (m : Mach) (pk : Packet) : Option Nat :=
  let a := firstDim pk
  match m.dirsOf pk a with
  | d :: _ => some (portOf a d)
  | [] => match m.dirsOf pk (1 - a) with
    | d :: _ => some (portOf (1 - a) d)
    | [] => none

/-- The packet entered this dimension here: it came from the module itself or from a port of the other dimension. -/
def turns (inPort : Option Nat) (port : Nat) : Bool :=
  match inPort with
  | some p => decide (p / 2 ≠ port / 2)
  | none => true

/-- The route in dimension order on the escape or detour channels. -/
def Mach.routeOrder (m : Mach) (pk : Packet) (inPort : Option Nat) (fresh : Bool) : Route :=
  match m.orderPort pk with
  | none => .here
  | some p =>
    if m.excluded (b2n pk.epoch) p then m.detourHop pk p
    else m.hop pk p (fresh || turns inPort p)

/-- The buffer of a virtual channel at an input port, in credits of 64 bytes (R306). -/
def vcCredits (vc : Nat) : Nat :=
  if vc = 1 then 2048 else if vc < 10 then 256 else if vc < 18 then 16 else if vc < 26 then 64 else 0

/-- The adaptive channel's. -/
def adaptiveCredits : Nat := vcCredits 1

/-- The candidate with the fewest occupied credits; ties in the order XP, XN, YP, YN (R304). -/
def leastOf (occ : Occupancy) : List Nat → Option Nat
  | [] => none
  | p :: ps => match leastOf occ ps with
    | some q => if occ.at p ≤ occ.at q then some p else some q
    | none => some p

/-- The route of a TC1 packet on the adaptive channel (R304). -/
def Mach.routeAdaptive (m : Mach) (pk : Packet) (inPort : Option Nat) (occ : Occupancy) : Route :=
  let all := (m.dirsOf pk 0).map (portOf 0) ++ (m.dirsOf pk 1).map (portOf 1)
  let moving := match inPort with
    | some p => p / 2
    | none => 0
  let cand := all.filter (fun p => !m.excluded (b2n pk.epoch) p)
  if all.isEmpty then .here
  else match leastOf occ (cand.filter (fun p => decide (occ.at p < adaptiveCredits))) with
    | some p => .out p 1 { pk with dl := false }
    | none =>
      if cand.isEmpty then m.detourHop pk ((all.find? (fun p => decide (p / 2 = moving))).getD (all.headD 0))
      else m.routeOrder pk inPort true

/-- A demoted packet on the adaptive channel goes in dimension order while that port has a credit, else on escape. -/
def Mach.routeDemoted (m : Mach) (pk : Packet) (inPort : Option Nat) (occ : Occupancy) : Route :=
  match m.orderPort pk with
  | none => .here
  | some p =>
    if m.excluded (b2n pk.epoch) p then m.detourHop pk p
    else if occ.at p < adaptiveCredits then .out p 1 { pk with dl := false }
    else m.routeOrder pk inPort true

/-- How far along its axis a multicast packet has come (R317). -/
def Mach.mcastHops (m : Mach) (pk : Packet) : Nat :=
  let a := b2n pk.axis
  let src := if a = 0 then pk.srcX.toNat else pk.srcY.toNat
  if pk.dir then (src + m.dim a - m.mine a) % m.dim a else (m.mine a + m.dim a - src) % m.dim a

/-- A multicast packet is for this module too. -/
def Mach.mcastHere (m : Mach) (pk : Packet) : Bool :=
  decide (pk.dstX.toNat < m.mcastHops pk ∧ m.mcastHops pk ≤ pk.dstX.toNat + pk.dstY.toNat)

/-- A scheduled packet waits for its slot at a port that is at full width and not excluded, and is demoted at any other (R303,
R307). -/
def Mach.routeSlot (m : Mach) (pk : Packet) (p : Nat) : Route :=
  if !m.excluded (b2n pk.epoch) p && decide (m.live (portPage p) Reg.PORT.STATE = 2) then .wait p else .demote p

/-- Where a multicast packet goes on: nowhere past its last receiver; an excluded port drops the rest (R318). -/
def Mach.routeMcast (m : Mach) (pk : Packet) (inPort : Option Nat) : Route :=
  let p := portOf (b2n pk.axis) (b2n pk.dir)
  if pk.dstX.toNat + pk.dstY.toNat ≤ m.mcastHops pk then .here
  else if pk.tc = 0 ∧ !pk.demoted then m.routeSlot pk p
  else if m.excluded (b2n pk.epoch) p then .drop
  else m.hop pk p (turns inPort p)

/-- The route of a packet that arrived on a virtual channel of an input port, or was injected. -/
def Mach.route (m : Mach) (pk : Packet) (inPort : Option Nat) (vc : Nat) (occ : Occupancy) : Route :=
  if pk.mcast then m.routeMcast pk inPort
  else if pk.tc = 0 ∧ !pk.demoted then
    match m.orderPort pk with
    | none => .here
    | some p => m.routeSlot pk p
  else
    let onEscape := decide (inPort.isSome ∧ vc ≠ 1)
    if pk.tc = 1 ∧ !onEscape ∧ !pk.detour then m.routeAdaptive pk inPort occ
    else if pk.tc = 0 ∧ !onEscape ∧ !pk.detour then m.routeDemoted pk inPort occ
    else m.routeOrder pk inPort false

/-! ## Into the router -/

/-- At most once in 1 ms. -/
def Mach.msPassed (m : Mach) (last : Option Nat) : Bool :=
  match last with | some t => decide (t + 1000000 ≤ m.ticks) | none => true

/-- A packet without a way on is dropped (R308). -/
def Mach.unroutable (m : Mach) : Mach :=
  let m1 := m.bump routerPage Reg.ROUTER.UNROUTABLE_CNT
  if m1.msPassed m1.fab.routeAt then
    { m1.raise routerPage 17 with fab := { (m1.raise routerPage 17).fab with routeAt := some m1.ticks } }
  else m1

def outsDefault (_ : Nat) : List OutEnt := []

/-- Queue a packet at an output; `inb` is the input buffer that it fills meanwhile. -/
def Mach.queueOut (m : Mach) (p vc : Nat) (pk : Packet) (inb : Option (Nat × Nat)) : Mach :=
  { m with fab := { m.fab with outs := SMap.set m.fab.outs outsDefault p (SMap.get m.fab.outs outsDefault p ++ [⟨vc, pk, inb⟩]) } }

/-- A packet reaches its destination here. -/
def Mach.atHome (m : Mach) (pk : Packet) (t : Option Nat) (inb : Option (Nat × Nat)) : Mach :=
  { m with fab := { m.fab with arrived := m.fab.arrived ++ [⟨pk, t, inb⟩] } }

/-- A TC0 packet becomes demoted at a port (R303, R341). -/
def Mach.slotMiss (m : Mach) (p : Nat) : Mach :=
  let m1 := m.bump (calPage p) Reg.CAL.SLOT_MISS_CNT
  if m1.msPassed (SMap.get m1.fab.missAt (fun _ => none) p) then
    let m2 := m1.raise (calPage p) 16
    { m2 with fab := { m2.fab with missAt := SMap.set m2.fab.missAt (fun _ => none) p (some m2.ticks) } }
  else m1

/-- Perform a route that does not wait for a slot. -/
def Mach.follow (m : Mach) (pk : Packet) (r : Route) (inb : Option (Nat × Nat)) : Mach :=
  match r with
  | .here => m.atHome pk none inb
  | .out p vc pk' =>
    let m1 := if pk'.detour && !pk.detour then m.bump routerPage Reg.ROUTER.DETOUR_CNT else m
    (m1.queueOut p vc pk' inb).stir
  | .drop => if pk.mcast then m.bump routerPage Reg.ROUTER.UNROUTABLE_CNT else m.unroutable
  | .demote _ => m
  | .wait _ => m

/-- Demote a TC0 packet at a port and send it on as TC1. -/
def Mach.demote (m : Mach) (pk : Packet) (p : Nat) (inPort : Option Nat) (occ : Occupancy) : Mach :=
  let pk' := { pk with demoted := true }
  let m1 := m.slotMiss p
  m1.follow pk' (m1.route pk' inPort 1 occ) (inPort.map (fun i => (i, 0)))

/-! ## Buffers and replays (R296, R306) -/

/-- Credits of an input buffer that packets in the module still fill (R306). -/
def Mach.bufferUsed (m : Mach) (p vc : Nat) : Nat :=
  ((m.fab.outs.flatMap (·.2)).filter (fun e => decide (e.inb = some (p, vc)))).foldl (fun n e => n + e.pk.credits) 0 +
    (m.fab.arrived.filter (fun e => decide (e.inb = some (p, vc)))).foldl (fun n e => n + e.pk.credits) 0 +
    (m.fab.tc0.filter (fun e => decide (e.inPort = p ∧ vc = 0))).foldl (fun n e => n + e.pk.credits) 0

/-- The peer has the credits to send a packet on a channel of a port. -/
def Mach.hasRoom (m : Mach) (p vc : Nat) (pk : Packet) : Bool := decide (m.bufferUsed p vc + pk.credits ≤ vcCredits vc)

/-- Flits of a port are replayed: counted, and kept for the burst of R296. -/
def Mach.noteReplays (m : Mach) (p n : Nat) : Mach :=
  let m1 := m.bump (portPage p) Reg.PORT.REPLAYS n
  let old := (SMap.get m.fab.replays (fun _ => []) p).filter (fun e => decide (m.ticks ≤ e.1 + 1000000))
  { m1 with fab := { m1.fab with replays := SMap.set m1.fab.replays (fun _ => []) p (if n = 0 then old else (m.ticks, n) :: old) } }

/-- 16 replays of a port within 1 ms. -/
def Mach.replayBurst (m : Mach) (p : Nat) : Bool :=
  decide (16 ≤ (((SMap.get m.fab.replays (fun _ => []) p).filter (fun e => decide (m.ticks ≤ e.1 + 1000000))).map (·.2)).sum)

/-- A packet of a class leaves on a port (R325). A pending injection makes one of its flits be replayed. -/
def Mach.countTx (m : Mach) (p cls bytes : Nat) : Mach :=
  let pg := portPage p
  let inj := m.takeInject pg 21
  let m1 := (if inj.1 then inj.2.noteReplays p 1 else inj.2).bump pg Reg.PORT.TX_BYTES bytes
  m1.setLive pg Reg.PORT.TX_PKTS (m1.live pg Reg.PORT.TX_PKTS cls + 1) cls

/-! ## Injection (R300, R311, R316, R317) -/

/-- The receivers of a multicast packet (R317). -/
def Mach.mcastReceivers (m : Mach) (pk : Packet) : List (Nat × Nat) :=
  let a := b2n pk.axis
  (upTo pk.dstY.toNat).map (fun k =>
    let h := pk.dstX.toNat + 1 + k
    let c := if pk.dir then (m.mine a + m.dim a - h % m.dim a) % m.dim a else (m.mine a + h) % m.dim a
    if a = 0 then (c, m.myY) else (m.myX, c))

/-- The packet is refused as MALFORMED. -/
def Mach.malformed (m : Mach) (pk : Packet) : Bool :=
  pk.rsv || decide (pk.len.toNat = 0 ∨ 128 < pk.len.toNat ∨ pk.payload.length ≠ 64 * pk.len.toNat ∨ 6 ≤ pk.kind.toNat) ||
    decide (pk.tc = 2 ∧ pk.len.toNat ≠ 1) || decide (pk.tc = 3 ∧ 16 < pk.len.toNat) ||
    (pk.mcast && (decide (2 ≤ pk.tc.toNat) || decide (pk.dstY.toNat = 0) ||
      decide (m.dim (b2n pk.axis) - 1 < pk.dstX.toNat + pk.dstY.toNat)))

/-- A DRONE entry of the bank in force names the module (R316). -/
def Mach.namesDrone (m : Mach) (x y : Nat) : Bool :=
  (upTo 64).any (fun i =>
    let w := m.bankWord m.bankNow (0xA00 + 8 * i)
    bit w 63 && decide (fld w 7 0 = x ∧ fld w 15 8 = y))

/-- A packet is injected, and counted (R324): whether a pending injection of a wrong CRC acts on it. -/
def Mach.injected (m : Mach) : Bool × Mach := (m.bump routerPage Reg.ROUTER.E2E_SENT).takeInject routerPage 19

/-- Stamp a packet at its injection (R300). -/
def Mach.stamp (m : Mach) (pk : Packet) (seq : Nat) : Packet × Mach :=
  let p := { pk with srcX := BitVec.ofNat 8 m.myX, srcY := BitVec.ofNat 8 m.myY, seq := BitVec.ofNat 32 seq,
                     epoch := decide (m.bankNow = 1), injTime := m.time.ns, demoted := false, detour := false, dl := false,
                     blocked := 0 }
  let inj := m.injected
  ({ p with crc := if inj.1 then ~~~p.crcNow else p.crcNow }, inj.2)

/-- The packet can be admitted by its flow now (R311, R315). -/
def Mach.admits (m : Mach) (t : FlowTx) (pk : Packet) : Bool :=
  t.resync.isNone && decide (t.out.length < 1024 ∧ t.bytes + pk.bytes ≤ 2 ^ m.act routerPage Reg.ROUTER.E2ECTL_WIN_LOG2)

/-- The refusal of a packet at injection: a ring code, or none. -/
def Mach.injectCode (m : Mach) (pk : Packet) : Option Nat :=
  if m.malformed pk then some 0x0E
  else if !pk.mcast && decide (m.dimX ≤ pk.dstX.toNat ∨ m.dimY ≤ pk.dstY.toNat) then some 0x07
  else if !pk.mcast && decide (pk.kind.toNat ≤ 2) && m.namesDrone pk.dstX.toNat pk.dstY.toNat then some 0x09
  else none

/-- Refuse a packet. -/
def Mach.refusePkt (m : Mach) (o : Offer) (code : Nat) : Mach :=
  (if code = 0x09 then m.raise routerPage 20 else m).pktDone o.owner o.pk code

/-- Take an offer away. -/
def Mach.takeOffer (m : Mach) (o : Offer) : Mach := { m with fab := { m.fab with offers := m.fab.offers.erase o } }

/-- Record a stamped packet as outstanding in its flow. -/
def Mach.outstanding (m : Mach) (t : FlowTx) (o : Offer) (pk : Packet) : Mach :=
  let e : OutPkt := { pk := pk, owner := o.owner, sent := m.ticks, resends := 0,
                      waitFor := if pk.mcast then m.mcastReceivers pk else [(pk.dstX.toNat, pk.dstY.toNat)],
                      rto := m.e2eRto, retry := m.e2eRetry }
  m.setFlowTx { t with next := seqAdd t.next 1, out := t.out ++ [e] }

/-- A multicast packet belongs to a multicast flow (R310). -/
def asFlow (pk : Packet) : Packet := { pk with mflow := pk.mcast }

/-- The flow of a packet has given up: what is offered to it completes UNREACHABLE at once (R315). -/
def Mach.shut (m : Mach) (pk : Packet) : Bool :=
  !pk.flowless && (m.flowTx (asFlow pk).flow).closed && (m.injectCode (asFlow pk)).isNone

/-- An offer completes UNREACHABLE. -/
def Mach.unreached (m : Mach) (o : Offer) : Mach := ((m.takeOffer o).bump routerPage Reg.ROUTER.E2E_FAIL_CNT).pktDone o.owner o.pk 0x07

/-- Inject an offer of class 1 to 3: refused, held back by its flow, or sent on its way. -/
def Mach.inject (m : Mach) (o : Offer) (occ : Occupancy) : Mach :=
  let pk := asFlow o.pk.unstamped
  match m.injectCode pk with
  | some c => (m.takeOffer o).refusePkt o c
  | none =>
    let t := m.flowTx pk.flow
    if pk.flowless then
      let r := m.stamp pk 0
      (r.2.takeOffer o).follow r.1 (r.2.route r.1 none 1 occ) none
    else if t.closed then m.unreached o
    else if !m.admits t pk then m
    else
      let r := m.stamp pk t.next
      let m1 := (r.2.takeOffer o).outstanding t o r.1
      m1.follow r.1 (m1.route r.1 none 1 occ) none

/-- Offer a packet to the router (R311); a flow that has given up completes it at once (R315). -/
def Mach.offer (m : Mach) (pk : Packet) (o : PktOwner) : Mach :=
  if m.shut pk.unstamped then (m.bump routerPage Reg.ROUTER.E2E_FAIL_CNT).pktDone o pk 0x07
  else { m with fab := { m.fab with offers := m.fab.offers ++ [⟨pk.unstamped, o⟩] } }

/-! ## Fabric control (R310, R312, R315, R316) -/

/-- Occupancy does not matter to packets off the adaptive channel. -/
def noOcc : Occupancy := { xp := 0, xn := 0, yp := 0, yn := 0 }

/-- A packet with nothing set but its class, kind, destination and payload. -/
def plainPacket (tc kind index x y ctx : Nat) (d : Bytes) (marks : List Bool) : Packet :=
  { tc := BitVec.ofNat 2 tc, epoch := false, demoted := false, detour := false, dl := false, mcast := false, axis := false,
    dir := false, mflow := false, rsv := false, dstX := BitVec.ofNat 8 x, dstY := BitVec.ofNat 8 y, srcX := 0, srcY := 0,
    len := BitVec.ofNat 8 (d.length / 64), seq := 0, index := BitVec.ofNat 13 index, kind := BitVec.ofNat 3 kind, injTime := 0,
    crc := 0, ctx := BitVec.ofNat 32 ctx, payload := d, marks := marks, blocked := 0 }

/-- Bytes padded with zeros to a length. -/
def padTo (n : Nat) (d : Bytes) : Bytes := d ++ List.replicate (n - d.length) 0

/-- Send a fabric-control packet: type, flow, CUM, SACK, NSEQ and NCODE (R312). -/
def Mach.control (m : Mach) (x y type tc : Nat) (mflow axis dir : Bool) (cum sack nseq ncode : Nat) : Mach :=
  let w0 := cum + tc * 2 ^ 32 + b2n mflow * 2 ^ 34 + b2n axis * 2 ^ 35 + b2n dir * 2 ^ 36 + type * 2 ^ 37
  let d := padTo 64 (toBytes 8 w0 ++ toBytes 8 sack ++ toBytes 8 (nseq + ncode * 2 ^ 32))
  let r := m.stamp (plainPacket 2 4 0 x y 0 d (List.replicate 8 false)) 0
  r.2.follow r.1 (r.2.route r.1 none 10 noOcc) none

/-- SACK of a receiver's flow. -/
def FlowRx.sack (r : FlowRx) : Nat :=
  (upTo 64).foldl (fun a i => a + b2n (decide (seqAdd r.cum (1 + i) ∈ r.got)) * 2 ^ i) 0

/-- Acknowledge a flow to its source. -/
def Mach.ackFlow (m : Mach) (r : FlowRx) : Mach :=
  m.control r.key.x r.key.y 0 r.key.tc r.key.mflow r.key.axis r.key.dir r.cum r.sack 0 0

/-- A RESYNC or its answer. -/
def Mach.sendResync (m : Mach) (fl : FlowId) (x y base : Nat) : Mach :=
  m.control x y 2 fl.tc.toNat fl.mflow fl.axis fl.dir 0 0 base 0

end Sys2Proof.Machine
end

