-- ==== Sys2Proof/Machine/Live.lean ====
section
/-! DEFINITION. Writes of live registers (R36, R39, R40): the refusal of reserved bits, and the bits that a write puts. -/

namespace Sys2Proof.Machine

/-- The bits of a register that hold RW or LV fields, and those that hold WO fields as well. -/
def heldBits (b : Block) (off : Nat) : Word :=
  (fieldsAt b off).foldl (fun w fi => if fi.1.acc = .rw ∨ fi.1.acc = .lv then w ||| mask fi.1.hi fi.1.lo else w) 0

def commandBits (b : Block) (off : Nat) : Word :=
  (fieldsAt b off).foldl (fun w fi => if fi.1.acc = .wo then w ||| mask fi.1.hi fi.1.lo else w) 0

/-- The RW and LV fields of a register as a write leaves them; every other bit keeps its value. -/
def Mach.putHeld (m : Mach) (p : Page) (off : Nat) (w : RegWrite) : Mach :=
  let sel := heldBits p.blk off &&& w.cover
  m.setReg p off ((m.reg p off &&& ~~~sel) ||| (w.bits &&& sel))

/-- A write of a live register: refused whole when it sets a reserved bit (R40), else handed on. -/
def Mach.liveWrite (m : Mach) (p : Page) (off : Nat) (w : RegWrite) (f : Mach → Mach) : Mach :=
  if setsReserved p.blk off w.bits then m.cfgReject p 2 else f m

/-- A write of a live register by its owner (R38), refused when it sets a reserved bit. -/
def Mach.ownedLive (m : Mach) (p : Page) (off : Nat) (w : RegWrite) (f : Mach → Mach) : Mach :=
  m.owned w.src p (fun m => m.liveWrite p off w f)

end Sys2Proof.Machine
end

