-- ==== Sys2Proof/Machine/HiveTime.lean ====
section
/-! DEFINITION. Hive time (R326 to R338): time packets, the choice of root and parent, holdover, and the time registers. -/

namespace Sys2Proof.Machine

def timePortDefault (_ : Nat) : TimePort := TimePort.reset
def Mach.timePort (m : Mach) (p : Nat) : TimePort := SMap.get m.time.ports timePortDefault p
def Mach.setTimePort (m : Mach) (p : Nat) (x : TimePort) : Mach :=
  { m with time := { m.time with ports := SMap.set m.time.ports timePortDefault p x } }

def Mach.timeState (m : Mach) : Nat := m.live timePage Reg.TIME.STATUS_STATE
def Mach.rootPrio (m : Mach) : Nat := m.act timePage Reg.TIME.TIMECTL_ROOT_PRIO

/-- The end-to-end CRC of a packet is wrong: it is discarded without acknowledgement (R314). -/
def Mach.crcDrop (m : Mach) : Mach :=
  ((m.bump routerPage Reg.ROUTER.E2E_CRC_ERR).raise routerPage 19).report412 routerPage 0x0B 0 .logged false false

/-- No correction is under way: the count follows the local oscillator (R327, R333). -/
def Mach.stopSlew (m : Mach) : Mach := { m with time := { m.time with slew := 0 } }

/-- Enter a time state; VALID follows it (R327). A correction toward what was followed before ends. -/
def Mach.setTimeState (m : Mach) (s : Nat) : Mach :=
  (m.stopSlew.setLive timePage Reg.TIME.STATUS_STATE s).setLive timePage Reg.TIME.STATUS_VALID
    (b2n (decide (s = 2 ∨ s = 3 ∨ s = 4)))

def Mach.setParent (m : Mach) (p depth : Nat) : Mach :=
  (m.setLive timePage Reg.TIME.STATUS_PARENT p).setLive timePage Reg.TIME.STATUS_DEPTH depth

/-- HOLDOVER (R336). -/
def Mach.holdover (m : Mach) : Mach :=
  let m1 := ((m.setTimeState 3).setLive timePage Reg.TIME.STATUS_PARENT 7).bump timePage Reg.TIME.HOLD_ENTRIES
  { m1 with time := { m1.time with holdSince := m1.ticks } }

/-- The parent of a LOCKED or ACQUIRING module is gone. -/
def Mach.parentGone (m : Mach) : Mach :=
  if m.timeState = 2 then m.holdover
  else if m.timeState = 1 then (m.setTimeState 0).setLive timePage Reg.TIME.STATUS_PARENT 7
  else m

/-- A port went down: a parent behind it is lost (R336). -/
def Mach.timePortDown (m : Mach) (p : Nat) : Mach :=
  if m.live timePage Reg.TIME.STATUS_PARENT = p then m.parentGone else m

/-! ## Roots (R332) -/

/-- Candidate a is better than b: higher priority, then lower (Y, X). -/
def betterRoot (a b : Nat × Nat × Nat) : Bool :=
  decide (b.1 < a.1 ∨ (a.1 = b.1 ∧ (a.2.2 < b.2.2 ∨ (a.2.2 = b.2.2 ∧ a.2.1 < b.2.1))))

def RootInfo.id (r : RootInfo) : Nat × Nat × Nat := (r.prio, r.x, r.y)

/-- This module as a candidate. -/
def Mach.selfRoot (m : Mach) : Option (Nat × Nat × Nat) := if m.rootPrio = 0 then none else some (m.rootPrio, m.myX, m.myY)

/-- The best candidate that is heard of and not taken as lost. -/
def Mach.bestHeard (m : Mach) : Option (Nat × Nat × Nat) :=
  (m.time.roots.filter (fun r => !r.lost && decide (0 < r.prio))).foldl (fun best r =>
    match best with
    | some b => if betterRoot r.id b then some r.id else best
    | none => some r.id) none

/-- The best candidate heard of that is better than this module. -/
def Mach.target (m : Mach) : Option (Nat × Nat × Nat) :=
  match m.bestHeard, m.selfRoot with
  | some b, some s => if betterRoot b s then some b else none
  | b, none => b
  | none, _ => none

/-- Take a current root (R338): one that only changes its ROOT_PRIO is no new root. -/
def Mach.takeRoot (m : Mach) (r : Nat × Nat × Nat) : Mach :=
  let m1 : Mach := { m with time := { m.time with root := some r } }
  if m.time.root.map (·.2) = some r.2 then m1
  else
    (((m1.setLive timePage Reg.TIME.STATUS_ROOT_X r.2.1).setLive timePage Reg.TIME.STATUS_ROOT_Y r.2.2).bump timePage
      Reg.TIME.ROOT_CHANGES).raise timePage 20

/-- An advertisement of a root: its heartbeat advances, or nothing does. -/
def hearRoot (tick prio x y hb : Nat) : List RootInfo → List RootInfo
  | [] => [{ prio := prio, x := x, y := y, hb := hb, tick := tick, lost := false }]
  | r :: rs =>
    if r.x = x ∧ r.y = y then
      (if r.prio ≠ prio ∨ seqAfter hb r.hb then { prio := prio, x := x, y := y, hb := hb, tick := tick, lost := false } else r) :: rs
    else r :: hearRoot tick prio x y hb rs

/-! ## Parents (R331) -/

/-- A port whose neighbour may be the parent in the tree of a root. -/
def Mach.eligible (m : Mach) (root : Nat × Nat × Nat) (p : Nat) : Bool :=
  let t := m.timePort p
  m.portUp p && t.excluded.isNone && t.heard.isSome && decide ((t.state = 2 ∨ t.state = 4) ∧ (t.prio, t.x, t.y) = root)

/-- The eligible port of lowest depth; ties in the order XP, XN, YP, YN. -/
def Mach.bestParent (m : Mach) (root : Nat × Nat × Nat) : Option Nat :=
  ((upTo 4).filter (m.eligible root)).foldl (fun best p =>
    match best with
    | some q => if (m.timePort p).depth < (m.timePort q).depth then some p else best
    | none => some p) none

/-- No neighbour may be the parent: a module that follows one has lost it (R331, R336). -/
def Mach.orphaned (m : Mach) : Mach := if m.live timePage Reg.TIME.STATUS_PARENT < 4 then m.parentGone else m

/-- A root that hears of a better one leaves ROOT for ACQUIRING; it has no current root until it takes one (R332, R338). -/
def Mach.leaveRoot (m : Mach) : Mach :=
  if m.timeState = 4 then
    let m1 := (m.setTimeState 1).setLive timePage Reg.TIME.STATUS_PARENT 7
    { m1 with time := { m1.time with root := none } }
  else m

/-- Choose a parent, and what follows in each state (R331, R332, R336). -/
def Mach.chooseParent (m : Mach) : Mach :=
  match m.target with
  | none => m.orphaned
  | some r =>
    let m1 := ({ m with time := { m.time with betterAt := m.ticks } } : Mach).leaveRoot
    match m1.bestParent r with
    | none => m1.orphaned
    | some p =>
      let d := (m1.timePort p).depth
      if 176 ≤ d then m1.parentGone.raise timePage 21
      else
        let m2 := m1.takeRoot r
        if m2.timeState = 0 then (m2.setParent p (d + 1)).setTimeState 1
        else if m2.timeState = 3 then
          (((m2.setParent p (d + 1)).setTimeState 2).bump timePage Reg.TIME.REPARENTS).raise timePage 18
        else if m2.timeState = 2 ∧ m2.live timePage Reg.TIME.STATUS_PARENT ≠ p then
          ((m2.setParent p (d + 1)).bump timePage Reg.TIME.REPARENTS).raise timePage 18
        else m2.setParent p (d + 1)

/-! ## Time packets (R330, R335, R337) -/

/-- Mean of the samples kept, toward zero. The spec names no filter. -/
def meanOf (l : List Int) : Int := if l.isEmpty then 0 else l.sum.tdiv l.length

/-- The count steps: only while hive time is invalid (R328). -/
def Mach.stepTime (m : Mach) (v : Word) : Mach :=
  let m1 := m.setLive timePage Reg.TIME.STEP_NS (v - m.time.ns).toNat
  ({ m1 with time := { m1.time with ns := v } }).raise timePage 19

/-- The correction of one exchange: the offset, at most 10 ps for each µs of the 10 µs between exchanges (R335). -/
def slewOf (off : Int) : Int := ((if off < -100 then -100 else if 100 < off then 100 else off) * 65536).tdiv 1000

/-- A correction is to be slewed in, by steering the root clock (R335, R458). By how much in parts per billion is open: a free value, log
6. -/
def Mach.steer (m : Mach) (c : Int) : Mach :=
  ({ m with time := { m.time with slew := c, freqOffset := BitVec.truncate 32 m.freeWord } } : Mach).stir

/-- The exchange is accepted: filters, LINK_DELAY, OFFSET_PS, and the lock of a module that was already ACQUIRING. -/
def Mach.acceptExchange (m : Mach) (p : Nat) (tp : TimePkt) (off delay : Int) (acq : Bool) : Mach :=
  let t := m.timePort p
  let m1 := m.setTimePort p { t with offsets := (off :: t.offsets).take 1600, delays := (delay :: t.delays).take 1600,
                                     discards := 0 }
  let ds := (m1.timePort p).delays
  let ld := ((meanOf ds).toNat + 999) / 1000
  let m2 := m1.setLive (portPage p) Reg.PORT.LINK_DELAY ld
  if m2.live timePage Reg.TIME.STATUS_PARENT = p then
    let m3 := m2.setLive timePage Reg.TIME.OFFSET_PS (wrapInt 32 (meanOf (m2.timePort p).offsets))
    if m3.timeState = 1 ∧ acq then ((m3.stepTime tp.now).setTimeState 2).raise timePage 17
    else if m3.timeState = 2 then m3.steer (slewOf off)
    else m3
  else m2

/-- An exchange that jumps is discarded; the third in a row excludes the port (R337). -/
def Mach.discardExchange (m : Mach) (p : Nat) (inj : Bool) : Mach :=
  let t := m.timePort p
  let m1 := ((m.raise timePage 19).bump timePage Reg.TIME.STEP_DISCARDS).report412 timePage 0x0D p .transient inj false
  if t.discards + 1 < 3 then m1.setTimePort p { t with discards := t.discards + 1 }
  else ((m1.setTimePort p { t with discards := 0, excluded := some m1.ticks }).timePortDown p).chooseParent

/-- Bytes of a time packet: a header and the 64 bytes of TC2 (R301, R330). -/
def timeBytes : Nat := 96

/-- R330, R331, R337. What a good time packet does. What neighbours advertise of this module itself as a root is no word of another
candidate (R332). The detector of R337 compares an exchange with the parent of a LOCKED module, and an injection makes the next one
compared jump. -/
def Mach.takeTime (m : Mach) (p : Nat) (tp : TimePkt) : Mach :=
  let t := m.timePort p
  let compared := m.live timePage Reg.TIME.STATUS_PARENT = p ∧ m.timeState = 2 ∧ !t.offsets.isEmpty
  let inj := if compared then m.takeInject timePage 19 else (false, m)
  let off := ((tp.t2 - tp.t1) - (tp.t4 - tp.t3)).tdiv 2 + (if inj.1 then 1000 else 0)
  let delay := ((tp.t4 - tp.t1) - (tp.t3 - tp.t2)).tdiv 2
  let m1 := inj.2.setTimePort p { t with state := tp.state.toNat, depth := tp.depth.toNat, prio := tp.rootPrio.toNat,
                                         x := tp.rootX.toNat, y := tp.rootY.toNat, heard := some m.ticks }
  let m2 : Mach := if tp.rootPrio = 0 ∨ (tp.rootX.toNat = m.myX ∧ tp.rootY.toNat = m.myY) then m1
    else { m1 with time := { m1.time with
            roots := hearRoot m1.ticks tp.rootPrio.toNat tp.rootX.toNat tp.rootY.toNat tp.heartbeat.toNat m1.time.roots } }
  let jump := compared ∧ (inj.1 ∨ 500 < (off - meanOf t.offsets).natAbs)
  let acq := decide (m2.timeState = 1 ∧ m2.live timePage Reg.TIME.STATUS_PARENT = p)
  let m3 := m2.chooseParent
  if jump then m3.discardExchange p inj.1 else m3.acceptExchange p tp off delay acq

/-- A time packet arrives; one whose CRC is wrong is discarded (R314). -/
def Mach.timePacket (m : Mach) (p : Nat) (tp : TimePkt) : Mach :=
  if !m.portUp p then m
  else
    let m1 := m.bump (portPage p) Reg.PORT.RX_BYTES timeBytes
    if tp.crcGood then m1.takeTime p tp else m1.crcDrop

/-- R330. -/
def execTimePacketReceive (p : PortId) (tp : TimePkt) (s : State) : Host.Outcome State Fault Refusal :=
  s.run true (fun m => m.timePacket p.val tp)

/-- R336. No time packet from the parent for 40 µs: it is lost, whether the module has locked to it or was measuring. -/
def Mach.parentTimeout (m : Mach) : Mach :=
  let p := m.live timePage Reg.TIME.STATUS_PARENT
  if (m.timeState = 1 ∨ m.timeState = 2) ∧ p < 4 ∧ ((m.timePort p).heard.getD 0) + 40000 ≤ m.ticks then
    (m.setTimePort p { m.timePort p with heard := none }).parentGone.chooseParent
  else m

def execParentTimeout (s : State) : Host.Outcome State Fault Refusal := s.run true (fun m => m.parentTimeout)

/-- The heartbeat of a root that was heard of has not advanced for 2 ms (R332). -/
def Mach.silentRoot (m : Mach) (r : RootInfo) : Bool := !r.lost && decide (r.tick + 2000000 ≤ m.ticks)

/-- R332. Roots whose heartbeat has not advanced for 2 ms are lost, the current root among them or another that was heard of,
and a parent is chosen among what is left. -/
def Mach.rootTimeout (m : Mach) : Mach :=
  if m.time.roots.any m.silentRoot then
    let gone := decide (m.timeState ≠ 4) && m.time.roots.any (fun x => m.silentRoot x && decide (m.time.root = some x.id))
    let m1 : Mach := { m with time := { m.time with
      roots := m.time.roots.map (fun x => if m.silentRoot x then { x with lost := true } else x)
      root := if gone then none else m.time.root } }
    (if gone then m1.parentGone else m1).chooseParent
  else m

def execRootHeartbeatTimeout (s : State) : Host.Outcome State Fault Refusal := s.run true (fun m => m.rootTimeout)

/-- R332. A candidate that has heard of no better one for 2 ms becomes root and goes on with its count. -/
def Mach.rootClaim (m : Mach) : Mach :=
  match m.selfRoot with
  | none => m
  | some r =>
    if m.timeState ≠ 4 ∧ m.target.isNone ∧ m.time.betterAt + 2000000 ≤ m.ticks then
      ((m.setTimeState 4).setParent 7 0).takeRoot r
    else m

def execRootClaim (s : State) : Host.Outcome State Fault Refusal := s.run true (fun m => m.rootClaim)

/-- R336. HOLDOVER for longer than HOLD_LIMIT ms. -/
def Mach.holdExpire (m : Mach) : Mach :=
  if m.timeState = 3 ∧ m.time.holdSince + 1000000 * m.act timePage Reg.TIME.TIMECTL_HOLD_LIMIT < m.ticks then
    (m.setTimeState 0).raise timePage 16
  else m

def execHoldLimitExpire (s : State) : Host.Outcome State Fault Refusal := s.run true (fun m => m.holdExpire)

/-- R337. An exclusion of 1 s ends. -/
def Mach.excludeExpire (m : Mach) (p : Nat) : Mach :=
  match (m.timePort p).excluded with
  | some t => if t + 1000000000 ≤ m.ticks then m.setTimePort p { m.timePort p with excluded := none } else m
  | none => m

def execPortExcludeExpire (p : PortId) (s : State) : Host.Outcome State Fault Refusal := s.run true (fun m => m.excludeExpire p.val)

/-- R355. A write of SET: it acts only in FREE with ROOT_PRIO ≥ 1. -/
def Mach.timeSet (m : Mach) (w : RegWrite) : Mach :=
  if m.timeState = 0 ∧ 1 ≤ m.rootPrio then
    let m1 := m.putHeld timePage 0x928 w
    m1.stepTime (m1.reg timePage 0x928)
  else m.cfgReject timePage 1

def execTimeSet (w : RegWrite) (s : State) : Host.Outcome State Fault Refusal :=
  s.run true (fun m => m.ownedLive timePage 0x928 w (fun m => m.timeSet w))

/-- A root that disciplines itself to the time inputs (R333). -/
def Mach.disciplined (m : Mach) : Bool :=
  decide (m.timeState = 4 ∧ m.act timePage Reg.TIME.TIMECTL_EXTREF = 1)

/-- R333, R489. A rising edge of the 1 PPS input: the root slews so that the edge less the cable delay falls on a whole
second, by at most 10 ppm over the second that follows. -/
def Mach.ppsEdge (m : Mach) : Mach :=
  if m.disciplined ∧ !m.time.extLost then
    let e : Int := ((m.now : Int) - (m.act timePage Reg.TIME.EXTCTL_PPS_DELAY : Nat)) % 1000000000
    let c := if e < 500000000 then -e else 1000000000 - e
    let c' := if c < -10000 then -10000 else if 10000 < c then 10000 else c
    m.steer (c' * 65536 - (if c' = c then (m.time.frac.toNat : Int) else 0))
  else m

def execPpsEdge (s : State) : Host.Outcome State Fault Refusal := s.run true (fun m => m.ppsEdge)

/-- R333. A time input has been missing or out of tolerance for 2 s: the root runs on its oscillator. -/
def Mach.extrefLoss (m : Mach) : Mach :=
  if m.disciplined ∧ !m.time.extLost then
    let m1 := (m.raise timePage 23).stopSlew
    { m1 with time := { m1.time with extLost := true } }
  else m

def execExtrefLoss (_inp : BitVec 2) (s : State) : Host.Outcome State Fault Refusal := s.run true (fun m => m.extrefLoss)

/-- R333. The inputs return. -/
def execExtrefReturn (s : State) : Host.Outcome State Fault Refusal :=
  s.run true (fun m => { m with time := { m.time with extLost := false } })

/-- A commit of ROOT_PRIO in ROOT: another one above 0 is what the root advertises from then on (R331); 0 takes the module out of
ROOT: it holds over without a step and has no current root until it takes one (R332, R338). -/
def Mach.rootCommit (m : Mach) : Mach :=
  if m.timeState = 4 ∧ m.rootPrio = 0 then
    let m1 := m.holdover
    ({ m1 with time := { m1.time with root := none } } : Mach).chooseParent
  else if m.timeState = 4 then { m with time := { m.time with root := m.selfRoot } }
  else m

/-! ## Snapshots (R353) -/

/-- R353. A write of FREEZE.ARM. -/
def Mach.freezeArm (m : Mach) : Mach :=
  let t := m.live timePage Reg.TIME.FREEZE_AT
  if t < m.now + 1000 then m.raise timePage 22
  else
    let m1 := m.setLive timePage Reg.TIME.FREEZE_ARMED 1
    { m1 with time := { m1.time with armed := some (t, m1.live timePage Reg.TIME.FREEZE_ID) } }

def execFreezeArm (w : RegWrite) (s : State) : Host.Outcome State Fault Refusal :=
  s.run true (fun m => m.ownedLive timePage 0x940 w (fun m => if bit w.bits 0 then m.freezeArm else m))

end Sys2Proof.Machine
end

