-- ==== Sys2Proof/Machine/Fabric.lean ====
section
/-! DEFINITION. The ports and the router (R293 to R324): training, port loss, routing of packets, the choice at an output,
acknowledgement and resending, the table banks. -/

namespace Sys2Proof.Machine

/-! ## Calendar tables (R339, R343) -/

def calKey (p b off : Nat) : Nat := (2 * p + b) * 65536 + off
def Mach.calWord (m : Mach) (p b off : Nat) : Word := SMap.get m.fab.cal (fun _ => 0) (calKey p b off)
def Mach.setCalWord (m : Mach) (p b off : Nat) (v : Word) : Mach :=
  { m with fab := { m.fab with cal := SMap.set m.fab.cal (fun _ => 0) (calKey p b off) v } }

/-- The calendar bank in force of a port. -/
def Mach.calBank (m : Mach) (p : Nat) : Nat := m.live (calPage p) Reg.CAL.EPOCH_IN_FORCE

/-- A calendar entry. -/
structure CalEnt where
  valid : Bool
  kind : Nat
  index : Nat
  start : Nat
  len : Nat
  fallen : Bool
  period : Nat
  phase : Nat
  x : Nat
  y : Nat
deriving DecidableEq, Repr

def Mach.calEnt (m : Mach) (p b i : Nat) : CalEnt :=
  let w0 := m.calWord p b (256 + 16 * i)
  let w1 := m.calWord p b (264 + 16 * i)
  { valid := bit w0 0, kind := fld w0 2 1, index := fld w0 15 3, start := fld w0 35 16, len := fld w0 45 36, fallen := bit w0 46,
    period := fld w1 19 0 + 1, phase := fld w1 39 20, x := fld w1 47 40, y := fld w1 55 48 }

def Mach.calCycle (m : Mach) (p b : Nat) : Nat := fld (m.calWord p b 0) 19 0
def Mach.calOrigin (m : Mach) (p b : Nat) : Nat := (m.calWord p b 8).toNat

/-- The entries that a bank lists, by number. -/
def Mach.calEntries (m : Mach) (p b : Nat) : List (Nat × CalEnt) :=
  (m.fab.cal.filter (fun e => decide (calKey p b 256 ≤ e.1 ∧ e.1 < calKey p b 65536 ∧ e.1 % 16 = 0))).filterMap (fun e =>
    let i := (e.1 - calKey p b 256) / 16
    let c := m.calEnt p b i
    if c.valid then some (i, c) else none)

/-- The slot of an entry opens at an instant (R339). -/
def CalEnt.opens (c : CalEnt) (cycle origin t : Nat) : Bool :=
  c.valid && decide (0 < cycle ∧ origin ≤ t ∧ (t - origin) % cycle = c.start ∧ (t - origin) / cycle % c.period = c.phase)

/-- A slot opens within [t, t + d) on a port: when its first begins, in ns from t. -/
def Mach.slotWithin (m : Mach) (p t d : Nat) : Bool :=
  let b := m.calBank p
  let es := (m.calEntries p b).filter (fun e => !e.2.fallen)
  if es.isEmpty then false
  else (upTo d).any (fun k => es.any (fun e => e.2.opens (m.calCycle p b) (m.calOrigin p b) (t + k)))

/-- Link time of a packet in ns, rounded up, at a port's present width (R294). -/
def Mach.linkTime (m : Mach) (p n : Nat) : Nat :=
  if m.live (portPage p) Reg.PORT.STATE = 3 then ceilDiv n 630 else ceilDiv n 1260

/-- A packet fits the length of a slot at the port's present width (R341). -/
def Mach.fitsSlot (m : Mach) (p n len : Nat) : Bool :=
  decide (n ≤ len * (if m.live (portPage p) Reg.PORT.STATE = 3 then 630 else 1260))

/-- A slot of a port is in use until its end, or one would start within d ns: no other class may send (R302, R339). -/
def Mach.slotBars (m : Mach) (p d : Nat) : Bool := decide (m.ticks < SMap.get m.fab.slotEnd (fun _ => 0) p) || m.slotWithin p m.now d

/-- Every valid entry of the bank in force falls; FALLEN_CNT counts those that stood until now (R344). -/
def Mach.calFall (m : Mach) (p : Nat) : Mach :=
  let b := m.calBank p
  let es := (m.calEntries p b).filter (fun e => !e.2.fallen)
  ((es.foldl (fun m e => m.setCalWord p b (256 + 16 * e.1) (m.calWord p b (256 + 16 * e.1) ||| w64 (2 ^ 46))) m).bump
    (calPage p) Reg.CAL.FALLEN_CNT es.length).raise (calPage p) 18

/-! ## Ports (R295 to R297) -/

/-- A port that was up goes down into a state: its buffers are discarded (R297). `replay` counts the packets that its replay
buffer held. -/
def Mach.dropPort (m : Mach) (p state replay : Nat) : Mach :=
  let pg := portPage p
  let lost := (SMap.get m.fab.outs outsDefault p).length + replay
  let m1 := ((m.setLive pg Reg.PORT.STATE state).setLive pg Reg.PORT.ACTIVE_LANES 0).bump pg Reg.PORT.LOST_PKTS lost
  let m2 : Mach := { m1 with fab := { m1.fab with
    outs := SMap.set m1.fab.outs outsDefault p [], slotEnd := SMap.set m1.fab.slotEnd (fun _ => 0) p 0
    replays := SMap.set m1.fab.replays (fun _ => []) p [] } }
  (((m2.bump pg Reg.PORT.DOWN_EVENTS).raise pg 16).calFall p).timePortDown p

/-- A port goes down for a cause within the module: how many packets its replay buffer held is open (log 53). -/
def Mach.closePort (m : Mach) (p state : Nat) : Mach := (m.dropPort p state m.freeWord.toNat).stir

/-- R297. Loss of signal, of the link handshake, or a reset of the peer's router. -/
def execPortDown (p : PortId) (replay : Nat) (s : State) : Host.Outcome State Fault Refusal :=
  s.run true (fun m => if m.portUp p.val then m.dropPort p.val 0 replay else m)

/-- R295. The peer of an enabled port answers. -/
def execPeerAnswers (p : PortId) (s : State) : Host.Outcome State Fault Refusal :=
  s.run true (fun m =>
    if m.live (portPage p.val) Reg.PORT.STATE = 0 ∧ m.act (portPage p.val) Reg.PORT.PORTCTL_ENABLE = 1 ∧ !m.power.routerReset then
      m.setLive (portPage p.val) Reg.PORT.STATE 1
    else m)

/-- Lanes that a port has lost for good (R417). -/
def Mach.laneRetired (m : Mach) (p l : Nat) : Bool :=
  m.ras.keys.any (fun r => decide (r.key = ⟨(portPage p).blk.type, p, 0x0A, l⟩) && r.permanent)

/-- Spare lanes among the first n passing lanes of a direction (R295). -/
def sparesIn (n : Nat) (pass : List Nat) : Nat := ((pass.take n).filter (fun l => decide (48 ≤ l))).length

/-- The coordinates that the neighbour behind a port has (R293, R298). -/
def Mach.neighbour (m : Mach) (p : Nat) : Nat × Nat :=
  if p = 0 then ((m.myX + 1) % m.dimX, m.myY)
  else if p = 1 then ((m.myX + m.dimX - 1) % m.dimX, m.myY)
  else if p = 2 then (m.myX, (m.myY + 1) % m.dimY)
  else (m.myX, (m.myY + m.dimY - 1) % m.dimY)

/-- The peer is the opposite port of the same dimension of the neighbour (R487). -/
def Mach.peerFits (m : Mach) (p : Nat) (rep : TrainReport) : Bool :=
  decide (rep.name.val = (if p % 2 = 0 then p + 1 else p - 1) ∧ (rep.x.toNat, rep.y.toNat) = m.neighbour p)

/-- Training ends (R295, R487). -/
def Mach.trainDone (m : Mach) (p : Nat) (rep : TrainReport) : Mach :=
  let pg := portPage p
  let pass := fun (mask : BitVec 52) => (upTo 52).filter (fun l => mask.toNat.testBit l && !m.laneRetired p l)
  let rx := pass rep.rx
  let tx := pass rep.tx
  let good := min rx.length tx.length
  let failMask := (upTo 52).foldl (fun a l => a + (if l ∈ rx ∧ l ∈ tx then 0 else 2 ^ l)) 0
  let again := SMap.get m.fab.trained (fun _ => false) p
  if !rep.peer then m.setLive pg Reg.PORT.STATE 0
  else
    let m0 : Mach := { m with fab := { m.fab with trained := SMap.set m.fab.trained (fun _ => false) p true } }
    let m1 := (if again then m0.bump pg Reg.PORT.RETRAINS else m0).setLive pg Reg.PORT.LANE_FAIL failMask
    if good < 24 ∨ !m.peerFits p rep then (m1.setLive pg Reg.PORT.STATE 4).raise pg 20
    else
      let n := if 48 ≤ good then 48 else 24
      let sp := max (sparesIn n rx) (sparesIn n tx)
      let m2 := ((m1.setLive pg Reg.PORT.STATE (if n = 48 then 2 else 3)).setLive pg Reg.PORT.ACTIVE_LANES n).setLive pg
        Reg.PORT.SPARES_USED sp
      let m3 := (m2.raise pg 17).raiseIf (decide (m.live pg Reg.PORT.SPARES_USED < sp)) pg 18
      m3.raiseIf (decide (n = 24)) pg 19

/-- R295. -/
def execPortTrainDone (p : PortId) (rep : TrainReport) (s : State) : Host.Outcome State Fault Refusal :=
  s.run true (fun m => if m.live (portPage p.val) Reg.PORT.STATE = 1 then m.trainDone p.val rep else m)

/-- 16 replays of a port within 1 ms are a report of detector 0x0A (R412, R415), injected where the replay that completes them
is, and the port retrains in place (R296). -/
def Mach.burstRetrain (m : Mach) (p lane : Nat) (injected : Bool) : Mach :=
  if m.replayBurst p then
    ((m.raise (portPage p) 21).report412 (portPage p) 0x0A lane .transient injected false).closePort p 1
  else m

/-- R296. Replays; a burst of them within 1 ms, or a lane that has become permanent, makes the port retrain in place. -/
def Mach.linkRetrain (m : Mach) (p replays lane : Nat) : Mach :=
  if !m.portUp p then m
  else
    let m1 := m.noteReplays p replays
    if m1.replayBurst p then m1.burstRetrain p lane false
    else if m1.laneRetired p lane then m1.closePort p 1
    else m1

def execLinkRetrain (p : PortId) (replays : Nat) (lane : BitVec 6) (s : State) : Host.Outcome State Fault Refusal :=
  s.run true (fun m => m.linkRetrain p.val replays lane.toNat)

/-- A commit of PORTCTL (R295, R297): with ENABLE the port waits for its peer, FAILED or not; without it the port is
DISABLED. -/
def Mach.portCommit (m : Mach) (p : Nat) : Mach :=
  let pg := portPage p
  let st := m.live pg Reg.PORT.STATE
  if m.act pg Reg.PORT.PORTCTL_ENABLE = 1 then (if st = 4 ∨ st = 5 then m.setLive pg Reg.PORT.STATE 0 else m)
  else if m.portUp p then m.closePort p 5
  else m.setLive pg Reg.PORT.STATE 5

/-! ## Packets (R300 to R309) -/

/-- The calendar of the first-hop port has an entry for a collective engine and the destination of its packet (R368). -/
def Mach.coSlot (m : Mach) (f : Nat) (pk : Packet) : Bool :=
  let port := if pk.mcast then some (portOf (b2n pk.axis) (b2n pk.dir)) else m.orderPort pk
  match port with
  | none => false
  | some p => (m.calEntries p (m.calBank p)).any (fun e =>
      decide (e.2.kind = 2 ∧ e.2.index = f ∧ e.2.x = pk.dstX.toNat ∧ e.2.y = pk.dstY.toNat))

/-- A scheduled packet of a collective engine, offered while the bank in force had an entry for it, that has none now: it is
sent as TC1 (R368). -/
def Mach.lostSlot (m : Mach) (o : Offer) : Option Nat :=
  match o.owner with
  | .coll f _ => if m.coSlot f o.pk then none else some f
  | _ => none

/-- R300. An endpoint's packet. One that an endpoint has offered is injected on its behalf; a TC0 packet waits for its slot. -/
def Mach.packetInject (m : Mach) (pk : Packet) (occ : Occupancy) : Mach :=
  if m.power.routerReset then m
  else
    let o := match m.fab.offers.find? (fun o => decide (o.pk = pk.unstamped)) with
      | some o => o
      | none => ⟨pk.unstamped, .nobody⟩
    if pk.tc = 0 then
      match m.injectCode (asFlow o.pk) with
      | some c => (m.takeOffer o).refusePkt o c
      | none =>
        if m.shut o.pk then m.unreached o
        else if o ∈ m.fab.offers then
          (match m.lostSlot o with
           | some f =>
             let late : Offer := { o with pk := { o.pk with tc := 1 } }
             let m1 : Mach := { m with fab := { m.fab with offers := m.fab.offers.map (fun x => if x = o then late else x) } }
             (m1.bump (collPage f) Reg.COLL.TC0_NOSLOT).inject late occ
           | none => m)
        else m.offer pk .nobody
    else m.inject o occ

def execPacketInject (pk : Packet) (occ : Occupancy) (s : State) : Host.Outcome State Fault Refusal :=
  s.run true (fun m => m.packetInject pk occ)

/-- The packet is older than its lifetime (R313). -/
def Mach.tooOld (m : Mach) (pk : Packet) : Bool := decide (pk.injTime.toNat + 200000 < m.now)

/-- The slot that serves a transit packet opens at an instant (R341). -/
def Mach.transitSlot (m : Mach) (p inPort : Nat) (pk : Packet) (t : Nat) : Bool :=
  let b := m.calBank p
  (m.calEntries p b).any (fun e =>
    decide (e.2.kind = 0 ∧ e.2.index = inPort ∧ e.2.x = pk.dstX.toNat ∧ e.2.y = pk.dstY.toNat) && !e.2.fallen &&
      e.2.opens (m.calCycle p b) (m.calOrigin p b) t)

/-- A scheduled packet reaches an output: it waits for the slot 64 ns after its arrival, or is demoted (R303). -/
def Mach.waitSlot (m : Mach) (pk : Packet) (p inPort : Nat) (occ : Occupancy) : Mach :=
  if m.transitSlot p inPort pk (m.now + 64) then
    { m with fab := { m.fab with tc0 := m.fab.tc0 ++ [⟨inPort, m.now + 64, pk⟩] } }
  else m.demote pk p (some inPort) occ

/-- R304. A packet arrives on a virtual channel of a port; `bad` of its flits failed the link CRC and were replayed. The peer
sends none without the credits for it (R306). -/
def Mach.packetArrive (m : Mach) (p vc : Nat) (pk : Packet) (occ : Occupancy) (bad : Nat) : Mach :=
  if !m.portUp p || m.power.routerReset || !m.hasRoom p vc pk then m
  else
    let pg := portPage p
    let m1 := (m.bump pg Reg.PORT.RX_BYTES pk.bytes).bump pg Reg.PORT.LINK_CRC_ERR bad
    let m2 := m1.raiseIf (decide (bad ≠ 0)) pg 21
    if m2.tooOld pk then m2.bump routerPage Reg.ROUTER.LIFETIME_DROP
    else
      let due := if pk.tc = 0 ∧ !pk.demoted then some (m2.now + 64) else none
      let m3 := if pk.mcast ∧ m2.mcastHere pk then m2.atHome pk due none else m2
      match m3.route pk (some p) vc occ with
      | .wait o => m3.waitSlot pk o p occ
      | .demote o => m3.demote pk o (some p) occ
      | .here =>
        if pk.mcast then m3 else m3.atHome pk due (some (p, vc))
      | r => m3.follow pk r (some (p, vc))

def execPacketArrive (p : PortId) (vc : BitVec 5) (pk : Packet) (occ : Occupancy) (bad : Nat) (s : State) :
    Host.Outcome State Fault Refusal := s.run true (fun m => m.packetArrive p.val vc.toNat pk occ bad)

/-- A packet leaves on a port (R325); the replay that an injection brings may complete a burst (R296). -/
def Mach.transmit (m : Mach) (p : PortId) (vc cls : Nat) (pk : Packet) : Mach :=
  let m1 := (m.countTx p.val cls pk.bytes).send (.link p vc pk)
  if bit (m.hdr (portPage p.val)).inject 21 then m1.burstRetrain p.val 0 true else m1

/-- The class that an output counts a packet in. -/
def outClass (e : OutEnt) : Nat := pktClass e.pk

/-- The class whose turn it is among those that wait: TC2 first, then TC3 and TC1 by bytes, 1 to 15 (R302). -/
def nextClass (es : List OutEnt) (shared : Nat × Nat) : Option Nat :=
  let has := fun c => es.any (fun e => decide (outClass e = c))
  if has 2 then some 2
  else if has 3 && has 1 then some (if 15 * shared.1 ≤ shared.2 then 3 else 1)
  else if has 3 then some 3
  else if has 1 then some 1
  else none

/-- R302. An output that is free sends the next packet, unless a slot is in use or would start before it ends. -/
def Mach.packetForward (m : Mach) (p : PortId) : Mach :=
  let es := SMap.get m.fab.outs outsDefault p.val
  let sh := SMap.get m.fab.shared (fun _ => (0, 0)) p.val
  match nextClass es sh with
  | none => m
  | some c =>
    match es.find? (fun e => decide (outClass e = c)) with
    | none => m
    | some e =>
      if !m.portUp p.val || m.slotBars p.val (m.linkTime p.val e.pk.bytes) then m
      else
        let both := es.any (fun e => decide (outClass e = 3)) && es.any (fun e => decide (outClass e = 1))
        let sh' := if !both then (0, 0) else if c = 3 then (sh.1 + e.pk.bytes, sh.2) else if c = 1 then (sh.1, sh.2 + e.pk.bytes) else sh
        let m1 : Mach := { m with fab := { m.fab with
          outs := SMap.set m.fab.outs outsDefault p.val (es.erase e)
          shared := SMap.set m.fab.shared (fun _ => (0, 0)) p.val sh' } }
        m1.transmit p e.vc c e.pk

def execPacketForward (p : PortId) (s : State) : Host.Outcome State Fault Refusal := s.run true (fun m => m.packetForward p)

/-- R330. Every 10 µs a time packet goes to the neighbour: a packet of KIND 5 on TC2 with SEQ 0 that belongs to no flow. Like any
packet it is counted, takes a pending injection of a wrong CRC (R324), and may complete a burst of replays (R296). -/
def Mach.timeExchange (m : Mach) (p : PortId) : Mach :=
  let t := m.timePort p.val
  if !m.portUp p.val || (match t.sentAt with | some a => decide (m.ticks < a + 10000) | none => false) ||
      m.slotBars p.val (m.linkTime p.val timeBytes) then m
  else
    let inj := m.injected
    let m1 := (inj.2.countTx p.val 2 timeBytes).setTimePort p.val { t with sentAt := some m.ticks }
    let isRoot := decide (m1.timeState = 4)
    let m2 : Mach := if isRoot then { m1 with time := { m1.time with hb := (m1.time.hb + 1) % 2 ^ 32 } } else m1
    let r := m2.time.root.getD (0, 0, 0)
    let hb := if isRoot then m2.time.hb
      else match m2.time.roots.find? (fun x => decide (x.id = r)) with | some x => x.hb | none => 0
    let m3 := m2.send (.time p m2.timeState (m2.live timePage Reg.TIME.STATUS_DEPTH) r.1 r.2.1 r.2.2 hb m2.time.ns (!inj.1))
    if bit (m.hdr (portPage p.val)).inject 21 then m3.burstRetrain p.val 0 true else m3

/-- R330. -/
def execTimeExchange (p : PortId) (s : State) : Host.Outcome State Fault Refusal := s.run true (fun m => m.timeExchange p)

/-! ## Acknowledgement (R312, R315, R316, R318) -/

/-- Take a fabric-control packet of a type that has come: aged and damaged ones are dropped (R313, R314). -/
def Mach.takeControl (m : Mach) (pk : Packet) (type : Nat) (f : Mach → Mach) : Mach :=
  match m.fab.arrived.find? (fun e => decide (e.pk = pk)) with
  | none => m
  | some e =>
    if pk.kind ≠ 4 ∨ natBits (pk.word 0) 39 37 ≠ type then m
    else
      let m1 : Mach := { m with fab := { m.fab with arrived := m.fab.arrived.erase e } }
      if m1.tooOld pk then m1.bump routerPage Reg.ROUTER.LIFETIME_DROP
      else if pk.crc ≠ pk.crcNow then m1.crcDrop
      else f m1

/-- The flow that a fabric-control packet speaks of, at the sender. -/
def ctlFlow (pk : Packet) : FlowId :=
  let w := pk.word 0
  let mf := w.testBit 34
  if mf then { tc := BitVec.ofNat 2 (natBits w 33 32), mflow := true, x := 0, y := 0, axis := w.testBit 35, dir := w.testBit 36 }
  else { tc := BitVec.ofNat 2 (natBits w 33 32), mflow := false, x := pk.srcX, y := pk.srcY, axis := false, dir := false }

/-- SEQ numbers that an ACK covers. -/
def ackCovers (cum sack seq : Nat) : Bool :=
  decide (seq = cum) || seqAfter cum seq ||
    (upTo 64).any (fun i => sack.testBit i && decide (seqAdd cum (1 + i) = seq))

/-- R312. An ACK retires what it covers; a multicast packet when its last receiver has acknowledged (R318). -/
def Mach.ackReceive (m : Mach) (pk : Packet) : Mach :=
  let t := m.flowTx (ctlFlow pk)
  let cum := natBits (pk.word 0) 31 0
  let who := (pk.srcX.toNat, pk.srcY.toNat)
  let out := t.out.map (fun o =>
    if ackCovers cum (pk.word 1) o.pk.seq.toNat then { o with waitFor := o.waitFor.filter (fun r => decide (r ≠ who)) } else o)
  let done := out.filter (fun o => o.waitFor.isEmpty)
  let m1 := m.setFlowTx { t with out := out.filter (fun o => !o.waitFor.isEmpty) }
  done.foldl (fun m o => m.pktDone o.owner o.pk 0) m1

def execAckReceive (pk : Packet) (s : State) : Host.Outcome State Fault Refusal :=
  s.run true (fun m => m.takeControl pk 0 (fun m => m.ackReceive pk))

/-- The completion of a NAK code (R316). -/
def nakCode (c : Nat) : Nat := if c = 1 then 0x08 else if c = 2 then 0x09 else 0x0A

/-- R316. -/
def Mach.nakReceive (m : Mach) (pk : Packet) : Mach :=
  let t := m.flowTx (ctlFlow pk)
  let seq := natBits (pk.word 2) 31 0
  let m0 := m.bump routerPage Reg.ROUTER.NAK_RECV
  match t.out.find? (fun o => decide (o.pk.seq.toNat = seq)) with
  | none => m0
  | some o => (m0.setFlowTx { t with out := t.out.erase o }).pktDone o.owner o.pk (nakCode (natBits (pk.word 2) 39 32))

def execNakReceive (pk : Packet) (s : State) : Host.Outcome State Fault Refusal :=
  s.run true (fun m => m.takeControl pk 1 (fun m => m.nakReceive pk))

/-- R315. A receiver answers RESYNC and sets CUM. -/
def Mach.resyncReceive (m : Mach) (pk : Packet) : Mach :=
  let w := pk.word 0
  let base := natBits (pk.word 2) 31 0
  let mf := w.testBit 34
  let k : RxKey := { x := pk.srcX.toNat, y := pk.srcY.toNat, tc := natBits w 33 32, mflow := mf, axis := mf && w.testBit 35,
                     dir := mf && w.testBit 36 }
  let m1 := m.setFlowRx { FlowRx.empty k with cum := seqAdd base (2 ^ 32 - 1) }
  m1.control pk.srcX.toNat pk.srcY.toNat 3 k.tc mf k.axis k.dir 0 0 base 0

def execResyncReceive (pk : Packet) (s : State) : Host.Outcome State Fault Refusal :=
  s.run true (fun m => m.takeControl pk 2 (fun m => m.resyncReceive pk))

/-- R315. RESYNC_ACK with the flow's SEQ: the flow admits packets again once every receiver has answered. -/
def Mach.resyncAck (m : Mach) (pk : Packet) : Mach :=
  let t := m.flowTx (ctlFlow pk)
  if t.resync = some (natBits (pk.word 2) 31 0) then
    let left := t.resyncFrom.filter (fun r => decide (r ≠ (pk.srcX.toNat, pk.srcY.toNat)))
    if left.isEmpty then m.setFlowTx { t with resync := none, resyncFrom := [], resyncs := 0 }
    else m.setFlowTx { t with resyncFrom := left }
  else m

def execResyncAckReceive (pk : Packet) (s : State) : Host.Outcome State Fault Refusal :=
  s.run true (fun m => m.takeControl pk 3 (fun m => m.resyncAck pk))

/-! ## Resending (R313, R315, R318) -/

/-- Send a copy of an outstanding packet: a multicast goes as a unicast to each receiver that is missing (R318). -/
def Mach.sendCopy (m : Mach) (o : OutPkt) (occ : Occupancy) : List (Nat × Nat) → Mach
  | [] => m
  | r :: rs =>
    let p := { o.pk with mcast := false, mflow := o.pk.mflow, dstX := BitVec.ofNat 8 r.1, dstY := BitVec.ofNat 8 r.2 }
    let q := { p with epoch := decide (m.bankNow = 1), injTime := m.time.ns, demoted := false, detour := false, dl := false,
                      blocked := 0 }
    let q' := { q with crc := q.crcNow }
    let m1 := m.bump routerPage Reg.ROUTER.E2E_RETRANS
    let m2 := match m1.route q' none 1 occ with
      | .wait port => m1.demote q' port none occ
      | .demote port => m1.demote q' port none occ
      | x => m1.follow q' x none
    m2.sendCopy o occ rs

/-- A flow fails: every outstanding packet completes UNREACHABLE and a RESYNC goes out (R315). SEQ starts from 0 again (R310),
and 0 is what the RESYNC carries as the flow's next. -/
def Mach.flowFails (m : Mach) (t : FlowTx) (o : OutPkt) : Mach :=
  let whom := (t.out.flatMap (fun o => o.waitFor)).eraseDups
  let m1 := m.setFlowTx { t with next := 0, out := [], resync := some 0, resyncFrom := whom, resyncs := 1, resyncAt := m.ticks,
                                 rto := o.rto, retry := o.retry }
  let m2 := (m1.bump routerPage Reg.ROUTER.E2E_FAIL_CNT).raise routerPage 16
  let m3 := t.out.foldl (fun m o => m.pktDone o.owner o.pk 0x07) m2
  whom.foldl (fun m r => m.sendResync t.fl r.1 r.2 0) m3

/-- A resend to a module that a DRONE entry names is refused like any injection (R313, R316). -/
def Mach.copyRefused (m : Mach) (o : OutPkt) : Bool :=
  decide (o.pk.kind.toNat ≤ 2) && o.waitFor.any (fun r => m.namesDrone r.1 r.2)

/-- R313. -/
def Mach.e2eResend (m : Mach) (fl : FlowId) (seq : Nat) (occ : Occupancy) : Mach :=
  let t := m.flowTx fl
  match t.out.find? (fun o => decide (o.pk.seq.toNat = seq)) with
  | none => m
  | some o =>
    if m.ticks < o.sent + o.rto then m
    else if o.retry ≤ o.resends then m.flowFails t o
    else if m.copyRefused o then (m.setFlowTx { t with out := t.out.erase o }).refusePkt ⟨o.pk, o.owner⟩ 0x09
    else
      let o' := { o with sent := m.ticks, resends := o.resends + 1 }
      (m.setFlowTx { t with out := t.out.map (fun x => if x = o then o' else x) }).sendCopy o occ o.waitFor

def execE2eResend (fl : FlowId) (seq : BitVec 32) (occ : Occupancy) (s : State) : Host.Outcome State Fault Refusal :=
  s.run true (fun m => m.e2eResend fl seq.toNat occ)

/-- The offers to a flow that has given up complete UNREACHABLE (R315). -/
def Mach.shutOffers (m : Mach) : Mach := (m.fab.offers.filter (fun o => m.shut o.pk)).foldl (fun m o => m.unreached o) m

/-- R315. An unanswered RESYNC is sent again; after E2E_RETRY of them the flow has given up. -/
def Mach.resyncTimeout (m : Mach) (fl : FlowId) : Mach :=
  let t := m.flowTx fl
  match t.resync with
  | none => m
  | some base =>
    if m.ticks < t.resyncAt + t.rto then m
    else
      let m1 := (m.setFlowTx { t with resyncs := t.resyncs + 1, resyncAt := m.ticks }).shutOffers
      t.resyncFrom.foldl (fun m r => m.sendResync fl r.1 r.2 base) m1

def execResyncTimeout (fl : FlowId) (s : State) : Host.Outcome State Fault Refusal := s.run true (fun m => m.resyncTimeout fl)

/-! ## Banks (R319 to R321) -/

/-- R320. The draining bank is released. -/
def Mach.drainEnd (m : Mach) : Mach :=
  if m.live routerPage Reg.ROUTER.EPOCH_DRAINING = 1 ∧ m.live routerPage Reg.ROUTER.DRAIN_END ≤ m.now then
    m.setLive routerPage Reg.ROUTER.EPOCH_DRAINING 0
  else m

def execEpochDrainEnd (s : State) : Host.Outcome State Fault Refusal := s.run true (fun m => m.drainEnd)

/-- A commit of EPOCHCTL: the bank it names comes into force and the other drains (R320). -/
def Mach.epochCommit (m : Mach) : Mach :=
  let a := m.act routerPage Reg.ROUTER.EPOCHCTL_ACTIVE
  if a = m.bankNow then m
  else (((m.setLive routerPage Reg.ROUTER.EPOCH_IN_FORCE a).setLive routerPage Reg.ROUTER.EPOCH_DRAINING 1).setLive routerPage
    Reg.ROUTER.DRAIN_END (m.now + 201000))

/-- R321. A write through the bank window. -/
def Mach.bankWrite (m : Mach) (off : Nat) (w : RegWrite) : Mach :=
  let sel := m.live routerPage Reg.ROUTER.BANKWIN_SEL
  if sel = m.bankNow ∨ m.live routerPage Reg.ROUTER.EPOCH_DRAINING = 1 then m.raise routerPage 18
  else
    let held := heldBits .router off &&& w.cover
    let v := (m.bankWord sel off &&& ~~~held) ||| (w.bits &&& held)
    { m with fab := { m.fab with banks := SMap.set m.fab.banks (fun _ => 0) (sel * 4096 + off) v } }

/-- Offsets of the bank window. -/
def bankOff (off : Nat) : Bool := decide (off = 0x918 ∨ (0xA00 ≤ off ∧ off < 0xC00 ∧ off % 8 = 0))

def execBankWindowWrite (off : BitVec 12) (w : RegWrite) (s : State) : Host.Outcome State Fault Refusal :=
  s.run (bankOff off.toNat) (fun m => m.ownedLive routerPage off.toNat w (fun m => m.bankWrite off.toNat w))

end Sys2Proof.Machine
end

