-- ==== Sys2Proof/Machine/Calendar.lean ====
section
/-! DEFINITION. The waggle calendar (R339 to R345): writes of its tables, slot starts and the epoch switch. -/

namespace Sys2Proof.Machine

/-- The table word that a window offset names in a bank. -/
def Mach.calOffset (m : Mach) (p off : Nat) : Nat :=
  if off = 0x918 then 0 else if off = 0x920 then 8
  else 256 + 16 * (64 * m.live (calPage p) Reg.CAL.ENTWIN_BASE) + (off - 0xA00)

/-- Offsets of the window. -/
def calOff (off : Nat) : Bool := decide (off = 0x918 ∨ off = 0x920 ∨ (0xA00 ≤ off ∧ off < 0xE00 ∧ off % 8 = 0))

/-- A write of W0 of an entry uses the reserved code of SRC.KIND (R36, R356). -/
def reservedKind (off : Nat) (w : RegWrite) : Bool := decide (0xA00 ≤ off ∧ off % 16 = 0 ∧ fld w.bits 2 1 = 3)

/-- R343. A write through the window: refused when it uses a reserved code, ignored for the bank in force and, at the switch
instant itself, for the bank that was in force before it: that one is writable from the next tick on. -/
def Mach.calWrite (m : Mach) (p off : Nat) (w : RegWrite) : Mach :=
  let b := m.live (calPage p) Reg.CAL.BANKWIN_SEL
  if reservedKind off w then m.cfgReject (calPage p) 2
  else if b = m.calBank p ∨ SMap.get m.fab.calSwitch (fun _ => none) p = some m.ticks then m.raise (calPage p) 17
  else
    let o := m.calOffset p off
    let held := heldBits .cal off &&& w.cover
    m.setCalWord p b o ((m.calWord p b o &&& ~~~held) ||| (w.bits &&& held))

def execCalWindowWrite (p : PortId) (off : BitVec 12) (w : RegWrite) (s : State) : Host.Outcome State Fault Refusal :=
  s.run (calOff off.toNat) (fun m => m.ownedLive (calPage p.val) off.toNat w (fun m => m.calWrite p.val off.toNat w))

/-- Send a scheduled packet in its slot, which it then holds for its length (R302), with DL as the dateline rule of R305 has it,
or demote it: the link is busy, the port is
excluded or not at full width, or the packet does not fit (R303, R307, R341, R343). -/
def Mach.sendInSlot (m : Mach) (p : PortId) (pk : Packet) (e : CalEnt) (busy : Bool) (inPort : Option Nat) : Mach :=
  if busy || e.fallen || m.excluded (b2n pk.epoch) p.val || decide (m.live (portPage p.val) Reg.PORT.STATE ≠ 2) ||
      !m.fitsSlot p.val pk.bytes e.len then
    m.demote pk p.val inPort noOcc
  else
    let m1 : Mach := { m with fab := { m.fab with slotEnd := SMap.set m.fab.slotEnd (fun _ => 0) p.val (m.ticks + e.len) } }
    let dl := m.crosses p.val || (!turns inPort p.val && pk.dl)
    (m1.transmit p 0 0 { pk with dl := dl }).bump (calPage p.val) Reg.CAL.SLOT_SENT

/-- The source that an offer comes from, as an entry names it (R340). -/
def offerFrom (e : CalEnt) (o : Offer) : Bool :=
  match o.owner with
  | .ring r _ => decide (e.kind = 1 ∧ e.index = r)
  | .coll f _ => decide (e.kind = 2 ∧ e.index = f)
  | .nobody => false

/-- R340. A slot that originates traffic. -/
def Mach.originSlot (m : Mach) (p : PortId) (e : CalEnt) (busy : Bool) : Mach :=
  match m.fab.offers.find? (fun o => decide (o.pk.tc = 0 ∧ o.pk.dstX.toNat = e.x ∧ o.pk.dstY.toNat = e.y) && offerFrom e o) with
  | none => if e.fallen then m else m.bump (calPage p.val) Reg.CAL.SLOT_IDLE
  | some o =>
    let pk := asFlow o.pk
    let t := m.flowTx pk.flow
    match m.injectCode pk with
    | some c => (m.takeOffer o).refusePkt o c
    | none =>
      if t.closed then m.unreached o
      else if !m.admits t pk then (if e.fallen then m else m.bump (calPage p.val) Reg.CAL.SLOT_IDLE)
      else
        let r := m.stamp pk t.next
        ((r.2.takeOffer o).outstanding t o r.1).sendInSlot p r.1 e busy none

/-- R341. A slot that carries transit traffic. -/
def Mach.transitStart (m : Mach) (p : PortId) (e : CalEnt) (busy : Bool) : Mach :=
  match m.fab.tc0.find? (fun x => decide (x.inPort = e.index ∧ x.pk.dstX.toNat = e.x ∧ x.pk.dstY.toNat = e.y ∧ x.ready ≤ m.now)) with
  | none => m
  | some x =>
    let m1 : Mach := { m with fab := { m.fab with tc0 := m.fab.tc0.erase x } }
    m1.sendInSlot p x.pk e busy (some x.inPort)

/-- R340. A slot of the bank in force starts. `busy` says that the link still carries a replay or a packet of the old
bank. -/
def Mach.slotStart (m : Mach) (p : PortId) (i : Nat) (busy : Bool) : Mach :=
  let b := m.calBank p.val
  let e := m.calEnt p.val b i
  if m.power.routerReset || !e.opens (m.calCycle p.val b) (m.calOrigin p.val b) m.now then m
  else if e.kind = 0 then m.transitStart p e busy
  else m.originSlot p e busy

def execCalSlotStart (p : PortId) (slot : BitVec 10) (busy : Bool) (s : State) : Host.Outcome State Fault Refusal :=
  s.run true (fun m => m.slotStart p slot.toNat busy)

/-- The port that a waiting scheduled packet leaves by. -/
def Mach.tc0Port (m : Mach) (pk : Packet) : Option Nat :=
  if pk.mcast then some (portOf (b2n pk.axis) (b2n pk.dir)) else m.orderPort pk

/-- A commit of CALCTL that changes the bank (R343): FALLEN marks are cleared, and packets that wait for a slot the new bank
does not have are demoted. -/
def Mach.calCommit (m : Mach) (p : Nat) : Mach :=
  let a := m.act (calPage p) Reg.CAL.CALCTL_ACTIVE
  if a = m.calBank p then m
  else
    let m0 := (m.setLive (calPage p) Reg.CAL.EPOCH_IN_FORCE a).setLive (calPage p) Reg.CAL.SWITCH_T m.now
    let m1 : Mach := { m0 with fab := { m0.fab with calSwitch := SMap.set m0.fab.calSwitch (fun _ => none) p (some m.ticks) } }
    let clr := fun (m : Mach) (b : Nat) => (m.calEntries p b).foldl (fun m e =>
      m.setCalWord p b (256 + 16 * e.1) (m.calWord p b (256 + 16 * e.1) &&& ~~~(w64 (2 ^ 46)))) m
    let m2 := clr (clr m1 0) 1
    let gone := m2.fab.tc0.filter (fun x => decide (m2.tc0Port x.pk = some p) && !m2.transitSlot p x.inPort x.pk x.ready)
    let m3 : Mach := { m2 with fab := { m2.fab with tc0 := m2.fab.tc0.filter (fun x => decide (x ∉ gone)) } }
    gone.foldl (fun m x => m.demote x.pk p (some x.inPort) noOcc) m3

/-- The bank that a commit puts in force may be used (R342). -/
def Mach.calOk (m : Mach) (p : Nat) (scheduled : Bool) (target : Nat) : Bool :=
  let a := m.live (calPage p) Reg.CAL.CALCTL_ACTIVE
  if a = m.calBank p then true
  else
    let cy := m.calCycle p a
    let og := m.calOrigin p a
    let es := m.calEntries p a
    let bad := fun (e : CalEnt) =>
      decide (cy < e.start + e.len ∨ e.len = 0 ∨ e.period ≤ e.phase ∨ e.kind = 3 ∨ (e.kind = 2 ∧ 4 ≤ e.index) ∨
        (e.kind = 0 ∧ (4 ≤ e.index ∨ e.index = p)))
    let clash := fun (x y : CalEnt) =>
      decide (x.start < y.start + y.len ∧ y.start < x.start + x.len ∧
        x.phase % Nat.gcd x.period y.period = y.phase % Nat.gcd x.period y.period)
    scheduled && decide (1000 ≤ cy ∧ cy ≤ 1048575 ∧ og ≤ target ∧ (target - og) % cy = 0) &&
      !es.any (fun e => bad e.2) && !es.any (fun e => es.any (fun f => decide (e.1 < f.1) && clash e.2 f.2))

end Sys2Proof.Machine
end

