-- ==== Sys2Proof/Machine/BarrierBase.lean ====
section
/-! DEFINITION. Barrier objects (R346 to R352): entries of participants, arrival and release messages, and writes of the
window. The release itself is in Machine/Barrier.lean. -/

namespace Sys2Proof.Machine

def barDefault (_ : Nat) : BarObj := BarObj.reset
def Mach.bar (m : Mach) (o : Nat) : BarObj := SMap.get m.fab.bars barDefault o
def Mach.setBar (m : Mach) (o : Nat) (b : BarObj) : Mach := { m with fab := { m.fab with bars := SMap.set m.fab.bars barDefault o b } }

def BarObj.valid (b : BarObj) : Bool := bit b.cfg 0
def BarObj.job (b : BarObj) : Bool := bit b.cfg 1
def BarObj.root (b : BarObj) : Bool := bit b.cfg 2
def BarObj.localN (b : BarObj) : Nat := fld b.cfg 10 4
def BarObj.childN (b : BarObj) : Nat := fld b.cfg 13 11
def BarObj.parentX (b : BarObj) : Nat := fld b.cfg 21 14
def BarObj.parentY (b : BarObj) : Nat := fld b.cfg 29 22
def BarObj.total (b : BarObj) : Nat := fld b.cfg 52 32
def BarObj.summed (b : BarObj) : Nat := b.localN + (b.kids0.map (fun k => k.2.2)).sum

/-- Every local participant and every child has arrived for g (R349). -/
def BarObj.full (b : BarObj) : Bool :=
  decide (((upTo 64).filter (fun i => b.arr0.toNat.testBit i)).length = b.localN ∧ b.kids0.length = b.childN)

/-- A barrier message as a packet: the object in ENDPT.INDEX, the rest in the payload. The spec gives no layout. -/
def barPacket (x y obj gen count : Nat) (rel : Option Nat) : Packet :=
  let w := match rel with
    | some t => toBytes 8 (gen % 2 + 2) ++ toBytes 8 t
    | none => toBytes 8 (gen % 2) ++ toBytes 8 count
  plainPacket 2 2 obj x y 0 (padTo 64 w) (List.replicate 8 false)

/-- Offer a barrier message. -/
def Mach.barSend (m : Mach) (x y obj gen count : Nat) (rel : Option Nat) : Mach :=
  m.offer (barPacket x y obj gen count rel) .nobody

/-- The release instant is known: the children are told (R349). -/
def Mach.barRelease (m : Mach) (o t : Nat) : Mach :=
  let b := m.bar o
  b.kids0.foldl (fun m k => m.barSend k.1 k.2.1 o b.gen 0 (some t)) (m.setBar o { b with complete := true, release := some t })

/-- What follows when generation g is complete here: the report, the release instant, or BAR_COUNT (R349). -/
def Mach.barCheck (m : Mach) (o : Nat) : Mach :=
  let b := m.bar o
  if !b.valid || b.complete || !b.full then m
  else if !b.root then (m.setBar o { b with complete := true }).barSend b.parentX b.parentY o b.gen b.summed none
  else if b.summed = b.total then m.barRelease o (m.now + b.lead)
  else ((m.setBar o { b with complete := true }).bump barrPage Reg.BARR.BAR_COUNT_ERR).raise barrPage 19

/-- The outcome of an entry: a code at once, or the generation that it counts toward. -/
inductive Entry where
  | code (n : Nat)
  | counted (gen : Nat) (early : Bool)
deriving DecidableEq, Repr

/-- Participant p enters an object (R347, R348). -/
def Mach.barEnter (m : Mach) (o p : Nat) : Entry × Mach :=
  let b := m.bar o
  if !b.valid then (.code 2, m)
  else if b.localN ≤ p then (.code 3, m)
  else if !b.arr0.toNat.testBit p then
    (.counted b.gen false, (m.setBar o { b with arr0 := b.arr0 ||| BitVec.ofNat 64 (2 ^ p) }).barCheck o)
  else if !b.arr1.toNat.testBit p then
    (.counted (b.gen + 1) true, m.setBar o { b with arr1 := b.arr1 ||| BitVec.ofNat 64 (2 ^ p) })
  else (.code 1, (m.bump barrPage Reg.BARR.BAR_OVERRUNS).raise barrPage 16)

/-- WAIT.BAR (R347, R348). A held entry under NOWAIT waits for the release of g. -/
def Mach.waitBar (m : Mach) (u c : Nat) (gd ga : RegNo) : Mach :=
  let g := m.g u c ga
  if fld g 63 19 ≠ 0 then m.fault u c 0x01
  else
    let r := m.barEnter (fld g 11 0) (fld g 17 12)
    match r.1 with
    | .code n => r.2.writeBack u c gd (w64 n)
    | .counted gen early =>
      if bit g 18 then (if early then r.2.sleep u c (.bar (fld g 11 0) (gen - 1) gd.toNat) else r.2.writeBack u c gd 0)
      else r.2.sleep u c (.bar (fld g 11 0) gen gd.toNat)

/-- R348. WAIT.BAR. -/
def execWaitBar (u : UnitId) (c : CtxId) (gd ga _gb : RegNo) (s : State) : Host.Outcome State Fault Refusal :=
  s.issue u c (fun m => m.waitBar u.val c.val gd ga)

/-- A message for an object that is not valid (R349). -/
def Mach.barOrphan (m : Mach) : Mach := m.bump barrPage Reg.BARR.BAR_ORPHAN

/-- R349. An arrival message counts toward the generation that its parity names. -/
def Mach.barArrival (m : Mach) (a : BarMsg) : Mach :=
  let o := a.obj.toNat
  let b := m.bar o
  let k := (a.srcX.toNat, a.srcY.toNat, a.count)
  if !b.valid then m.barOrphan
  else if a.parity = decide (b.gen % 2 = 1) then (m.setBar o { b with kids0 := b.kids0 ++ [k] }).barCheck o
  else m.setBar o { b with kids1 := b.kids1 ++ [k] }

def execBarrierArrival (msg : BarMsg) (s : State) : Host.Outcome State Fault Refusal := s.run true (fun m => m.barArrival msg)

/-- Offsets of the window. -/
def barOff (off : Nat) : Bool := decide (0xA00 ≤ off ∧ off < 0xE00 ∧ off % 8 = 0)

/-- The object that a window offset names. -/
def Mach.barAt (m : Mach) (off : Nat) : Nat := 32 * m.live barrPage Reg.BARR.BWIN_BASE + (off - 0xA00) / 32

/-- An object that arrivals have reached (R352). -/
def BarObj.busy (b : BarObj) : Bool := b.valid && (decide (b.arr0 ≠ 0 ∨ b.arr1 ≠ 0) || !b.kids0.isEmpty || !b.kids1.isEmpty)

/-- A write may not leave the object like this (R352). -/
def Mach.barBad (m : Mach) (b : BarObj) : Bool :=
  b.valid && (decide (64 < b.localN ∨ b.total = 0 ∨ b.total < b.localN) ||
    (!b.root && decide (m.dimX ≤ b.parentX ∨ m.dimY ≤ b.parentY)))

/-- A write of an idle object (R352). -/
def Mach.barWrite (m : Mach) (off : Nat) (w : RegWrite) : Mach :=
  let o := m.barAt off
  let b := m.bar o
  let k := (off - 0xA00) % 32
  let old : Word := if k = 0 then b.cfg else if k = 8 then w64 b.lead else 0
  let held := heldBits .barr off &&& w.cover
  let v := (old &&& ~~~held) ||| (w.bits &&& held)
  let b1 := if k = 0 then { b with cfg := v } else if k = 8 then { b with lead := fld v 31 0 } else b
  let b2 := if b1.valid && !b.valid then { b1 with gen := 0, complete := false, release := none } else b1
  if b.busy then m.raise barrPage 17
  else if m.barBad b2 then m.cfgReject barrPage 1
  else m.setBar o b2

end Sys2Proof.Machine
end

