-- ==== Sys2Proof/Machine/Canon.lean ====
section
/-! DEFINITION. The canonical reduction tree (R105, R106) and top-k with positions (R111), as the vector units and the
collective engines use them. -/

namespace Sys2Proof.Machine

/-- A partial sum: its code in the widened format and the flags raised on the way. -/
structure Part32 where
  code : Nat
  flags : BitVec 8
deriving DecidableEq, Repr

/-- The widened format of a source format (R105); `wide` is a unit that widens into FP64 (R139). 0xF stands for 64-bit
integers. -/
def widened (wide : Bool) (fmt : Nat) : Nat := if fmtIsInt fmt then 15 else if wide || decide (fmt = 0) then 0 else 1

/-- Widen an element exactly (R53, R105). Under DENORM = 0 a vector unit flushes subnormal inputs, but never into FP64
(R52). DEDUCED, log 29. -/
def widenElem (wide denorm : Bool) (fmt code : Nat) : Part32 :=
  if fmtIsInt fmt then
    ⟨wrapInt 64 (if fmt = 10 then (code % 256 : Nat) else sextNat (fmtWidth fmt) code), 0⟩
  else
    let x := readNum (denorm || decide (widened wide fmt = 0)) fmt code
    let e := encodeNum (widened wide fmt) .rne true false x.1
    ⟨e.code, x.2 ||| snanFlag [x.1] ||| e.flags⟩

/-- One addition in a widened format; subnormal sums are kept, and integer sums wrap (R105). -/
def wideAdd (wfmt : Nat) (md : Rnd) (a b : Part32) : Part32 :=
  if wfmt = 15 then
    let c := packInt 64 (-9223372036854775808) 9223372036854775807 false (sextNat 64 a.code + sextNat 64 b.code)
    ⟨c.code, a.flags ||| b.flags ||| c.flags⟩
  else
    let x := decode wfmt a.code
    let y := decode wfmt b.code
    let r := Num.add x y
    let e := encodeNum wfmt md true false r.1
    ⟨e.code, a.flags ||| b.flags ||| r.2 ||| e.flags⟩

/-- Sequential sum of a leaf, from its first element. -/
def leafSum (wfmt : Nat) : List Part32 → Part32
  | [] => ⟨0, 0⟩
  | x :: xs => xs.foldl (wideAdd wfmt .rne) x

/-- Leaves of 256 elements. -/
def leaves (wfmt : Nat) : Nat → List Part32 → List Part32
  | 0, _ => []
  | k + 1, xs => if xs.isEmpty then [] else leafSum wfmt (xs.take 256) :: leaves wfmt k (xs.drop 256)

/-- One level up: nodes j = 0, 1, … of level l; an odd last node is promoted. -/
def nextLevel (wfmt : Nat) (rnd : Nat → Nat → Rnd) (l : Nat) : Nat → List Part32 → List Part32
  | j, a :: b :: rest => wideAdd wfmt (rnd l j) a b :: nextLevel wfmt rnd l (j + 1) rest
  | _, xs => xs

/-- Levels until one node is left. -/
def treeRoot (wfmt : Nat) (rnd : Nat → Nat → Rnd) : Nat → Nat → List Part32 → Part32
  | 0, _, xs => xs.headD ⟨0, 0⟩
  | k + 1, l, xs =>
    match xs with
    | [] => ⟨0, 0⟩
    | [x] => x
    | _ => treeRoot wfmt rnd k (l + 1) (nextLevel wfmt rnd (l + 1) 0 xs)

/-- The canonical reduction of widened elements. -/
def canonical (wfmt : Nat) (rnd : Nat → Nat → Rnd) (xs : List Part32) : Part32 :=
  let ls := leaves wfmt (xs.length / 256 + 1) xs
  treeRoot wfmt rnd ls.length 0 ls

/-- The rounding of node j of level l: SR from level 9 under long-sum rounding, with USE 0x3 (R106, R110); the caller never
asks for it where nodes are FP64 (R55). DEDUCED, log 29. -/
def nodeRnd (lsr : Bool) (seed tensor step l j : Nat) : Rnd :=
  if lsr && decide (9 ≤ l) then .sr (springR seed (springStream 3 tensor step) (l * 2 ^ 48 + j)) else .rne

/-! ## Top-k (R111) -/

/-- One entry: the code of the value and the position. -/
structure TopEntry where
  code : Nat
  pos : Nat
deriving DecidableEq, Repr

/-- a is ordered strictly before b: MAX, MIN or ABSMAX. -/
def topBefore (fmt mode : Nat) (a b : Nat) : Bool :=
  let x := decode fmt a
  let y := decode fmt b
  if mode = 0 then Num.lt y x else if mode = 1 then Num.lt x y else Num.lt y.abs x.abs

/-- An element as it is read: under DENORM = 0 a subnormal one is the zero of its sign (R51). -/
def topRead (denorm : Bool) (fmt code : Nat) : Nat :=
  if (readNum denorm fmt code).2 = 0 then code else code / 2 ^ (fmtWidth fmt - 1) * 2 ^ (fmtWidth fmt - 1)

/-- What reading the elements raises: INVALID for a signalling NaN (R48, R66), and FLUSHED for a subnormal one (R51). -/
def topFlags (denorm : Bool) (fmt : Nat) (codes : List Nat) : BitVec 8 :=
  codes.foldl (fun f x => f ||| (readNum denorm fmt x).2) (snanFlag (codes.map (decode fmt)))

/-- Put an entry behind those that are not after it. -/
def topInsert (fmt mode : Nat) (e : TopEntry) : List TopEntry → List TopEntry
  | [] => [e]
  | x :: xs => if topBefore fmt mode e.code x.code then e :: x :: xs else x :: topInsert fmt mode e xs

/-- What a missing entry holds: the canonical NaN of the format, or zero where it has none. -/
def topMissing (fmt : Nat) : TopEntry :=
  ⟨if fmtIsInt fmt ∨ fmt = 7 then 0 else if fmt = 6 then 0x80 else (layout fmt).nanCode, 0xFFFFFFFF⟩

/-- The k best entries, best first; equal keys go to the lower position (R111). Entries come in rising position. -/
def topK (fmt mode k : Nat) (es : List TopEntry) : List TopEntry :=
  let best := (es.filter (fun e => !(decode fmt e.code).isNan && decide (e.pos ≠ 0xFFFFFFFF))).foldl
    (fun l e => (topInsert fmt mode e l).take k) []
  best ++ List.replicate (k - best.length) (topMissing fmt)

end Sys2Proof.Machine
end

