-- ==== Sys2Proof/Machine/Check.lean ====
section
/-! DEFINITION. Check units (R403 to R408, R411): records, their CRC and alive counters, and what the points pass to them. -/

namespace Sys2Proof.Machine

def chkPage (n : Nat) : Page := ⟨.chk, n⟩

def chkDefault (_ : Nat) : ChkSt := ChkSt.reset

def Mach.chkOf (m : Mach) (n : Nat) : ChkSt := SMap.get m.chk chkDefault n

def Mach.setChk (m : Mach) (n : Nat) (x : ChkSt) : Mach := { m with chk := SMap.set m.chk chkDefault n x }

/-- The CRC of a unit (R404). -/
def Mach.chkCrc (m : Mach) (n : Nat) : CrcParams :=
  let p := chkPage n
  { width := m.act p Reg.CHK.FORMAT_WIDTH_M1 + 1, poly := m.act p Reg.CHK.POLY, init := m.act p Reg.CHK.INIT,
    refIn := decide (m.act p Reg.CHK.FORMAT_REFIN = 1), refOut := decide (m.act p Reg.CHK.FORMAT_REFOUT = 1),
    xorOut := m.act p Reg.CHK.XOROUT }

/-- Bits of the alive counter (R406). -/
def Mach.chkAliveBits (m : Mach) (n : Nat) : Nat :=
  match m.act (chkPage n) Reg.CHK.FORMAT_ALIVE_W with
  | 0 => 0 | 1 => 4 | 2 => 8 | _ => 16

/-- Start a new record boundary: the partial record is forgotten. -/
def Mach.chkBoundary (m : Mach) (n : Nat) : Mach :=
  m.setChk n { m.chkOf n with raw := none, pos := 0, alive := [] }

/-- No alive baseline is held. -/
def Mach.chkNoBaseline (m : Mach) (n : Nat) : Mach :=
  (m.setLive (chkPage n) Reg.CHK.LAST_ALIVE_VALUE 0).setLive (chkPage n) Reg.CHK.LAST_ALIVE_VALID 0

/-- A counter value of a complete record (R406). -/
def Mach.chkAlive (m : Mach) (n w v : Nat) : Mach :=
  let p := chkPage n
  let old := m.live p Reg.CHK.LAST_ALIVE_VALUE
  let m1 :=
    if m.live p Reg.CHK.LAST_ALIVE_VALID = 0 ∨ v = (old + 1) % 2 ^ w then m
    else
      let f := if v = old then Reg.CHK.ALIVE_ERR_REPEATS else Reg.CHK.ALIVE_ERR_SKIPS
      m.setLive p f (min (m.live p f + 1) 0xFFFFFFFF)
  (m1.setLive p Reg.CHK.LAST_ALIVE_VALUE v).setLive p Reg.CHK.LAST_ALIVE_VALID 1

/-- A record is complete (R404, R405). -/
def Mach.chkRecord (m : Mach) (n : Nat) : Mach :=
  let x := m.chkOf n
  let c := m.chkCrc n
  let p := chkPage n
  let w := m.chkAliveBits n
  let m1 := (m.setLive p Reg.CHK.CRC_VALUE (crcOut c (x.raw.getD c.init))).bump p Reg.CHK.RECORDS
  let m2 := if w ≠ 0 ∧ x.alive.length = ceilDiv w 8 then m1.chkAlive n w (ofBytes x.alive % 2 ^ w) else m1
  m2.setChk n { x with raw := if m.act p Reg.CHK.FORMAT_CONT = 1 then x.raw else none, pos := 0, alive := [] }

/-- One byte passes the point. -/
def Mach.chkByte (m : Mach) (n : Nat) (b : Byte) : Mach :=
  let x := m.chkOf n
  let p := chkPage n
  let aoff := m.act p Reg.CHK.FORMAT_ALIVE_OFF
  let inAlive := decide (aoff ≤ x.pos ∧ x.pos < aoff + ceilDiv (m.chkAliveBits n) 8)
  let c := m.chkCrc n
  let x1 := { x with raw := some (crcByte c (x.raw.getD c.init) b.toNat), pos := x.pos + 1,
                     alive := if inAlive then x.alive ++ [b] else x.alive }
  let m1 := (m.setChk n x1).bump p Reg.CHK.BYTES
  let rl := m.act p Reg.CHK.FORMAT_RLEN
  if rl ≠ 0 ∧ x1.pos = rl then m1.chkRecord n else m1

/-- One item of the point passes a unit: a natural record when RLEN is 0 (R405). -/
def Mach.chkFeed (m : Mach) (n : Nat) (bs : Bytes) : Mach :=
  let m1 := bs.foldl (fun m b => m.chkByte n b) m
  if m1.act (chkPage n) Reg.CHK.FORMAT_RLEN = 0 then m1.chkRecord n else m1

/-- A unit taps a point now. -/
def Mach.chkTaps (m : Mach) (n kind idx : Nat) : Bool :=
  let p := chkPage n
  decide (m.live p Reg.CHK.STATE = 1 ∧ m.act p Reg.CHK.POINT_ENABLE = 1 ∧ m.act p Reg.CHK.POINT_KIND = kind ∧
    (kind = 2 ∨ m.act p Reg.CHK.POINT_INDEX = idx))

/-- The units that tap a point. -/
def Mach.tappers (m : Mach) (kind idx : Nat) : List Nat := (upTo 96).filter (fun n => m.chkTaps n kind idx)

/-- A record of a stage queue, or an entry of a ring, passes. -/
def Mach.tap (m : Mach) (kind idx : Nat) (bs : Bytes) : Mach := (m.tappers kind idx).foldl (fun m n => m.chkFeed n bs) m

/-- A packet of a unicast flow from a module passes. -/
def Mach.tapFlow (m : Mach) (x y cls : Nat) (bs : Bytes) : Mach :=
  ((m.tappers 2 0).filter (fun n => let p := chkPage n
    decide (m.act p Reg.CHK.POINT_SRC_X = x ∧ m.act p Reg.CHK.POINT_SRC_Y = y ∧ m.act p Reg.CHK.POINT_CLASS = cls))).foldl
    (fun m n => m.chkFeed n bs) m

/-- The INDEX by which KIND 1 names a unit: its logical number, solver cells from 160. -/
def Mach.tapUnit (m : Mach) (u : Nat) : Option Nat := (m.logicalOf u).map (fun l => if u < 180 then l else 160 + l)

/-- The units that tap the DMA engine of a unit for a TAG. -/
def Mach.dmaTappers (m : Mach) (u tag : Nat) : List Nat :=
  match m.tapUnit u with
  | none => []
  | some i => (m.tappers 1 i).filter (fun n =>
      decide (m.act (chkPage n) Reg.CHK.POINT_TAGF = 0 ∨ m.act (chkPage n) Reg.CHK.POINT_TAG = tag))

/-- A descriptor is accepted: its place in the issue order. -/
def Mach.tapAccept (m : Mach) (u tag id : Nat) : Mach :=
  (m.dmaTappers u tag).foldl (fun m n => m.setChk n { m.chkOf n with order := (m.chkOf n).order ++ [(id, none)] }) m

/-- Feed the completed descriptors at the head of the issue order. -/
def Mach.tapDrain (m : Mach) (n : Nat) : List (Nat × Option Bytes) → Mach
  | (_, some bs) :: l => ((m.chkFeed n bs).setChk n { (m.chkFeed n bs).chkOf n with order := l }).tapDrain n l
  | _ => m

/-- A descriptor completes with its destination bytes, or contributes nothing (R403). -/
def Mach.tapComplete (m : Mach) (id : Nat) (bs : Option Bytes) : Mach :=
  (upTo 96).foldl (fun m n =>
    let x := m.chkOf n
    if x.order.any (fun e => decide (e.1 = id)) then
      let l := match bs with
        | some d => x.order.map (fun e => if e.1 = id then (id, some d) else e)
        | none => x.order.filter (fun e => decide (e.1 ≠ id))
      (m.setChk n { x with order := l }).tapDrain n l
    else m) m

/-- The point of a unit ceases to exist (R407). -/
def Mach.chkLost (m : Mach) (n : Nat) : Mach :=
  ((((m.chkBoundary n).setChk n { (m.chkBoundary n).chkOf n with order := [] }).chkNoBaseline n).setLive (chkPage n)
    Reg.CHK.STATE 2).raise (chkPage n) 16

/-- A point ceases to exist. -/
def Mach.tapLost (m : Mach) (kind idx : Nat) : Mach := (m.tappers kind idx).foldl (fun m n => m.chkLost n) m

/-- A point exists again: units that had lost it resume. -/
def Mach.tapBack (m : Mach) (kind idx : Nat) : Mach :=
  ((upTo 96).filter (fun n => let p := chkPage n
    decide (m.live p Reg.CHK.STATE = 2 ∧ m.act p Reg.CHK.POINT_KIND = kind ∧ m.act p Reg.CHK.POINT_INDEX = idx))).foldl
    (fun m n => m.setLive (chkPage n) Reg.CHK.STATE 1) m

/-- CLEAR (R411). -/
def Mach.chkClear (m : Mach) (n : Nat) : Mach :=
  let p := chkPage n
  ((((m.chkBoundary n).setLive p Reg.CHK.CRC_VALUE 0).setLive p Reg.CHK.ALIVE_ERR_REPEATS 0).setLive p
    Reg.CHK.ALIVE_ERR_SKIPS 0).chkNoBaseline n

/-- A commit that changes POINT or FORMAT: the count restarts and the results are cleared; the unit taps its point if it
is enabled and the point exists (R405, R407, R411). -/
def Mach.chkRestart (m : Mach) (n : Nat) (there : Bool) : Mach :=
  let p := chkPage n
  let m1 := (m.chkClear n).setLive p Reg.CHK.RECORDS 0
  let m2 := m1.setLive p Reg.CHK.BYTES 0
  let m3 := m2.setChk n { m2.chkOf n with order := [] }
  m3.setLive p Reg.CHK.STATE (if m3.act p Reg.CHK.POINT_ENABLE = 0 then 0 else if there then 1 else 2)

/-- R411. A write of CLEAR. -/
def execChkClear (n : ChkId) (w : RegWrite) (s : State) : Host.Outcome State Fault Refusal :=
  s.run true (fun m => m.ownedLive (chkPage n.val) 0x928 w (fun m => if bit w.bits 0 then m.chkClear n.val else m))

end Sys2Proof.Machine
end

