-- ==== Sys2Proof/Machine/Memory.lean ====
section
/-! DEFINITION. Lake and basin (R269 to R286): the map from memory addresses to targets, reads and writes through the home
slices (R259, R260, R274), what a digest engine sees of them (R399), and the events of the memory controllers. -/

namespace Sys2Proof.Machine

def regionPage : Page := ⟨.region, 0⟩

def poolPage (s : Nat) : Page := ⟨.pool, s⟩

/-! ## The map (R271, R272, R282) -/

/-- XOR of all bytes of a number. -/
def xorFold (v : Nat) : Nat := (upTo 8).foldl (fun x i => x ^^^ natBits v (8 * i + 7) (8 * i)) 0

/-- An entry of the region table. -/
structure RegionEntry where
  valid : Bool
  basin : Bool
  mode : Nat
  sel : Nat
  base : Nat
  size : Nat
  poff : Nat
deriving DecidableEq, Repr

/-- Entry i, staged or in force. -/
def Mach.regionEntry (m : Mach) (staged : Bool) (i : Nat) : RegionEntry :=
  let g := fun f => if staged then m.live regionPage f i else m.act regionPage f i
  { valid := decide (g Reg.REGION.ENTRY_VALID = 1), basin := decide (g Reg.REGION.ENTRY_MEM = 1),
    mode := g Reg.REGION.ENTRY_MODE, sel := g Reg.REGION.ENTRY_SEL, base := g Reg.REGION.ENTRY_BASE,
    size := g Reg.REGION.ENTRY_SIZE, poff := g Reg.REGION.ENTRY_POFF }

/-- An entry's range holds an address. -/
def RegionEntry.holds (e : RegionEntry) (a : Nat) : Bool :=
  e.valid && decide (e.base * 2 ^ 21 ≤ a ∧ a < (e.base + e.size) * 2 ^ 21)

/-- Target (lake channel k = 8c + t, or 256 + d) and offset in it (R272). -/
def RegionEntry.target (e : RegionEntry) (a : Nat) : Nat × Nat :=
  let o := a - e.base * 2 ^ 21
  let g := o / 256
  let b := o % 256
  let p := e.poff * 2 ^ 13
  if !e.basin then
    if e.mode = 0 then (g % 256, p + g / 256 * 256 + b)
    else if e.mode = 3 then ((g % 256) ^^^ xorFold (g / 256), p + g / 256 * 256 + b)
    else if e.mode = 1 then (8 * (g % 32) + e.sel, p + g / 32 * 256 + b)
    else (8 * (e.sel % 32) + e.sel / 32, p + o)
  else
    if e.mode = 0 then (256 + g % 24, p + g / 24 * 256 + b)
    else if e.mode = 3 then (256 + (g % 24 + xorFold (g / 24) % 24) % 24, p + g / 24 * 256 + b)
    else if e.mode = 1 then (256 + (g % 4) * 6 + e.sel, p + g / 4 * 256 + b)
    else (256 + e.sel, p + o)

/-- Where a retired channel's granule stands in the reserves of its stack (R282). -/
def reservePlace (k off : Nat) : Nat × Nat :=
  let j := off / 256
  let c := k / 8
  let s := j % 31
  (8 * (if s < c then s else s + 1) + k % 8, 0x8B800000 + j / 31 * 256 + off % 256)

/-- Byte key of an offset in a target. -/
def targetKey (t off : Nat) : Nat := if t < 256 then lakeKey t off else basinKey (t - 256) off

/-- The target that an address is mapped to, if it is mapped and not lost (R274, R284). A span that the retirement of a channel
has copied is in the reserve (R283). -/
def Mach.memTarget (m : Mach) (a : Nat) : Option (Nat × Nat) :=
  match ((upTo 64).map (m.regionEntry false)).find? (fun e => e.holds a) with
  | none => none
  | some e =>
    let t := e.target a
    let s := m.chState t.1
    if s = 3 then none
    else if t.1 < 256 ∧ (s = 2 ∨ s = 1 ∧ t.2 / 65536 < (m.chanOf t.1).copied) then some (reservePlace t.1 t.2)
    else some t

/-- Byte key of a memory address. -/
def Mach.memKey (m : Mach) (a : Nat) : Option Nat := (m.memTarget a).map (fun t => targetKey t.1 t.2)

/-- The home slice of an address (R259). -/
def homeSlice (a : Nat) : Nat := (natBits a 23 8 ^^^ natBits a 39 24 ^^^ natBits a 47 40) % 20

/-! ## Holds (R275, R281, R286) -/

/-- Memory answers: the module has booted, and memory is out of self-refresh (R286, R452, R461, R464). -/
def Mach.memoryUp (m : Mach) : Bool :=
  let s := m.live pwrPage Reg.PWR.STATE
  m.ready && !m.power.computeReset && decide (s = 1 ∨ s = 2 ∨ s = 4)

/-- An entry that the due commit changes and that holds the address under its old or new form (R275). -/
def Mach.remapHeld (m : Mach) (a : Nat) : Bool :=
  m.chan.remap && (upTo 64).any (fun i =>
    let o := m.regionEntry false i
    let n := m.regionEntry true i
    decide (o ≠ n) && (o.holds a || n.holds a))

/-- Start addresses of the parts of a range in each 256-byte line. -/
def lineStarts (a n : Nat) : List Nat :=
  if n = 0 then [] else (upTo ((a + n - 1) / 256 + 1 - a / 256)).map (fun i => max a ((a / 256 + i) * 256))

/-- The 64 KiB span of a retiring channel that is being copied holds an offset (R283). -/
def Mach.spanHeld (m : Mach) (t : Nat × Nat) : Bool :=
  decide (t.1 < 256 ∧ m.chState t.1 = 1 ∧ t.2 / 65536 = (m.chanOf t.1).copied ∧ t.2 < 0x8B800000)

/-- Memory does not answer for a range: a retraining of a target, the copy of a span, or self-refresh. -/
def Mach.chanBusy (m : Mach) (a n : Nat) : Bool :=
  !m.memoryUp || (lineStarts a n).any (fun b =>
    match m.memTarget b with | some t => (m.chanOf t.1).retrain || m.spanHeld t | none => false)

/-- A region commit that is due changes an entry that holds part of a range (R275). -/
def Mach.remapMeets (m : Mach) (a n : Nat) : Bool := (lineStarts a n).any m.remapHeld

/-- An access to a range that arrives now is held by the memory or by a region commit that is due. -/
def Mach.memStuck (m : Mach) (a n : Nat) : Bool := m.chanBusy a n || m.remapMeets a n

/-- A scratch commit of a slice is due: the slice holds what newly arrives (R261). -/
def Mach.sliceDue (m : Mach) (s : Nat) : Bool := SMap.get m.chan.scratchDue (fun _ => false) s

/-- Accesses to a range that arrive now are held: memory does not answer, or a slice on the way holds them. -/
def Mach.memHeld (m : Mach) (a n : Nat) : Bool :=
  m.memStuck a n || (lineStarts a n).any (fun b => m.sliceDue (homeSlice b))

/-! ## Digest engines watch writes (R399, R400) -/

def digDefault (_ : Nat) : DigSt := DigSt.reset
def digPage (e : Nat) : Page := ⟨.dig, e⟩
def Mach.digOf (m : Mach) (e : Nat) : DigSt := SMap.get m.dig digDefault e
def Mach.setDig (m : Mach) (e : Nat) (d : DigSt) : Mach := { m with dig := SMap.set m.dig digDefault e d }

/-- Window bytes of leaf i. -/
def leafRange (len i : Nat) : Nat × Nat := (65536 * i, min (65536 * (i + 1)) len)

def leafFull (cov : List (Nat × Nat)) (len i : Nat) : Bool :=
  let r := leafRange len i
  cov.any (fun c => decide (c.1 ≤ r.1 ∧ r.2 ≤ c.2))

/-- A leaf that has been written in part. -/
def leafPartial (cov : List (Nat × Nat)) (len i : Nat) : Bool :=
  let r := leafRange len i
  !leafFull cov len i && cov.any (fun c => decide (c.1 < r.2 ∧ r.1 < c.2))

/-- One engine sees a write of window bytes s to e − 1. A leaf that is complete is hashed; a write into a hashed leaf marks
it; a leaf that finds 32 others in progress is left for rescan. -/
def Mach.snoopOne (m : Mach) (g len s e : Nat) (bad : Bool) : Mach :=
  let d := m.digOf g
  let ls := (upTo ((e - 1) / 65536 + 1 - s / 65536)).map (fun i => s / 65536 + i)
  let again := ls.filter (fun i => decide (i ∈ d.hashed))
  let cov := addRun s e d.cov
  let busy := ((upTo (ceilDiv len 65536)).filter (fun i => leafPartial d.cov len i && decide (i ∉ d.rescan))).length
  let fresh := ls.filter (fun i => decide (i ∉ d.hashed ∧ i ∉ d.rescan))
  let noRoom := fresh.filter (fun i => !leafPartial d.cov len i && decide (32 ≤ busy))
  let full := fresh.filter (fun i => leafFull cov len i && decide (i ∉ noRoom))
  let d' := { d with cov := cov, hashed := d.hashed ++ full,
                     rescan := d.rescan ++ (noRoom ++ again).filter (fun i => decide (i ∉ d.rescan)),
                     poisoned := d.poisoned || bad }
  let m1 := (m.setDig g d').bump (digPage g) Reg.DIG.REWRITES again.length
  full.foldl (fun m i =>
    (m.bump (digPage g) Reg.DIG.LEAVES).bump (digPage g) Reg.DIG.BYTES_HASHED
      ((leafRange len i).2 - (leafRange len i).1)) m1

/-- Every digest engine sees a write of memory addresses a to a + n − 1 (R399, R400). -/
def Mach.snoop (m : Mach) (a n : Nat) (bad : Bool) : Mach :=
  (upTo 8).foldl (fun m g =>
    let st := m.live (digPage g) Reg.DIG.STATE
    if st ≠ 1 ∧ st ≠ 2 then m
    else
      let base := m.live (digPage g) Reg.DIG.BASE
      let len := m.live (digPage g) Reg.DIG.LEN
      let s := max a base
      let e := min (a + n) (base + len)
      if e ≤ s then m
      else if st = 2 then
        m.setDig g { m.digOf g with raced := true, poisoned := (m.digOf g).poisoned || bad }
      else m.snoopOne g len (s - base) (e - base) bad) m

/-! ## Accesses through the home slices (R259, R260, R274) -/

/-- An access to an unmapped address (R274). -/
def Mach.unmapped (m : Mach) (a : Nat) : Mach :=
  let m1 := m.bump regionPage Reg.REGION.UNMAPPED_CNT
  let m2 := if m1.live regionPage Reg.REGION.UNMAPPED_ADDR_VALID = 1 then m1
    else (m1.setLive regionPage Reg.REGION.UNMAPPED_ADDR_ADDR a).setLive regionPage Reg.REGION.UNMAPPED_ADDR_VALID 1
  m2.raise regionPage 16

/-- The LAKE and BASIN pages, in turn. -/
def memPage (i : Nat) : Page := if i < 8 then ⟨.lake, i⟩ else ⟨.basin, i - 8⟩

/-- The lines of an access pass their home slices. Which lines the cache holds is left open by the spec, so hit or miss, and
whether an older line of which target is written back, are free values. A write of a whole line reads no memory. -/
def Mach.touchLines (m : Mach) (a n : Nat) (wr : Bool) : Mach :=
  (lineStarts a n).foldl (fun m b =>
    match m.memTarget b with
    | none => m.unmapped b
    | some t =>
      let p := poolPage (homeSlice b)
      let whole := wr && decide (b % 256 = 0 ∧ b + 256 ≤ a + n)
      let m1 := if bit m.freeWord 0 then m.bump p Reg.POOL.CACHE_HIT
        else if whole then m
        else (m.bump p Reg.POOL.CACHE_MISS).bump (targetPage t.1) Reg.LAKE.READ_BYTES 256
      let m2 := if bit m.freeWord 1 then
          (m1.bump p Reg.POOL.WRITEBACKS).bump (memPage (m.freeWord.toNat / 4 % 14)) Reg.LAKE.WRITE_BYTES 256
        else m1
      m2.stir) m

/-- A slice writes back and drops dirty lines, at most n: how many, and of which targets, is open. -/
def Mach.flushSlice (m : Mach) (s n : Nat) : Mach :=
  let k := m.freeWord.toNat % (n + 1)
  ((upTo 14).foldl (fun (x : Nat × Mach) i =>
    let t := if i = 13 then x.1 else x.2.freeWord.toNat % (x.1 + 1)
    (x.1 - t, (x.2.bump (memPage i) Reg.LAKE.WRITE_BYTES (256 * t)).stir)) (k, (m.bump (poolPage s) Reg.POOL.WRITEBACKS k).stir)).2

/-- Lines of 256 bytes in the 48 MiB of a slice (R20). -/
def sliceLines : Nat := 196608

/-- A clean write of a whole word is what its next reader gets, whatever was due to be delivered poisoned (R279). -/
def Mach.rewritten (m : Mach) (k n : Nat) (bad : Bool) : Mach :=
  if bad || m.chan.delivered.isEmpty then m
  else { m with chan := { m.chan with delivered := marksAfter m.chan.delivered k n false } }

/-- Write bytes at memory addresses, all poisoned or all clean, inside one 256-byte line; bytes of an unmapped address are
discarded. A digest engine sees whether a word that is written is poisoned afterwards (R400, R493). -/
def Mach.memPoke (m : Mach) (a : Nat) (d : Bytes) (bad : Bool) : Mach :=
  match m.memKey a with
  | none => (m.snoop a d.length true)
  | some k =>
    let m1 := (m.wrBytes k d bad).rewritten k d.length bad
    m1.snoop a d.length (bad || (upTo d.length).any (fun i => m1.marked (k + i)))

/-- The byte lies in a block whose next reader gets it poisoned (R279, R414). -/
def Mach.deliveredBad (m : Mach) (k : Nat) : Bool := SMap.get m.chan.delivered (fun _ => false) (k / 8)

/-- Read bytes at memory addresses, each with its mark; an unmapped byte is poisoned. -/
def Mach.memPeek (m : Mach) (a n : Nat) : List (Byte × Bool) :=
  (upTo n).map (fun i => match m.memKey (a + i) with
    | some k => (m.rdByte k, m.marked k || m.deliveredBad k)
    | none => (BitVec.ofNat 8 (m.junk i 8), true))

/-! ## Locations of a transfer -/

/-- Where a transfer reads or writes: an offset of a unit's pond, of slice scratch, or a memory address. -/
inductive Loc where
  | pond (u off : Nat)
  | scratch (s off : Nat)
  | mem (a : Nat)
deriving DecidableEq, Repr

def Loc.addr : Loc → Nat
  | .pond _ o => o
  | .scratch _ o => o
  | .mem a => a

def Loc.plus : Loc → Nat → Loc
  | .pond u o, n => .pond u (o + n)
  | .scratch s o, n => .scratch s (o + n)
  | .mem a, n => .mem (a + n)

/-- Read bytes with their marks. -/
def Mach.locPeek (m : Mach) (l : Loc) (n : Nat) : List (Byte × Bool) :=
  match l with
  | .pond u o => (upTo n).map (fun i => (m.rdByte (pondKey u (o + i)), m.marked (pondKey u (o + i))))
  | .scratch s o => (upTo n).map (fun i => (m.rdByte (scratchKey s (o + i)), m.marked (scratchKey s (o + i))))
  | .mem a => m.memPeek a n

/-- The passage of an access through the slices; ponds and scratch have none. -/
def Mach.locTouch (m : Mach) (l : Loc) (n : Nat) (wr : Bool) : Mach :=
  match l with
  | .mem a => m.touchLines a n wr
  | _ => m

/-- Write a run of bytes inside one aligned 8-byte word. -/
def Mach.locPoke (m : Mach) (l : Loc) (d : Bytes) (bad : Bool) : Mach :=
  match l with
  | .pond u o => m.pondWrite u o d bad
  | .scratch s o => m.wrBytes (scratchKey s o) d bad
  | .mem a => m.memPoke a d bad

/-- The location with another address of the same space. -/
def Loc.at (l : Loc) (x : Nat) : Loc :=
  match l with
  | .pond u _ => .pond u x
  | .scratch s _ => .scratch s x
  | .mem _ => .mem x

/-- Write bytes with their marks, word by word (R493). -/
def Mach.locWrite (m : Mach) (l : Loc) (d : List (Byte × Bool)) : Mach :=
  let runs := joinBytes (List.zipWith (fun i b => (l.addr + i, b)) (upTo d.length) d)
  runs.foldl (fun m r => m.locPoke (l.at r.1) r.2.1 r.2.2) (m.locTouch l d.length true)

/-- A read of slice s takes the injections of the pool's detectors (R412, R414): the corrected word is as stored, the
uncorrectable one is delivered poisoned. -/
def Mach.poolInject (m : Mach) (s key : Nat) : Bool × Mach :=
  let ce := m.takeInject (poolPage s) 17
  let m1 := if ce.1 then (ce.2.raise (poolPage s) 17).report412 (poolPage s) 0x05 key .transient true false else m
  let ue := m1.takeInject (poolPage s) 18
  (ue.1, if ue.1 then (ue.2.raise (poolPage s) 18).report412 (poolPage s) 0x06 key .hard true true else m1)

/-- The slices and rows that a read passes; where the cache holds a line is left open by the spec. -/
def Mach.readRows (m : Mach) (l : Loc) (n : Nat) : List (Nat × Nat) :=
  match l with
  | .pond .. => []
  | .scratch s o => [(s, o / 64)]
  | .mem a => (lineStarts a n).map (fun b => (homeSlice b, m.junk 0 19))

/-- What a block delivered poisoned is gone from the lines once they have been read. -/
def Mach.forget (m : Mach) (l : Loc) (n : Nat) : Mach :=
  match l with
  | .mem a =>
    if m.chan.delivered.isEmpty then m
    else
      let ks := (upTo n).filterMap (fun i => (m.memKey (a + i)).map (· / 8))
      { m with chan := { m.chan with delivered := SMap.keep (fun k => decide (k ∉ ks)) m.chan.delivered } }
  | _ => m

/-- The injections that a read of a location takes: of the pond, or of each slice that it passes. -/
def Mach.locInject (m : Mach) (l : Loc) (n : Nat) : Bool × Mach :=
  match l with
  | .pond u o => m.pondInject u (o / 64)
  | _ => (m.readRows l n).foldl (fun (x : Bool × Mach) k => let y := x.2.poolInject k.1 k.2; (x.1 || y.1, y.2)) (false, m)

/-- A read of a location: the bytes with their marks, and the state after their detectors and the slices. -/
def Mach.locRead (m : Mach) (l : Loc) (n : Nat) : List (Byte × Bool) × Mach :=
  let d := m.locPeek l n
  let r := m.locInject l n
  ((if r.1 then d.map (fun b => (b.1, true)) else d), (r.2.locTouch l n false).forget l n)

/-- A location does not answer now, not even to an access that has been accepted. -/
def Mach.locStuck (m : Mach) (l : Loc) (n : Nat) : Bool :=
  match l with
  | .mem a => m.chanBusy a n
  | .scratch s o => m.rowHeld (scratchKey s o) n
  | .pond u o => m.rowHeld (pondKey u o) n

/-- The slices that an access to a location passes. -/
def locSlices (l : Loc) (n : Nat) : List Nat :=
  match l with
  | .mem a => (lineStarts a n).map homeSlice
  | .scratch s _ => [s]
  | .pond .. => []

/-- What is not accepted yet is held on its way to a location: by a slice whose scratch commit is due (R261), by a region commit that is
due (R275), or by the switch of the unit (R421). -/
def Mach.locDue (m : Mach) (l : Loc) (n : Nat) : Bool :=
  (locSlices l n).any m.sliceDue ||
    (match l with
     | .mem a => m.remapMeets a n
     | .scratch .. => false
     | .pond u _ => m.spare.copies.any (fun c => decide (c.fromUnit = u ∨ c.toUnit = u)))

/-- Accesses to a location that arrive now are held. -/
def Mach.locHeld (m : Mach) (l : Loc) (n : Nat) : Bool := m.locStuck l n || m.locDue l n

/-! ## Held accesses -/

/-- An access at a home slice is performed: a window read is answered (R287, R288). -/
def Mach.reqPerform (m : Mach) (r : HeldReq) : Mach :=
  match r with
  | .read (some h) a n => let d := m.locRead (.mem a) n; d.2.stir.send (.hostRead h (d.1.map (·.1)) (d.1.any (·.2)))
  | .read none a n => (m.locRead (.mem a) n).2
  | .write a d bad => m.locWrite (.mem a) (d.map (fun b => (b, bad)))

/-- The range of an access. -/
def HeldReq.range : HeldReq → Nat × Nat
  | .read _ a n => (a, n)
  | .write a d _ => (a, d.length)

/-- Two accesses share a byte. -/
def HeldReq.meets (x y : HeldReq) : Bool :=
  decide (x.range.1 < y.range.1 + y.range.2 ∧ y.range.1 < x.range.1 + x.range.2)

/-- An access arrives at its home slice (R259): it is performed, or it is held while memory or an access before it to the same
bytes is held (R266, R275, R281, R286). DESIGN CHOICE, log 98. -/
def Mach.memAccess (m : Mach) (r : HeldReq) : Mach :=
  if m.memHeld r.range.1 r.range.2 || m.chan.held.any (HeldReq.meets r) then
    { m with chan := { m.chan with held := m.chan.held ++ [r] } }
  else m.reqPerform r

/-- An access that was accepted before the region commit fell due goes on under the table that was in force then (R275). -/
def Mach.earlyAccess (m : Mach) (r : HeldReq) : Mach :=
  if m.chanBusy r.range.1 r.range.2 || m.chan.held.any (HeldReq.meets r) then
    { m with chan := { m.chan with held := m.chan.held ++ [r], early := m.chan.early + 1 } }
  else m.reqPerform r

/-- A hold has ended: held accesses are performed in their order, and those that are held for another reason stay. -/
def Mach.settleHeld (m : Mach) : Mach :=
  if m.chan.held.isEmpty then m
  else
    let hs := m.chan.held
    let k := m.chan.early
    (hs.drop k).foldl (fun m r => m.memAccess r)
      ((hs.take k).foldl (fun m r => m.earlyAccess r) { m with chan := { m.chan with held := [], early := 0 } })

/-! ## Controllers (R277 to R285) -/

/-- A target and block that exist (R269, R270). -/
def memBlockOk (b : MemBlock) : Bool :=
  decide ((b.target < 256 ∧ b.block < 0x2400000) ∨ (256 ≤ b.target ∧ b.target < 280 ∧ b.block < 2 ^ 30))

/-- Mark every word of a stored block poisoned. -/
def Mach.poisonBlock (m : Mach) (b : MemBlock) : Mach :=
  let k := targetKey b.target (64 * b.block)
  { m with poison := marksAfter m.poison k 64 true }

/-- The reader of a block gets it poisoned, and the stored block stays as it is (R279, R414). -/
def Mach.deliverPoison (m : Mach) (b : MemBlock) : Mach :=
  { m with chan := { m.chan with
    delivered := marksAfter m.chan.delivered (targetKey b.target (64 * b.block)) 64 true } }

/-- Report a corrected or uncorrectable block (R279, R412). -/
def Mach.blockReport (m : Mach) (b : MemBlock) (e : EccReport) (ue injected : Bool) : Mach :=
  let p := targetPage b.target
  let i := targetIdx b.target
  let det := if b.target < 256 then 0x08 else 0x09
  let key := match e.symbols, e.lanes with
    | 1, l :: _ => laneKey i l
    | _, _ => blockKey i b.block
  let m1 := if ue then
      ((m.bump p Reg.LAKE.UE_COUNT).setLive p Reg.LAKE.LAST_UE_CHANNEL i).setLive p Reg.LAKE.LAST_UE_BLOCK b.block
    else m.bump p Reg.LAKE.CE_COUNT
  (m1.raise p (if ue then 17 else 16)).report412 p det key (if ue then .hard else .transient) injected false

/-- A block read as its code finds it (R277 to R279): 1 or 2 symbols are corrected in the lake and 1 in the basin; up to 4,
or 2, are detected; beyond that detection is a free value, and undetected data are open. A block that is stored sound is
poisoned for its reader only; the patrol has none. An injected corrected error is reported beside what the code finds (R290, R414). -/
def Mach.blockRead (m : Mach) (b : MemBlock) (e : EccReport) (reader : Bool) : Mach :=
  let p := targetPage b.target
  let fix := if b.target < 256 then 2 else 1
  let inj17 := m.takeInject p 17
  let inj16 := if inj17.1 then (false, inj17.2) else inj17.2.takeInject p 16
  let m1 := if inj16.1 then inj16.2.blockReport b { e with symbols := 2 } false true else inj16.2
  if inj17.1 then (if reader then m1.deliverPoison b else m1).blockReport b { e with symbols := 3 } true true
  else if e.symbols = 0 then m1
  else if e.symbols ≤ fix then
    (if e.stored then m1.bump p Reg.LAKE.WRITE_BYTES 64 else m1).blockReport b e false false
  else if e.symbols ≤ 2 * fix ∨ bit m1.freeWord 0 then
    ((if e.stored then m1.poisonBlock b else if reader then m1.deliverPoison b else m1).blockReport b e true false).stir
  else if e.stored then
    (m1.wrBytes (targetKey b.target (64 * b.block)) ((upTo 64).map (fun i => BitVec.ofNat 8 (m1.junk i 8))) false).stir
  else m1.stir

/-! ## Retirement of a channel (R282, R283) -/

/-- The offset of channel k that stands at a byte key of a reserve of its stack, if the key lies there. -/
def reserveSource (k key : Nat) : Option Nat :=
  let t := (key - 2 ^ 48) / 2 ^ 32
  let off := (key - 2 ^ 48) % 2 ^ 32
  if key < 2 ^ 48 ∨ 256 ≤ t ∨ t % 8 ≠ k % 8 ∨ t = k ∨ off < 0x8B800000 then none
  else
    let s := if t / 8 < k / 8 then t / 8 else t / 8 - 1
    some (((off - 0x8B800000) / 256 * 31 + s) * 256 + off % 256)

/-- Move the offsets lo to hi − 1 of a channel into the reserves of its stack: the reserve takes every byte and mark, and a
block that its next reader gets poisoned is written poisoned (R279, R283). -/
def Mach.copyRange (m : Mach) (k lo hi : Nat) : Mach :=
  let src := fun a => decide (lakeKey k lo ≤ a ∧ a < lakeKey k hi)
  let dst := fun a => match reserveSource k a with | some o => decide (lo ≤ o ∧ o < hi) | none => false
  let place := fun a => let r := reservePlace k (a - lakeKey k 0); lakeKey r.1 r.2
  let bad := m.poison ++ m.chan.delivered
  let gone := fun w => src (8 * w) || dst (8 * w)
  let m1 : Mach := { m with
    mem := m.mem.foldl (fun mm e => if src e.1 then SMap.set mm memDefault (place e.1) e.2 else mm)
      (SMap.keep (fun a => !(src a || dst a)) m.mem)
    poison := bad.foldl (fun pp e => if src (8 * e.1) then SMap.set pp (fun _ => false) (place (8 * e.1) / 8) true else pp)
      (SMap.keep (fun w => !gone w) m.poison)
    chan := { m.chan with delivered := SMap.keep (fun w => !gone w) m.chan.delivered } }
  (m1.bump (targetPage k) Reg.LAKE.READ_BYTES (hi - lo)).bump (targetPage k) Reg.LAKE.WRITE_BYTES (hi - lo)

/-- A span has been copied: accesses to it go to the reserve, and those that were held are performed. -/
def Mach.spanCopied (m : Mach) (k : Nat) : Mach :=
  let c := m.chanOf k
  ((m.copyRange k (65536 * c.copied) (65536 * (c.copied + 1))).setChan k { c with copied := c.copied + 1 }).settleHeld

/-- The block lies in the span that is being copied, which nothing but the copy reads. -/
def Mach.copyReads (m : Mach) (b : MemBlock) : Bool := m.spanHeld (b.target, 64 * b.block)

/-- R279. A block is read for a reader, or by the copy of a retirement, which goes on to the next span with the last block of
one. DESIGN CHOICE, log 98. -/
def Mach.blockTaken (m : Mach) (b : MemBlock) (e : EccReport) : Mach :=
  let m1 := m.blockRead b e true
  if m.copyReads b ∧ b.block % 1024 = 1023 then m1.spanCopied b.target else m1

/-- R279. A block read completes. -/
def execMemoryBlockRead (blk : MemBlock) (ecc : EccReport) (s : State) : Host.Outcome State Fault Refusal :=
  s.run (memBlockOk blk) (fun m => if m.memoryUp then m.blockTaken blk ecc else m)

/-! ## The patrol (R280) -/

/-- Blocks of a target, and targets of its page. -/
def blocksOf (t : Nat) : Nat := if t < 256 then 0x2400000 else 2 ^ 30
def targetsOf (t : Nat) : Nat := if t < 256 then 32 else 4

/-- Place of a block in the order of the patrol: by channel or device slot, then by offset. DESIGN CHOICE, log 98. -/
def patrolPlace (b : MemBlock) : Nat := targetIdx b.target * blocksOf b.target + b.block

/-- The block that the patrol of a page reads next. -/
def Mach.scrubPos (m : Mach) (p : Page) : Nat := SMap.get m.chan.scrub (fun _ => 0) p.num

/-- R280. The patrol scrub reads the block at its place and goes on; it pauses in self-refresh. -/
def Mach.patrol (m : Mach) (b : MemBlock) (e : EccReport) : Mach :=
  let p := targetPage b.target
  if m.act p Reg.LAKE.LAKECTL_SCRUB = 1 ∧ m.memoryUp ∧ patrolPlace b = m.scrubPos p then
    let m1 := (m.blockRead b e false).bump p Reg.LAKE.READ_BYTES 64
    let next := (patrolPlace b + 1) % (targetsOf b.target * blocksOf b.target)
    let m2 : Mach := { m1 with chan := { m1.chan with scrub := SMap.set m1.chan.scrub (fun _ => 0) p.num next } }
    if next = 0 then m2.bump p Reg.LAKE.SCRUB_PASSES else m2
  else m

/-- R280. -/
def execPatrolScrub (blk : MemBlock) (ecc : EccReport) (s : State) : Host.Outcome State Fault Refusal :=
  s.run (memBlockOk blk) (fun m => m.patrol blk ecc)

/-- R281. An in-place retraining ends with a spare lane in use; held accesses go on. It never runs in self-refresh (R286). -/
def Mach.laneRetrained (m : Mach) (t : Nat) : Mach :=
  let c := m.chanOf t
  if c.retrain ∧ m.memoryUp then
    let p := targetPage t
    ((((m.setChan t { c with retrain := false }).bump p Reg.LAKE.RETRAINS).setPair p Reg.LAKE.SPARE_USED (targetIdx t)
      (min 2 c.lanes.length)).raise p 20).settleHeld
  else m

/-- R281. -/
def execLaneRetrainDone (target : Nat) (s : State) : Host.Outcome State Fault Refusal :=
  s.run (decide (target < 280)) (fun m => m.laneRetrained target)

/-- R283. The copy of a retired channel ends: the spans that are left are copied, and held accesses go to the reserve. -/
def Mach.channelCopied (m : Mach) (t : Nat) : Mach :=
  if m.chState t = 1 ∧ t < 256 then
    (((m.copyRange t (65536 * (m.chanOf t).copied) 0x8B800000).setChState t 2).raise (targetPage t) 18).settleHeld
  else m

/-- R283. -/
def execChannelCopyDone (target : Nat) (s : State) : Host.Outcome State Fault Refusal :=
  s.run (decide (target < 280)) (fun m => m.channelCopied target)

/-- R285. A stack crosses 85 °C. The refresh of the basin doubles while some stack is above it, as the table's row for both
memories says. DEDUCED, log 98. -/
def Mach.refreshHot (m : Mach) (t : Nat) (above : Bool) : Mach :=
  let m1 := (m.setLive ⟨.lake, t⟩ Reg.LAKE.HOT (b2n above)).raise ⟨.lake, t⟩ 21
  let any := (upTo 8).any (fun s => decide (m1.live ⟨.lake, s⟩ Reg.LAKE.HOT = 1))
  (upTo 6).foldl (fun m d => m.setLive ⟨.basin, d⟩ Reg.LAKE.HOT (b2n any)) m1

/-- R285. -/
def execRefreshHot (stack : BitVec 3) (above : Bool) (s : State) : Host.Outcome State Fault Refusal :=
  s.run true (fun m => m.refreshHot stack.toNat above)

end Sys2Proof.Machine
end

