-- ==== Sys2Proof/Machine/Dma.lean ====
section
/-! DEFINITION. DMA engines (R251 to R258), pool operations (R255, R256, R259 to R263) and WAIT.DMA (R257). -/

namespace Sys2Proof.Machine

/-! ## Descriptor fields (R253) -/

def dmOp (w : List Nat) : Nat := wfld w 0 3 0
def dmSFmt (w : List Nat) : Nat := wfld w 0 7 4
def dmDFmt (w : List Nat) : Nat := wfld w 0 11 8
def dmRnd (w : List Nat) : Bool := wbit w 0 12
def dmSat (w : List Nat) : Bool := wbit w 0 13
def dmOrd (w : List Nat) : Bool := wbit w 0 14
def dmScaled (w : List Nat) : Bool := wbit w 0 15
def dmGroup (w : List Nat) : Nat := wfld w 0 21 16
def dmTag (w : List Nat) : Nat := wfld w 0 47 32
def dmCount (w : List Nat) : Nat := wfld w 3 31 0
def dmTicket (w : List Nat) : Nat := wfld w 3 63 32
def dmTensor (w : List Nat) : Nat := wfld w 4 19 0
def dmStep (w : List Nat) : Nat := wfld w 4 59 20
def dmEBase (w : List Nat) : Nat := wordAt w 5
def dmSSlot (w : List Nat) : Nat := wfld w 6 15 0
def dmDSlot (w : List Nat) : Nat := wfld w 6 31 16
def dmWide (w : List Nat) : Bool := wbit w 6 32

/-- An atomic (0x8 to 0xD), and an operation at a pool slice (0x8 to 0xE). -/
def dmAtomic (w : List Nat) : Bool := decide (8 ≤ dmOp w ∧ dmOp w ≤ 13)
def dmPool (w : List Nat) : Bool := decide (8 ≤ dmOp w ∧ dmOp w ≤ 14)

/-- Bits of a source and of a destination element. -/
def dmSBits (w : List Nat) : Nat := if dmWide w then 64 else fmtWidth (dmSFmt w)
def dmDBits (w : List Nat) : Nat := if dmWide w then 64 else fmtWidth (dmDFmt w)

/-- Source elements: CAS reads two for each target element (R255). -/
def dmSCount (w : List Nat) : Nat := if dmOp w = 12 then 2 * dmCount w else dmCount w

def dmSBytes (w : List Nat) : Nat := ceilDiv (dmSCount w * dmSBits w) 8
def dmDBytes (w : List Nat) : Nat := ceilDiv (dmCount w * dmDBits w) 8

/-! ## Addresses (R252) -/

/-- The bits of an address that its SPACE does not define. -/
def spaceReserved (a : Nat) : Bool :=
  let sp := natBits a 63 60
  if sp = 0 then decide (natBits a 59 24 ≠ 0)
  else if sp = 1 then decide (natBits a 59 56 ≠ 0 ∨ natBits a 47 22 ≠ 0)
  else if sp = 2 then decide (natBits a 59 53 ≠ 0 ∨ natBits a 47 24 ≠ 0)
  else if sp = 3 then decide (natBits a 59 53 ≠ 0 ∨ natBits a 47 25 ≠ 0)
  else if sp = 4 then decide (natBits a 59 48 ≠ 0)
  else true

/-- A unit number beyond the last unit of its kind (R252). -/
def Mach.spaceBeyond (m : Mach) (a : Nat) : Bool :=
  let sp := natBits a 63 60
  if sp = 1 then decide ((if m.testMode then 180 else 160) ≤ natBits a 55 48)
  else if sp = 2 then decide ((if m.testMode then 24 else 20) ≤ natBits a 52 48)
  else if sp = 3 then decide (20 ≤ natBits a 52 48)
  else false

/-- The location that an address names for a unit; none when its logical unit is absent. -/
def Mach.spaceLoc (m : Mach) (u a : Nat) : Option Loc :=
  let sp := natBits a 63 60
  if sp = 0 then some (.pond u (natBits a 23 0))
  else if sp = 1 then (m.logical false (natBits a 55 48)).map (fun v => .pond v (natBits a 21 0))
  else if sp = 2 then (m.logical true (natBits a 52 48)).map (fun v => .pond v (natBits a 23 0))
  else if sp = 3 then some (.scratch (natBits a 52 48) (natBits a 24 0))
  else some (.mem (natBits a 47 0))

/-- Bytes of pool scratch of a slice in force (R261). -/
def Mach.scratchBytes (m : Mach) (s : Nat) : Nat := m.act (poolPage s) Reg.POOL.SCRATCH_MIB * 2 ^ 20

/-- A range stays in its pond, solver pond or pool scratch. -/
def Mach.locInside (m : Mach) (l : Loc) (n : Nat) : Bool :=
  match l with
  | .pond u o => decide (o + n ≤ pondSize u)
  | .scratch s o => decide (o + n ≤ m.scratchBytes s)
  | .mem _ => true

/-- An address aligned to an element of w bits. -/
def dmAligned (a w : Nat) : Bool := decide (w < 8 ∨ a % (w / 8) = 0)

/-- The addresses that a descriptor uses: address, bytes, element bits. -/
def dmUses (w : List Nat) : List (Nat × Nat × Nat) :=
  [(wordAt w 1, dmSBytes w, dmSBits w), (wordAt w 2, dmDBytes w, dmDBits w)] ++
    (if dmAtomic w then [(wordAt w 7, dmDBytes w, dmDBits w)] else [])

/-- Combinations of OP, SFMT and DFMT that R254 to R256 allow. -/
def dmFormatOk (w : List Nat) : Bool :=
  let op := dmOp w
  let s := dmSFmt w
  let t := dmDFmt w
  if fmtReserved s || fmtReserved t then false
  else if dmWide w && !(decide (8 ≤ op ∧ op ≤ 12) && decide (s = 11 ∧ t = 11)) then false
  else if op = 0 then true
  else if !decide (natBits (wordAt w 2) 63 60 = 3 ∨ natBits (wordAt w 2) 63 60 = 4) && dmPool w then false
  else if op = 8 ∨ op = 9 ∨ op = 10 then decide (s = t ∧ (s = 11 ∨ s = 10))
  else if op = 11 ∨ op = 12 then decide (s = t)
  else if op = 13 then decide (s = t ∧ (s = 1 ∨ s = 2))
  else if op = 14 then decide ((s = 1 ∨ s = 2) ∧ (t = 1 ∨ t = 2))
  else true

/-- Reserved bits and codes of a descriptor (R253, R254). -/
def dmReserved (w : List Nat) : Bool :=
  decide (wfld w 0 31 22 ≠ 0 ∨ wfld w 0 63 48 ≠ 0 ∨ wfld w 4 63 60 ≠ 0 ∨ wfld w 6 63 33 ≠ 0) ||
    !(decide (dmOp w = 0) || dmPool w) || (dmUses w).any (fun x => spaceReserved x.1)

/-- The first failing code of R257 at DM.RUN, in table order; 0 when none. -/
def Mach.dmCode (m : Mach) (u : Nat) (w : List Nat) (tagBusy : Bool) : Nat :=
  if dmCount w = 0 then 0x01
  else if !dmFormatOk w then 0x02
  else if (dmUses w).any (fun x => !spaceReserved x.1 && (m.spaceBeyond x.1 ||
      (match m.spaceLoc u x.1 with
        | some l => !m.locInside l x.2.1 || !dmAligned l.addr x.2.2
        | none => false))) then 0x07
  else if dmReserved w then 0x08
  else if (dmUses w).any (fun x => (m.spaceLoc u x.1).isNone) then 0x0B
  else if tagBusy then 0x0C
  else 0

/-! ## Queues and completion (R251, R257) -/

def queueDefault (_ : Nat) : List DmaItem := []

def Mach.dmaQueue (m : Mach) (u : Nat) : List DmaItem := SMap.get m.dma.queues queueDefault u

def Mach.setDmaQueue (m : Mach) (u : Nat) (q : List DmaItem) : Mach :=
  { m with dma := { m.dma with queues := SMap.set m.dma.queues queueDefault u q } }

/-- A descriptor of a context with a tag is outstanding. -/
def Mach.dmaOut (m : Mach) (u c tag : Nat) : Bool :=
  (m.dmaQueue u).any (fun i => decide (i.ctx = c ∧ dmTag i.words = tag))

/-- A completion becomes one of the context's last 64, and a wait for its tag ends when nothing is left (R257). -/
def Mach.dmaReport (m : Mach) (u c : Nat) (d : DmaDone) : Mach :=
  let x := m.ctx u c
  let m1 := m.setCtx u c { x with dma := (d :: x.dma).take 64 }
  if x.state = .waiting ∧ x.wait = .dma d.tag ∧ !m1.dmaOut u c d.tag then m1.wake u c else m1

/-- A refusal of a descriptor (R257). -/
def Mach.dmaRefuse (m : Mach) (u c tag code : Nat) : Mach :=
  let p := unitPage u
  ((((m.bump p Reg.CELL.DMA_REFUSED_CNT).setLive p Reg.CELL.DMA_LAST_REFUSE_CODE code).setLive p
    Reg.CELL.DMA_LAST_REFUSE_TAG tag).raise p 27).dmaReport u c ⟨tag, code, false, false⟩

/-- The scales of a SCALED descriptor are valid (R63). -/
def Mach.dmScalesOk (m : Mach) (w : List Nat) : Bool :=
  !dmScaled w || (scaleOk (m.slot (dmSSlot w)).scale && scaleOk (m.slot (dmDSlot w)).scale)

/-- A descriptor is checked and enters the queue, or is refused. The spec gives a descriptor with an invalid scale no
code, so that code is a free value. -/
def Mach.dmaEnter (m : Mach) (u c : Nat) (w : List Nat) : Mach :=
  let p := unitPage u
  let code := m.dmCode u w (m.dmaOut u c (dmTag w))
  let m1 := m.raiseIf (fmtReserved (dmSFmt w) || fmtReserved (dmDFmt w)) p 20
  if code ≠ 0 then m1.dmaRefuse u c (dmTag w) code
  else if !m1.dmScalesOk w then
    ((m1.raise p 21).dmaRefuse u c (dmTag w) (1 + m1.freeWord.toNat % 255)).stir
  else
    let it : DmaItem := { id := m1.dma.nextId, ctx := c, words := w, seed := m1.seed, denorm := m1.denorm u,
                          starveThr := m1.act (unitPage u) Reg.CELL.PONDCTL_STARVE_THR, started := false, startedAt := 0, starved := false, buffered := false, performed := false,
                          code := 0, poison := false, wrote := [], old := [] }
    let m2 := m1.setDmaQueue u (m1.dmaQueue u ++ [it])
    ({ m2 with dma := { m2.dma with nextId := m2.dma.nextId + 1 } } : Mach).tapAccept u (dmTag w) it.id

/-- DM.RUN (R251): gD receives 1 when the queue is full, else 0. -/
def Mach.dmRun (m : Mach) (u c : Nat) (gd ga : RegNo) (imm : BitVec 13) : Mach :=
  m.withDesc u c (descAddr (m.g u c ga) imm) 64 64 (fun w =>
    if 32 ≤ (m.dmaQueue u).length then m.writeBack u c gd 1
    else (m.dmaEnter u c w).writeBack u c gd 0)

/-- R251. DM.RUN. -/
def execDmRun (u : UnitId) (c : CtxId) (gd ga : RegNo) (imm : BitVec 13) (s : State) : Host.Outcome State Fault Refusal :=
  s.issue u c (fun m => m.dmRun u.val c.val gd ga imm)

/-- R251. DM.POLL. -/
def execDmPoll (u : UnitId) (c : CtxId) (gd _ga : RegNo) (_imm : BitVec 13) (s : State) : Host.Outcome State Fault Refusal :=
  s.issue u c (fun m => m.writeBack u.val c.val gd
    (w64 ((m.dmaQueue u.val).filter (fun i => decide (i.ctx = c.val))).length))

/-- The result word of WAIT.DMA. -/
def dmaWord (x : List DmaDone) (tag : Nat) : Word :=
  match x.find? (fun d => decide (d.tag = tag)) with
  | none => 0xFF
  | some d => w64 (d.code % 256 + 256 * b2n d.collide + 512 * b2n d.poison)

/-- WAIT.DMA (R257). -/
def Mach.waitDma (m : Mach) (u c : Nat) (gd ga : RegNo) : Mach :=
  let t := (m.g u c ga).toNat
  if m.dmaOut u c t then m.sleep u c (.dma t) else m.writeBack u c gd (dmaWord (m.ctx u c).dma t)

/-- R257. WAIT.DMA. -/
def execWaitDma (u : UnitId) (c : CtxId) (gd ga _gb : RegNo) (s : State) : Host.Outcome State Fault Refusal :=
  s.issue u c (fun m => m.waitDma u.val c.val gd ga)

/-! ## Starting (R258) -/

/-- The locations of a descriptor with their bytes: source, then what it writes. -/
def Mach.dmSrc (m : Mach) (u : Nat) (w : List Nat) : Option (Loc × Nat) :=
  (m.spaceLoc u (wordAt w 1)).map (fun l => (l, dmSBytes w))
def Mach.dmDsts (m : Mach) (u : Nat) (w : List Nat) : List (Loc × Nat) :=
  ((dmUses w).drop 1).filterMap (fun x => (m.spaceLoc u x.1).map (fun l => (l, x.2.1)))

/-- Two locations share a byte. -/
def locOverlap (a b : Loc × Nat) : Bool :=
  let meets := fun (x y : Nat) => overlaps (x, a.2) (y, b.2)
  match a.1, b.1 with
  | .pond u x, .pond v y => decide (u = v) && meets x y
  | .scratch s x, .scratch t y => decide (s = t) && meets x y
  | .mem x, .mem y => meets x y
  | _, _ => false

/-- A later descriptor must wait for an earlier one (R258). -/
def Mach.dmBlocks (m : Mach) (u : Nat) (early late : List Nat) : Bool :=
  let es := (m.dmSrc u early).toList
  let ed := m.dmDsts u early
  (m.dmDsts u late).any (fun d => (es ++ ed).any (locOverlap d)) || (m.dmSrc u late).toList.any (fun s => ed.any (locOverlap s))

/-- Replace the descriptor with an identity. -/
def Mach.setDmaItem (m : Mach) (u : Nat) (it : DmaItem) : Mach :=
  m.setDmaQueue u ((m.dmaQueue u).map (fun i => if i.id = it.id then it else i))

/-- Every location that a descriptor names, with its bytes. -/
def Mach.dmLocs (m : Mach) (u : Nat) (w : List Nat) : List (Loc × Nat) := (m.dmSrc u w).toList ++ m.dmDsts u w

/-- The ranges of a descriptor lie in their ponds and in the scratch size in force (R257, R261). -/
def Mach.dmInside (m : Mach) (u : Nat) (w : List Nat) : Bool := (m.dmLocs u w).all (fun l => m.locInside l.1 l.2)

/-- A write to a location can be performed: it answers, and the arrays of a destination cell do not guard it (R85). -/
def Mach.dstFree (m : Mach) (l : Loc × Nat) : Bool :=
  !m.locStuck l.1 l.2 && (match l.1 with | .pond v o => !m.guarded v o l.2 | _ => true)

/-- Writes of a transfer that find themselves held by the guard of a cell's arrays: those of DMA and of host rings also in the
operand ranges, the others in the output range (R85). -/
def Mach.hazards (m : Mach) (dma : Bool) (ls : List (Loc × Nat)) : Mach :=
  ls.foldl (fun m l =>
    match l.1 with
    | .pond v o => if (if dma then m.guarded v o l.2 else m.outGuarded v o l.2) then m.hazard v else m
    | _ => m) m

/-- The locations that an operation reads and writes when it is performed answer: those of a COPY, or the source and the target
of an operation at a slice, whose RET is written later. -/
def Mach.dmReady (m : Mach) (u : Nat) (w : List Nat) : Bool :=
  (m.dmSrc u w).toList.all (fun l => !m.locStuck l.1 l.2) && ((m.dmDsts u w).take 1).all m.dstFree

/-- A descriptor leaves the engine: counted, reported, or recorded as refused at the slice. -/
def Mach.dmaFinish (m : Mach) (u : Nat) (it : DmaItem) (collide : Bool) : Mach :=
  let m1 := m.setDmaQueue u ((m.dmaQueue u).filter (fun i => decide (i.id ≠ it.id)))
  if it.code ≠ 0 then (m1.tapComplete it.id none).dmaRefuse u it.ctx (dmTag it.words) it.code
  else
    ((m1.tapComplete it.id (some it.wrote)).bump (unitPage u) Reg.CELL.DMA_DONE).dmaReport u it.ctx ⟨dmTag it.words, 0, collide, it.poison⟩

/-- R258. The descriptor at a position of the engine starts, and its slices have accepted it. A slice whose scratch commit is due, a
region commit that is due and the switch of a unit hold it before that; under the new size of a scratch a range beyond it is refused
(R261, R275, R421). -/
def Mach.dmaStart (m : Mach) (u pos : Nat) : Mach :=
  match (m.dmaQueue u)[pos]? with
  | none => m
  | some it =>
    if m.unitRuns u ∧ !it.started ∧ !((m.dmaQueue u).take pos).any (fun e => m.dmBlocks u e.words it.words) ∧
        !(m.dmLocs u it.words).any (fun l => m.locDue l.1 l.2) then
      if m.dmInside u it.words then m.setDmaItem u { it with started := true, startedAt := m.ticks }
      else m.dmaFinish u { it with code := 0x07 } false
    else m

/-- R258. -/
def execDmaStart (u : UnitId) (pos : Nat) (s : State) : Host.Outcome State Fault Refusal :=
  s.run true (fun m => m.dmaStart u.val pos)

/-- The descriptor accesses a pond. -/
def Mach.dmPond (m : Mach) (u : Nat) (w : List Nat) : Bool :=
  (m.dmLocs u w).any (fun l => match l.1 with | .pond .. => true | _ => false)

/-- R249. An access to a bank has waited more than STARVE_THR cycles of 0.4 ns: it is counted, and raised unless STARVE_THR is 0,
once for its descriptor. That it has waited so long is what the command says; it cannot have waited longer than since the start
of its descriptor. DEDUCED, log 33. -/
def Mach.dmaStarve (m : Mach) (u pos : Nat) : Mach :=
  match (m.dmaQueue u)[pos]? with
  | none => m
  | some it =>
    if it.started ∧ !it.starved ∧ m.dmPond u it.words ∧ 2 * it.starveThr < 5 * (m.ticks - it.startedAt) then
      ((m.setDmaItem u { it with starved := true }).bump (unitPage u) Reg.CELL.DMA_STARVE_CNT).raiseIf
        (decide (it.starveThr ≠ 0)) (unitPage u) 25
    else m

/-- R249. -/
def execDmaStarve (u : UnitId) (pos : Nat) (s : State) : Host.Outcome State Fault Refusal :=
  s.run true (fun m => m.dmaStarve u.val pos)

/-! ## Elements -/

/-- Element i of w bits of a byte sequence with marks: its code and whether a word of it is poisoned. -/
def byteElem (d : List (Byte × Bool)) (w i : Nat) : Nat × Bool :=
  let lo := w * i / 8
  let bs := (d.drop lo).take ((w * i + w + 7) / 8 - lo)
  ((ofBytes (bs.map (·.1)) >>> (w * i % 8)) % 2 ^ w, bs.any (·.2))

/-- Lay elements of w bits over old bytes: the bytes that they cover. -/
def elemBytes (old : List (Byte × Bool)) (w : Nat) (es : List (Nat × Bool)) : List (Byte × Bool) :=
  if w % 8 = 0 then es.flatMap (fun e => (toBytes (w / 8) e.1).map (fun b => (b, e.2)))
  else
    (upTo (ceilDiv es.length 2)).map (fun i =>
      let lo := es[2 * i]?
      let hi := es[2 * i + 1]?
      let prev := (old[i]?).getD (0, false)
      let l := match lo with | some e => e.1 % 16 | none => prev.1.toNat % 16
      let h := match hi with | some e => e.1 % 16 | none => prev.1.toNat / 16
      (BitVec.ofNat 8 (h * 16 + l),
       (match lo with | some e => e.2 | none => false) || (match hi with | some e => e.2 | none => prev.2)))

/-! ## COPY (R254) -/

/-- One converted element: what DSLOT is presented with, code, flags, poison. -/
def Mach.copyElem (m : Mach) (it : DmaItem) (i : Nat) (x : Nat × Bool) : SlotElem :=
  let w := it.words
  let dst := dmDFmt w
  let rd : Num × BitVec 8 := if dst = 0 then (decode (dmSFmt w) x.1, 0) else readNum it.denorm (dmSFmt w) x.1
  let md : Rnd := if dmRnd w then .sr (springR it.seed (springStream 2 (dmTensor w) (dmStep w)) (dmEBase w + i)) else .rne
  let r : Num × Coded := if dmScaled w then
      (m.slot (dmDSlot w)).convertInto dst md it.denorm (dmSat w) (Num.mul rd.1 (f32Val (m.slot (dmSSlot w)).scale)).1
    else (rd.1, encodeNum dst md it.denorm (dmSat w) rd.1)
  if x.2 then ⟨r.1, ⟨m.junk i (fmtWidth dst), 0⟩, true⟩
  else ⟨r.1, ⟨r.2.code, r.2.flags ||| rd.2 ||| snanFlag [rd.1]⟩, false⟩

/-- Perform a COPY: unchanged bytes where nothing converts, else element by element; WR_COLLIDE words keep what port A
wrote (R250). -/
def Mach.copyWrite (m : Mach) (dst : Loc) (d : List (Byte × Bool)) (collide : List Nat) : Mach :=
  let runs := joinBytes (List.zipWith (fun i b => (dst.addr + i, b)) (upTo d.length) d)
  (runs.filter (fun r => decide (r.1 / 8 ∉ collide))).foldl (fun m r => m.locPoke (dst.at r.1) r.2.1 r.2.2)
    (m.locTouch dst d.length true)

def Mach.copyPerform (m : Mach) (u : Nat) (it : DmaItem) (src dst : Loc) (collide : List Nat) : Mach :=
  let w := it.words
  let (d, m1) := m.locRead src (dmSBytes w)
  let old := m1.locPeek dst (dmDBytes w)
  let done := fun (bytes : List (Byte × Bool)) =>
    (m1.setDmaItem u { it with poison := d.any (·.2), performed := true, wrote := bytes.map (·.1) }).copyWrite dst bytes collide
  let els := (upTo (dmCount w)).map (byteElem d (dmSBits w))
  if dmSFmt w = dmDFmt w ∧ !dmScaled w then
    done (if dmSBits w = 4 ∧ dmCount w % 2 = 1 then elemBytes old 4 els else d)
  else
    let es := List.zipWith (fun i x => m1.copyElem it i x) (upTo (dmCount w)) els
    let m3 := done (elemBytes old (dmDBits w) (es.map (fun e => (e.coded.code, e.bad))))
    let m4 := (m3.addFlags u it.ctx (es.foldl (fun f e => f ||| e.coded.flags) 0)).stir
    if dmScaled w then m4.report (dmDSlot w) (dmDFmt w) es else m4

/-! ## Operations at a slice (R255, R256) -/

/-- The range of an integer target element: UINT8 or two's complement. -/
def atomicRange (w : List Nat) : Int × Int :=
  if dmDFmt w = 10 ∧ !dmWide w then (0, 255) else (-(2 ^ (dmDBits w - 1) : Nat), (2 ^ (dmDBits w - 1) : Nat) - 1)

/-- What an atomic writes to a target element, code and poison, and its flags; a CAS that fails writes nothing. A poisoned
comparand leaves the outcome open. FADD keeps subnormals, whatever DENORM the issuing unit holds, and an IADD that wraps sets
WRAPPED in the issuing context. DESIGN CHOICE, log 33: the spec gives a slice no DENORM. -/
def Mach.atomicElem (m : Mach) (w : List Nat) (i : Nat) (old : Nat × Bool) (a b : Nat × Bool) :
    Option (Nat × Bool) × BitVec 8 :=
  let n := dmDBits w
  let val := fun v : Nat => if dmDFmt w = 10 ∧ !dmWide w then ((v % 256 : Nat) : Int) else sextNat n v
  let op := dmOp w
  let bad := old.2 || a.2
  if op = 11 then (some a, 0)
  else if op = 12 then
    if bad then (some (m.junk i n, true), 0) else if old.1 = a.1 then (some b, 0) else (none, 0)
  else if bad then (some (m.junk i n, true), 0)
  else if op = 13 then
    let s := Num.add (decode (dmDFmt w) old.1) (decode (dmSFmt w) a.1)
    let e := encodeNum (dmDFmt w) .rne true false s.1
    (some (e.code, false), s.2 ||| e.flags)
  else
    let x := val old.1
    let y := val a.1
    let r := atomicRange w
    let c := packInt n r.1 r.2 false (if op = 8 then x + y else if op = 9 then min x y else max x y)
    (some (c.code, false), c.flags)

/-- What BULKADD writes to a target element. Subnormals are kept, whatever DENORM the issuing unit holds. DESIGN CHOICE, log 33:
the spec gives a slice no DENORM. -/
def Mach.bulkElem (m : Mach) (it : DmaItem) (i : Nat) (old a : Nat × Bool) : Option (Nat × Bool) × BitVec 8 :=
  let w := it.words
  if old.2 || a.2 then (some (m.junk i (dmDBits w), true), 0)
  else
    let md : Rnd := if dmRnd w then .sr (springR it.seed (springStream 4 (dmTensor w) (dmStep w)) (dmEBase w + i)) else .rne
    let s := Num.add (decode (dmDFmt w) old.1) (decode (dmSFmt w) a.1)
    let e := encodeNum (dmDFmt w) md true false s.1
    (some (e.code, false), s.2 ||| e.flags)

/-- The slice that performs a pool operation. -/
def locSlice : Loc → Nat
  | .scratch s _ => s
  | .mem a => homeSlice a
  | .pond .. => 0

/-- Rows of 64 bytes that a range touches. -/
def rowsOf (a n : Nat) : Nat := if n = 0 then 0 else (a + n - 1) / 64 + 1 - a / 64

/-- Byte b of the packed target elements of n bits belongs to an element that is written. -/
def byteWritten (res : List (Option (Nat × Bool))) (n b : Nat) : Bool :=
  (res.getD (8 * b / n) none).isSome || (decide (n < 8) && (res.getD (8 * b / n + 1) none).isSome)

/-- Count each atomic element, or each BULKADD row, at its own home slice (R255, R268). -/
def Mach.poolCount (m : Mach) (w : List Nat) (dst : Loc) : Mach :=
  if dmOp w = 14 then
    (upTo (rowsOf dst.addr (dmDBytes w))).foldl (fun m i =>
      m.bump (poolPage (locSlice (dst.at ((dst.addr / 64 + i) * 64)))) Reg.POOL.BULK_ROWS) m
  else
    (upTo (dmCount w)).foldl (fun m i => m.bump (poolPage (locSlice (dst.plus (dmDBits w * i / 8)))) Reg.POOL.ATOMICS) m

/-- Perform an atomic or bulk operation at its slices; the old values are kept for RET (R255, R256). -/
def Mach.poolPerform (m : Mach) (u : Nat) (it : DmaItem) (src dst : Loc) : Mach :=
  let w := it.words
  let (sd, m1) := m.locRead src (dmSBytes w)
  let old := m1.locPeek dst (dmDBytes w)
  let n := dmDBits w
  let res := (upTo (dmCount w)).map (fun i =>
    let o := byteElem old n i
    if dmOp w = 14 then m1.bulkElem it i o (byteElem sd (dmSBits w) i)
    else if dmOp w = 12 then m1.atomicElem w i o (byteElem sd n (2 * i)) (byteElem sd n (2 * i + 1))
    else m1.atomicElem w i o (byteElem sd n i) (0, false))
  let els := (upTo (dmCount w)).map (byteElem old n)
  let bytes := elemBytes old n (List.zipWith (fun r o => r.1.getD o) res els)
  let runs := joinBytes ((List.zipWith (fun i b => (dst.addr + i, b)) (upTo bytes.length) bytes).filter
    (fun b => byteWritten (res.map (·.1)) n (b.1 - dst.addr)))
  let m2 := runs.foldl (fun m r => m.locPoke (dst.at r.1) r.2.1 r.2.2) (m1.locTouch dst (dmDBytes w) false)
  (((m2.poolCount w dst).addFlags u it.ctx (res.foldl (fun f r => f ||| r.2) 0)).stir).setDmaItem u
    { it with performed := true, buffered := false, poison := it.poison || sd.any (·.2) || old.any (·.2), wrote := bytes.map (·.1)
              old := if dmAtomic w then els else [] }

/-- The pool operation of a descriptor, unless a range lies beyond the scratch size that is now in force (R261). -/
def Mach.poolApply (m : Mach) (u : Nat) (it : DmaItem) : Mach :=
  match m.spaceLoc u (wordAt it.words 1), m.spaceLoc u (wordAt it.words 2) with
  | some src, some dst =>
    if m.dmInside u it.words then m.poolPerform u it src dst
    else m.setDmaItem u { it with performed := true, buffered := false, code := 0x07 }
  | _, _ => m.setDmaItem u { it with performed := true, buffered := false, code := 0x0B }

/-! ## Completion (R257, R258) -/

/-- A word of a dual-port bank (R143, R247). -/
def dualPort (u a : Nat) : Bool := if u < 180 then decide (0x380000 ≤ a) else decide (0xE00000 ≤ a)

/-- Record words whose bytes port A won (R250). -/
def Mach.collided (m : Mach) (u : Nat) (ws : List Nat) : Mach :=
  ws.foldl (fun m w =>
    let p := unitPage u
    let m1 := m.bump p Reg.CELL.WR_COLLIDE_CNT
    let m2 := if m1.live p Reg.CELL.COLLIDE_ADDR_VALID = 1 then m1
      else (m1.setLive p Reg.CELL.COLLIDE_ADDR_ADDR (8 * w)).setLive p Reg.CELL.COLLIDE_ADDR_VALID 1
    m2.raise p 26) m

/-- The words of a write to n bytes at a location that port A wrote in the same cycle: those of dual-port banks. -/
def collideWords (dst : Loc) (n : Nat) (collide : List Nat) : List Nat :=
  match dst with
  | .pond v o => collide.filter (fun w => dualPort v (8 * w) && decide (o < 8 * w + 8 ∧ 8 * w < o + n))
  | _ => []

/-- Record collisions of a write to a location. -/
def Mach.collidedAt (m : Mach) (dst : Loc) (ws : List Nat) : Mach :=
  match dst with
  | .pond v _ => m.collided v ws
  | _ => m

/-- The old values of an atomic are written at RET, and its descriptor completes (R255). -/
def Mach.retComplete (m : Mach) (u : Nat) (it : DmaItem) (ret : Loc) (collide : List Nat) : Mach :=
  let n := dmDBytes it.words
  if !m.dstFree (ret, n) then m.hazards true [(ret, n)]
  else
    let ws := collideWords ret n collide
    let bytes := elemBytes (m.locPeek ret n) (dmDBits it.words) it.old
    ((m.copyWrite ret bytes ws).collidedAt ret ws).dmaFinish u it (!ws.isEmpty)

/-- A COPY is performed and completes. -/
def Mach.copyComplete (m : Mach) (u : Nat) (it : DmaItem) (src dst : Loc) (collide : List Nat) : Mach :=
  if !m.dmReady u it.words then m.hazards true (m.dmDsts u it.words)
  else
    let ws := collideWords dst (dmDBytes it.words) collide
    let m2 := (m.copyPerform u it src dst ws).collidedAt dst ws
    match (m2.dmaQueue u).find? (fun i => decide (i.id = it.id)) with
    | some i => m2.dmaFinish u i (!ws.isEmpty)
    | none => m2

/-- R258. The descriptor at a position completes. `collide` are the pond words that port A wrote in the cycle in which the
descriptor writes them. One whose logical unit has gone absent since it was accepted is refused with ABSENT. DESIGN CHOICE,
log 33. -/
def Mach.dmaComplete (m : Mach) (u pos : Nat) (collide : List Nat) : Mach :=
  match (m.dmaQueue u)[pos]? with
  | none => m
  | some it =>
    if !it.started || it.buffered || (dmPool it.words && !it.performed) then m
    else if it.code ≠ 0 then m.dmaFinish u it false
    else if dmAtomic it.words then
      match m.spaceLoc u (wordAt it.words 7) with
      | some ret => m.retComplete u it ret collide
      | none => m.dmaFinish u it false
    else if dmPool it.words then m.dmaFinish u it false
    else match m.spaceLoc u (wordAt it.words 1), m.spaceLoc u (wordAt it.words 2) with
      | some src, some dst => m.copyComplete u it src dst collide
      | _, _ => m.dmaFinish u { it with code := 0x0B } false

/-- R258. -/
def execDmaComplete (u : UnitId) (pos : Nat) (collide : List Nat) (s : State) : Host.Outcome State Fault Refusal :=
  s.run true (fun m => m.dmaComplete u.val pos collide)

/-! ## ORDERED operations (R262, R263) -/

def orderDefault (_ : Nat) : List OrdEnt := []

def Mach.orderBuf (m : Mach) (s : Nat) : List OrdEnt := SMap.get m.chan.order orderDefault s

def Mach.setOrderBuf (m : Mach) (s : Nat) (l : List OrdEnt) : Mach :=
  ({ m with chan := { m.chan with order := SMap.set m.chan.order orderDefault s l } }).setLive (poolPage s)
    Reg.POOL.ORD_BUF_USED l.length

def Mach.ordNext (m : Mach) (s g : Nat) : Nat := m.live (poolPage s) Reg.POOL.ORD_NEXT g

def Mach.setOrdNext (m : Mach) (s g v : Nat) : Mach := m.setLive (poolPage s) Reg.POOL.ORD_NEXT v g

/-- Apply the buffered descriptors whose tickets have come, in turn (R263); one whose locations do not answer is held, and those behind
it with it (R281, R283). -/
def Mach.drainOrder (m : Mach) (s g : Nat) : Nat → Mach
  | 0 => m
  | k + 1 =>
    match (m.orderBuf s).find? (fun e => decide (e.group = g ∧ e.ticket = m.ordNext s g)) with
    | none => m
    | some e =>
      let it? := (m.dmaQueue e.unit).find? (fun i => decide (i.id = e.id))
      if it?.any (fun it => !m.dmReady e.unit it.words) then m
      else
        let m1 := m.setOrderBuf s ((m.orderBuf s).erase e)
        let m2 := match it? with
          | some it => (m1.spend (poolPage s) Reg.POOL.ORD_HELD_CYC (2 ^ 64 - 1)).poolApply e.unit it
          | none => m1
        (m2.setOrdNext s g ((m2.ordNext s g + 1) % 2 ^ 32)).drainOrder s g k

/-- An ORDERED descriptor arrives at its slice (R263): at that of its first target element. DESIGN CHOICE, log 33. -/
def Mach.orderArrive (m : Mach) (u : Nat) (it : DmaItem) (s : Nat) : Mach :=
  let g := dmGroup it.words
  let d := (dmTicket it.words + 2 ^ 32 - m.ordNext s g) % 2 ^ 32
  if d = 0 then
    let m1 := m.poolApply u it
    (m1.setOrdNext s g ((m1.ordNext s g + 1) % 2 ^ 32)).drainOrder s g 65
  else if d < 2 ^ 31 then
    if (m.orderBuf s).length < 64 then
      (m.setOrderBuf s (m.orderBuf s ++ [⟨u, it.id, g, dmTicket it.words⟩])).setDmaItem u { it with buffered := true }
    else m
  else (m.raise (poolPage s) 16).setDmaItem u { it with performed := true, code := 0x09 }

/-- The pool part of the descriptor at a position arrives at its home slice or scratch (R259). One that waits in the order buffer is
applied when its ticket has come and what held it has ended (R263, R281, R283). -/
def Mach.poolArrive (m : Mach) (u pos : Nat) : Mach :=
  match (m.dmaQueue u)[pos]? with
  | none => m
  | some it =>
    if !it.started || it.performed || !dmPool it.words || !m.dmReady u it.words then m
    else if it.buffered then
      (match m.spaceLoc u (wordAt it.words 2) with
       | some dst => m.drainOrder (locSlice dst) (dmGroup it.words) 64
       | none => m)
    else match m.spaceLoc u (wordAt it.words 2) with
      | some dst => if dmOrd it.words then m.orderArrive u it (locSlice dst) else m.poolApply u it
      | none => m.poolApply u it

/-- R259. An access arrives at its home slice. -/
def Mach.poolAccess (m : Mach) (req : PoolReq) : Mach :=
  match req with
  | .dma u pos => m.poolArrive u.val pos
  | .read a n => m.memAccess (.read none a.toNat n)
  | .write a d bad => m.memAccess (.write a.toNat d bad)

/-- R259. -/
def execPoolAccess (req : PoolReq) (s : State) : Host.Outcome State Fault Refusal := s.run true (fun m => m.poolAccess req)

/-- A buffered descriptor is refused with code 0x0A and completes. -/
def Mach.orderReset (m : Mach) (e : OrdEnt) : Mach :=
  match (m.dmaQueue e.unit).find? (fun i => decide (i.id = e.id)) with
  | some it => m.dmaFinish e.unit { it with code := 0x0A } false
  | none => m

/-- R263. A write of ORD[g].NEXT refuses every buffered descriptor of the group and sets the counter. -/
def Mach.ordWrite (m : Mach) (s g : Nat) (w : RegWrite) : Mach :=
  let es := (m.orderBuf s).filter (fun e => decide (e.group = g))
  let m1 := m.setOrderBuf s ((m.orderBuf s).filter (fun e => decide (e.group ≠ g)))
  (es.foldl (fun m e => m.orderReset e) m1).setOrdNext s g
    (fld (w.merge (m.reg (poolPage s) (Reg.POOL.ORD_NEXT.off + 8 * g))) 31 0)

/-- R263. -/
def execOrdNextWrite (sl : SliceId) (g : BitVec 6) (w : RegWrite) (s : State) : Host.Outcome State Fault Refusal :=
  s.run true (fun m => m.ownedLive (poolPage sl.val) (0xA00 + 8 * g.toNat) w (fun m => m.ordWrite sl.val g.toNat w))

/-! ## Scratch size (R261) -/

/-- An ORDERED descriptor ahead of its turn waits in its engine, since the order buffer is full (R263). -/
def Mach.ordWaits (m : Mach) (s : Nat) (it : DmaItem) : Bool :=
  let d := (dmTicket it.words + 2 ^ 32 - m.ordNext s (dmGroup it.words)) % 2 ^ 32
  dmOrd it.words && !it.performed && decide (d ≠ 0 ∧ d < 2 ^ 31 ∧ 64 ≤ (m.orderBuf s).length)

/-- Operations that the slice has accepted and that have not completed (R261): descriptors of the DMA engines, and the list that its
update engine had begun before the commit fell due. -/
def Mach.sliceBusy (m : Mach) (s : Nat) : Bool :=
  (upTo 204).any (fun u => (m.dmaQueue u).any (fun i =>
    i.started && !i.buffered && !m.ordWaits s i && (m.dmLocs u i.words).any (fun l => decide (s ∈ locSlices l.1 l.2)))) ||
    (decide (m.live (updPage s) Reg.UPD.STATE = 2) && (match SMap.find? m.train.upd s with | some r => !r.late | none => true))

/-- Bytes of a key range read zero and are clean. -/
def Mach.clearKeys (m : Mach) (lo hi : Nat) : Mach :=
  { m with mem := SMap.keep (fun k => decide (k < lo ∨ hi ≤ k)) m.mem
           poison := SMap.keep (fun k => decide (8 * k < lo ∨ hi ≤ 8 * k)) m.poison }

/-- R261. The new scratch size applies: dirty lines of the area are written back, a new area reads zero, contents beyond a
smaller size are discarded, and held operations go on. -/
def Mach.scratchApply (m : Mach) (s : Nat) : Mach :=
  let p := poolPage s
  if m.sliceDue s ∧ (m.hdr p).pending ∧ !m.sliceBusy s then
    let old := m.scratchBytes s
    let m1 := (m.copyStaged p).commitTaken p
    let new := m1.scratchBytes s
    let m2 := (m1.flushSlice s ((new - old) / 256)).clearKeys (scratchKey s (min old new)) (scratchKey s (max old new))
    ({ m2 with chan := { m2.chan with scratchDue := SMap.set m2.chan.scratchDue (fun _ => false) s false } } : Mach).settleHeld
  else m

/-- Accesses under the table in force that were accepted before the region commit fell due and meet an entry that it changes (R275):
held ones, and descriptors of the DMA engines that have started, but for those that wait in an order buffer or for room in it. -/
def Mach.remapBusy (m : Mach) : Bool :=
  (m.chan.held.take m.chan.early).any (fun r => m.remapMeets r.range.1 r.range.2) ||
    (upTo 204).any (fun u => (m.dmaQueue u).any (fun i =>
      i.started && !i.buffered && (m.dmLocs u i.words).any (fun l =>
        (match l.1 with | .mem a => m.remapMeets a l.2 | _ => false) && (locSlices l.1 l.2).all (fun s => !m.ordWaits s i))))

/-- R275. The held region commit takes effect: what was accepted before it has completed under the old table, dirty lines are written
back, the new table applies, and the held accesses proceed after at most 100 µs. -/
def Mach.remapApply (m : Mach) : Mach :=
  if m.chan.remap ∧ (m.hdr regionPage).pending ∧ !m.remapBusy then
    let m0 := ((upTo 20).foldl (fun m s => m.flushSlice s sliceLines) m).spend regionPage Reg.REGION.REMAP_HOLD_CYC 250000
    let m1 := (m0.copyStaged regionPage).commitTaken regionPage
    ({ m1 with chan := { m1.chan with remap := false, early := 0 } } : Mach).settleHeld
  else m

/-- R275. -/
def execRegionRemapApply (s : State) : Host.Outcome State Fault Refusal := s.run true (fun m => m.remapApply)

/-- R261. -/
def execPoolScratchApply (sl : SliceId) (s : State) : Host.Outcome State Fault Refusal :=
  s.run true (fun m => m.scratchApply sl.val)

end Sys2Proof.Machine
end

