-- ==== Sys2Proof/Machine/CollBase.lean ====
section
/-! DEFINITION. Collective engines: descriptors and their checks (R363 to R365, R379), the CO group (R359), completion
(R366), group records (R360, R361) and views (R383). What a descriptor does stands in Machine/CollMove.lean and
Machine/Coll.lean. -/

namespace Sys2Proof.Machine

/-! ## Descriptor fields (R363) -/

def coOp (w : List Nat) : Nat := wfld w 0 3 0
def coGroup (w : List Nat) : Nat := wfld w 0 9 4
def coIFmt (w : List Nat) : Nat := wfld w 0 13 10
def coOFmt (w : List Nat) : Nat := wfld w 0 17 14
def coRnd (w : List Nat) : Bool := wbit w 0 18
def coLsr (w : List Nat) : Bool := wbit w 0 19
def coCMode (w : List Nat) : Nat := wfld w 0 21 20
def coGate (w : List Nat) : Bool := wbit w 0 22
def coTc0 (w : List Nat) : Bool := wbit w 0 23
def coViewSrc (w : List Nat) : Bool := wbit w 0 24
def coView (w : List Nat) : Nat := wfld w 0 28 25
def coTag (w : List Nat) : Nat := wfld w 0 47 32
def coEpoch (w : List Nat) : Nat := wfld w 1 31 0
def coKm1 (w : List Nat) : Nat := wfld w 1 41 32
def coN (w : List Nat) : Nat := wfld w 2 39 0
def coISlot (w : List Nat) : Nat := wfld w 7 15 0
def coOSlot (w : List Nat) : Nat := wfld w 7 31 16
def coTensor (w : List Nat) : Nat := wfld w 7 51 32
def coStep (w : List Nat) : Nat := wfld w 8 39 0
def coBar (w : List Nat) : Nat := wfld w 9 11 0
def coPart (w : List Nat) : Nat := wfld w 9 17 12
def coCount (w : List Nat) : Nat := wfld w 10 15 0
def coDist (w : List Nat) : Nat := wfld w 10 19 16
def coRootX (w : List Nat) : Nat := wfld w 11 7 0
def coRootY (w : List Nat) : Nat := wfld w 11 15 8
def coSkip (w : List Nat) : Nat := wfld w 11 23 16
def coSpan (w : List Nat) : Nat := wfld w 11 31 24
def coWhole (w : List Nat) : Bool := wbit w 11 32
def coDRank (w : List Nat) : Nat := wfld w 11 49 33

/-- A reduction. -/
def coRed (w : List Nat) : Bool := decide (coOp w = 1 ∨ coOp w = 2)

/-- The operations that carry a list (R374, R381). -/
def coListed (w : List Nat) : Bool := decide (coOp w = 3 ∨ coOp w = 6)

/-- Word i of record k of the list. -/
def coRec (w : List Nat) (k i : Nat) : Nat := wordAt w (16 + 4 * k + i)

/-- Elements and format of a layer (R374) or of a buffer (R381). -/
def layN (w : List Nat) (k : Nat) : Nat := natBits (coRec w k (if coOp w = 3 then 1 else 2)) 39 0
def layFmt (w : List Nat) (k : Nat) : Nat := natBits (coRec w k (if coOp w = 3 then 1 else 2)) 43 40

/-- Bytes that n elements of a format take. -/
def coBytes (fmt n : Nat) : Nat := ceilDiv (n * fmtWidth fmt) 8

/-! ## Groups and shards (R360, R362) -/

def groupDefault (_ : Nat) : GroupSt := GroupSt.reset
def Mach.groupOf (m : Mach) (f g : Nat) : GroupSt := SMap.get (m.collOf f).groups groupDefault g
def Mach.setGroup (m : Mach) (f g : Nat) (x : GroupSt) : Mach :=
  let c := m.collOf f
  m.setColl f { c with groups := SMap.set c.groups groupDefault g x }

/-- The engine as a rank. -/
def Mach.me (m : Mach) (f : Nat) : Rank := ⟨m.myX, m.myY, f⟩

/-- Index of a rank in a record. -/
def rankOf (rs : List Rank) (r : Rank) : Option Nat := rs.findIdx? (fun x => decide (x = r))

/-- Shard size, and the elements that rank r holds: from the first to before the second. -/
def shardSize (n p : Nat) : Nat := 4096 * ceilDiv n (4096 * p)
def shardOf (n p r : Nat) : Nat × Nat := (min (r * shardSize n p) n, min ((r + 1) * shardSize n p) n)
def shardLen (n p r : Nat) : Nat := (shardOf n p r).2 - (shardOf n p r).1

/-! ## Locations (R252, R383) -/

/-- The location that an address of a descriptor names; a ring has no issuing unit, so no SPACE 0. -/
def Mach.coLoc (m : Mach) (u : Option Nat) (a : Nat) : Option Loc :=
  if spaceReserved a || m.spaceBeyond a then none
  else match u with
    | some v => m.spaceLoc v a
    | none => if natBits a 63 60 = 0 then none else m.spaceLoc 0 a

/-- An address is in its space with its bytes, and aligned to its elements. -/
def Mach.coRange (m : Mach) (u : Option Nat) (a bytes bits : Nat) : Bool :=
  match m.coLoc u a with
  | some l => (match l with | .mem b => decide (b + bytes ≤ 2 ^ 48) | _ => m.locInside l bytes) && dmAligned l.addr bits
  | none => false

/-- BUF0 and BUF1 of a view, which a descriptor keeps from its acceptance (R31). -/
def Mach.viewBufs (m : Mach) (f v : Nat) : Nat × Nat :=
  (m.act (collPage f) Reg.COLL.VIEW_BUF0 v, m.act (collPage f) Reg.COLL.VIEW_BUF1 v)

/-- A source of a descriptor: an address, or an offset from the buffer that its view named when it started. -/
def Mach.coSrcLoc (m : Mach) (view : Nat) (u : Option Nat) (w : List Nat) (a : Nat) : Option Loc :=
  if coViewSrc w then some (.mem ((view + a) % 2 ^ 48)) else m.coLoc u a

/-- DST of a PUT, as far as the sender can judge it: which units and how much pool scratch the target has is for the target to
say (R376). -/
def coRemote (a bits : Nat) : Bool := !spaceReserved a && decide (natBits a 63 60 ≠ 0) && dmAligned (natBits a 47 0) bits

/-- BUF[CUR] of a view, from its buffers. -/
def Mach.viewBase (m : Mach) (f v : Nat) (bufs : Nat × Nat) : Nat :=
  if m.live (collPage f) Reg.COLL.VIEW_CUR v = 0 then bufs.1 else bufs.2

/-- A source lies in its space and is aligned to its elements; one under VIEWSRC from the buffer at `view` on. -/
def Mach.coSrcRange (m : Mach) (view : Nat) (u : Option Nat) (w : List Nat) (a bytes bits : Nat) : Bool :=
  if coViewSrc w then decide (view + a + bytes ≤ 2 ^ 48) && dmAligned (view + a) bits else m.coRange u a bytes bits

/-- The issuing unit of an accepted descriptor. -/
def CollItem.from (it : CollItem) : Option Nat := match it.ring with | some _ => none | none => some it.unit

/-! ## Checks at queue entry (R365) -/

/-- LIMIT. -/
def Mach.coLimit (m : Mach) (f : Nat) (w : List Nat) : Bool :=
  let op := coOp w
  let dim := if op = 4 then m.dimX else m.dimY
  decide (coN w = 0 ∨ (coCMode w = 1 ∧ coKm1 w < 15) ∨ (coListed w ∧ coCount w = 0) ∨
    ((op = 4 ∨ op = 5) ∧ !coWhole w ∧ (coSpan w = 0 ∨ dim - 1 < coSkip w + coSpan w)) ∨ (coGate w ∧ !coRed w)) ||
    (decide (op = 9) && (match (m.groupOf f (coGroup w)).rec? with | some r => decide (r.length ≤ coDRank w) | none => false))

/-- A field of the descriptor or of its list names a reserved format (R42). -/
def coFmtReserved (w : List Nat) : Bool :=
  fmtReserved (coIFmt w) || fmtReserved (coOFmt w) || (coListed w && (upTo (coCount w)).any (fun k => fmtReserved (layFmt w k)))

/-- A scale that a reduction uses is refused by R63. -/
def Mach.coScaleBad (m : Mach) (w : List Nat) : Bool :=
  coRed w && (!scaleOk (m.slot (coOSlot w)).scale || (decide (coIFmt w ≠ 1) && !scaleOk (m.slot (coISlot w)).scale))

/-- FORMAT. -/
def Mach.coFormat (m : Mach) (w : List Nat) : Bool :=
  let i := coIFmt w
  coFmtReserved w || m.coScaleBad w ||
    (coRed w && (decide (i = 0 ∨ 7 < i ∨ coOFmt w = 0 ∨ 7 < coOFmt w) ||
      (decide (i ≠ 1) && !isPow2F32 (m.slot (coISlot w)).scale))) ||
    decide (coCMode w ≠ 0 ∧ i ≠ 1)

/-- The list of a GATHER_AHEAD or PERMUTE lies in its space. -/
def Mach.coListOk (m : Mach) (u : Option Nat) (w : List Nat) : Bool :=
  !coListed w || m.coRange u (wordAt w 5) (32 * coCount w) 64

/-- A PERMUTE of a group is queued or runs (R379). -/
def CollSt.permutes (x : CollSt) (g : Nat) : Bool :=
  (x.queue ++ x.running.map (fun r => r.item)).any (fun i => decide (coOp i.words = 6 ∧ coGroup i.words = g))

/-- LEPOCH names the epoch after the PERMUTE that is queued or runs: the descriptor waits behind it (R379). -/
def Mach.coNext (m : Mach) (f : Nat) (w : List Nat) : Bool :=
  (m.collOf f).permutes (coGroup w) && decide (coOp w ≠ 6 ∧ coEpoch w = ((m.groupOf f (coGroup w)).epoch + 1) % 2 ^ 32)

/-- The number of ranks and this rank's index in the record that will be in force when a descriptor runs. -/
def Mach.coMine (m : Mach) (f : Nat) (w : List Nat) : Option (Nat × Nat) :=
  match (if m.coNext f w then (m.groupOf f (coGroup w)).pend else (m.groupOf f (coGroup w)).rec?) with
  | some r => (rankOf r (m.me f)).map (fun k => (r.length, k))
  | none => none

/-- The addresses of a descriptor other than REC are in range (R365, R374, R381); a source under VIEWSRC in the buffer that CUR names
now. -/
def Mach.coRanges (m : Mach) (f : Nat) (u : Option Nat) (w : List Nat) : Bool :=
  let view := m.viewBase f (coView w) (m.viewBufs f (coView w))
  let op := coOp w
  let n := coN w
  let ib := fmtWidth (coIFmt w)
  let ob := fmtWidth (coOFmt w)
  let mine := m.coMine f w
  let root := decide (coRootX w = m.myX ∧ coRootY w = m.myY)
  if coRed w then
    let len := if op = 2 then n else match mine with | some (p, r) => shardLen n p r | none => 0
    m.coSrcRange view u w (wordAt w 3) (coBytes (coIFmt w) n) ib && m.coRange u (wordAt w 4) (coBytes (coOFmt w) len) ob &&
      (decide (coCMode w = 0) || (m.coRange u (wordAt w 5) (2 * n) 16 && m.coRange u (wordAt w 6) (2 * n) 16))
  else if op = 3 then
    (upTo (coCount w)).all (fun k =>
      let b := fmtWidth (layFmt w k)
      let len := match mine with | some (p, r) => shardLen (layN w k) p r | none => 0
      m.coSrcRange view u w (coRec w k 0) (coBytes (layFmt w k) len) b &&
        m.coRange u ((wordAt w 4 + k % (coDist w + 1) * wordAt w 6) % 2 ^ 64) (coBytes (layFmt w k) (layN w k)) b)
  else if op = 4 ∨ op = 5 then
    if root then m.coSrcRange view u w (wordAt w 3) (coBytes (coIFmt w) n) ib else m.coRange u (wordAt w 4) (coBytes (coIFmt w) n) ib
  else if op = 6 then
    let pend := (m.groupOf f (coGroup w)).pend
    let olds := (upTo (coCount w)).map (fun k => match mine with | some (p, r) => coBytes (layFmt w k) (shardLen (layN w k) p r) | none => 0)
    let sp := natBits (wordAt w 6) 63 60
    decide (sp = 3 ∨ sp = 4) && m.coRange u (wordAt w 6) olds.sum 8 &&
      (upTo (coCount w)).all (fun k =>
        let b := fmtWidth (layFmt w k)
        let new := match pend with
          | some rs => (match rankOf rs (m.me f) with | some r => shardLen (layN w k) rs.length r | none => 0)
          | none => 0
        m.coRange u (coRec w k 0) (olds.getD k 0) b && m.coRange u (coRec w k 1) (coBytes (layFmt w k) new) b)
  else if op = 9 then
    m.coSrcRange view u w (wordAt w 3) (coBytes (coIFmt w) n) ib && coRemote (wordAt w 4) ib
  else true

/-- LEPOCH keeps R379. -/
def Mach.coEpochOk (m : Mach) (f : Nat) (w : List Nat) : Bool :=
  let e := (m.groupOf f (coGroup w)).epoch
  if coOp w = 0 ∨ 6 < coOp w then true
  else if (m.collOf f).permutes (coGroup w) then m.coNext f w
  else decide (coEpoch w = e)

/-- Reserved bits and codes, of the list too. -/
def coReserved (w : List Nat) : Bool :=
  decide (wfld w 0 31 29 ≠ 0 ∨ wfld w 0 63 48 ≠ 0 ∨ wfld w 1 63 42 ≠ 0 ∨ wfld w 2 63 40 ≠ 0 ∨ wfld w 7 63 52 ≠ 0 ∨
    wfld w 8 63 40 ≠ 0 ∨ wfld w 9 63 18 ≠ 0 ∨ wfld w 10 63 20 ≠ 0 ∨ wfld w 11 63 50 ≠ 0 ∨ wordAt w 13 ≠ 0 ∨
    wordAt w 14 ≠ 0 ∨ wordAt w 15 ≠ 0 ∨ coOp w = 0 ∨ 9 < coOp w ∨ coCMode w = 3) ||
    (coListed w && (upTo (coCount w)).any (fun k =>
      if coOp w = 3 then decide (natBits (coRec w k 1) 63 44 ≠ 0 ∨ coRec w k 2 ≠ 0 ∨ coRec w k 3 ≠ 0)
      else decide (natBits (coRec w k 2) 63 44 ≠ 0 ∨ coRec w k 3 ≠ 0)))

/-- The first failing code of R365; 0 when none. -/
def Mach.coCode (m : Mach) (f : Nat) (u : Option Nat) (w : List Nat) : Nat :=
  let g := m.groupOf f (coGroup w)
  if m.coLimit f w then 0x01
  else if m.coFormat w then 0x02
  else if !m.coListOk u w || !m.coRange u (wordAt w 12) 32 64 || !m.coRanges f u w then 0x03
  else if g.rec?.isNone ∨ (coOp w = 6 ∧ g.pend.isNone) then 0x04
  else if !m.coEpochOk f w then 0x05
  else if coReserved w then 0x06
  else if (coViewSrc w ∨ coOp w = 8) ∧ m.act (collPage f) Reg.COLL.VIEW_VALID (coView w) = 0 then 0x07
  else 0

/-! ## Entry and completion (R359, R365, R366) -/

/-- A location cannot be written now: it does not answer, or the arrays guard it as an output (R85). -/
def Mach.locBarred (m : Mach) (l : Loc) (n : Nat) : Bool :=
  m.locHeld l n || (match l with | .pond v o => m.outGuarded v o n | _ => false)

/-- Write the completion record. -/
def Mach.coRecord (m : Mach) (u : Option Nat) (w : List Nat) (code last : Nat) : Mach :=
  if m.coRange u (wordAt w 12) 32 64 then
    match m.coLoc u (wordAt w 12) with
    | some l => m.locWrite l ((toBytes 8 (code + coTag w * 2 ^ 32) ++ toBytes 8 m.now ++ toBytes 8 last ++ toBytes 8 0).map
        (fun b => (b, false)))
    | none => m
  else m

/-- The completion record cannot be written now (R85, R261, R275). -/
def Mach.recHeld (m : Mach) (u : Option Nat) (w : List Nat) : Bool :=
  m.coRange u (wordAt w 12) 32 64 && (match m.coLoc u (wordAt w 12) with | some l => m.locBarred l 32 | none => false)

/-- The issuer of a descriptor learns how it ended: a context its TAG, flags and code, a ring its entry. -/
def Mach.coRetire (m : Mach) (it : CollItem) (queued refused poisoned : Bool) (code : Nat) : Mach :=
  match it.ring with
  | some (r, i) => m.ringFinish r i 0 (coTag it.words + 2 ^ 16 * b2n refused + 2 ^ 17 * b2n poisoned + 2 ^ 24 * code)
  | none =>
    let x := m.ctx it.unit it.ctx
    let y : Issued := { out := if queued then x.co.out - 1 else x.co.out, tag := coTag it.words, refused := x.co.refused || refused,
                        poisoned := x.co.poisoned || poisoned, code := code }
    let m1 := m.setCtx it.unit it.ctx { x with co := y }
    if y.out = 0 ∧ x.state = .waiting ∧ x.wait = .coWait then m1.wake it.unit it.ctx else m1

/-- Where the list of a descriptor stands, if it has one in range. -/
def Mach.coListLoc (m : Mach) (u : Option Nat) (w : List Nat) : Option Loc :=
  if coListed w && m.coListOk u w then m.coLoc u (wordAt w 5) else none

/-- The entry of a descriptor is held: its list cannot be read, or its completion record cannot be written, now. -/
def Mach.collEntryHeld (m : Mach) (u : Option Nat) (w : List Nat) : Bool :=
  (match m.coListLoc u w with | some l => m.locHeld l (32 * coCount w) | none => false) || m.recHeld u w

/-- A descriptor is checked and enters the queue, or is refused. A list that cannot be read is refused with an open code. -/
def Mach.collEnter (m0 : Mach) (f unit c : Nat) (ring : Option (Nat × Nat)) (w0 : List Nat) : Mach :=
  let u : Option Nat := match ring with | some _ => none | none => some unit
  let rd : List (Byte × Bool) × Mach := match m0.coListLoc u w0 with
    | some l => m0.locRead l (32 * coCount w0)
    | none => ([], m0)
  let list := rd.1
  let m := rd.2
  let w := w0 ++ wordsOf (4 * coCount w0) (list.map (·.1))
  let x := m.collOf f
  let it : CollItem := { id := x.nextId, unit := unit, ctx := c, ring := ring, words := w, seed := m.seed, bufs := m.viewBufs f (coView w) }
  let code0 := m.coCode f u w
  let code := if code0 = 0 ∧ list.any (·.2) then 1 + m.freeWord.toNat % 7 else code0
  if code ≠ 0 then
    let p := collPage f
    let m0 := if ring.isSome then m
      else if coFmtReserved w then m.raise (unitPage unit) 20
      else if m.coScaleBad w then m.raise (unitPage unit) 21
      else m
    let m1 := ((m0.bump p Reg.COLL.DESC_REFUSED).setLive p Reg.COLL.LAST_REFUSE_CODE code).setLive p Reg.COLL.LAST_REFUSE_TAG (coTag w)
    ((m1.raise p 16).coRecord u w code 0).stir.coRetire it false true false code
  else
    let m1 := m.setColl f { x with queue := x.queue ++ [it], nextId := x.nextId + 1 }
    match ring with
    | some _ => m1
    | none =>
      let y := m1.ctx unit c
      m1.setCtx unit c { y with co := { y.co with out := y.co.out + 1 } }

/-- CO.RUN: a full queue is waited for; while the entry is held, the instruction is. -/
def Mach.coRun (m : Mach) (u c : Nat) (ga : RegNo) (imm : BitVec 13) : Mach :=
  m.withDesc u c (descAddr (m.g u c ga) imm) 128 64 (fun w =>
    if 32 ≤ (m.collOf (fieldOf u)).queue.length then m.sleep u c .coQueue
    else if m.collEntryHeld (some u) w then m
    else (m.collEnter (fieldOf u) u c none w).advance u c)

/-- R359. CO.RUN. -/
def execCoRun (u : UnitId) (c : CtxId) (_gd ga : RegNo) (imm : BitVec 13) (s : State) : Host.Outcome State Fault Refusal :=
  s.issue u c (fun m => m.coRun u.val c.val ga imm)

/-- The result of CO.WAIT. -/
def coWord (x : Issued) : Word := w64 (x.tag + 2 ^ 16 * b2n x.refused + 2 ^ 17 * b2n x.poisoned + 2 ^ 24 * (x.code % 256))

/-- CO.WAIT. -/
def Mach.coWaitOp (m : Mach) (u c : Nat) (gd : RegNo) : Mach :=
  let x := (m.ctx u c).co
  if x.out ≠ 0 then m.sleep u c .coWait
  else (m.setCtx u c { m.ctx u c with co := { x with refused := false, poisoned := false } }).writeBack u c gd (coWord x)

/-- R359. CO.WAIT. -/
def execCoWait (u : UnitId) (c : CtxId) (gd _ga : RegNo) (_imm : BitVec 13) (s : State) : Host.Outcome State Fault Refusal :=
  s.issue u c (fun m => m.coWaitOp u.val c.val gd)

/-- R359. CO.POLL. -/
def execCoPoll (u : UnitId) (c : CtxId) (gd _ga : RegNo) (_imm : BitVec 13) (s : State) : Host.Outcome State Fault Refusal :=
  s.issue u c (fun m => m.writeBack u.val c.val gd (w64 (m.ctx u.val c.val).co.out))

/-! ## Group loads (R361) -/

/-- R361. A write of GLOAD.GO. -/
def Mach.gloadGo (m : Mach) (f : Nat) (v : Word) : Mach :=
  let p := collPage f
  if !bit v 0 || decide (m.live p Reg.COLL.GLOAD_STATUS_STATE = 1) then m
  else
    let m1 := ((m.setLive p Reg.COLL.GLOAD_STATUS_STATE 1).setLive p Reg.COLL.GLOAD_STATUS_ERR 0).setLive p Reg.COLL.GLOAD_STATUS_GROUP
      (fld v 13 8)
    m1.setColl f { m1.collOf f with load := some (fld v 13 8, m.live p Reg.COLL.GLOAD_ADDR) }

def execGloadGo (f : FieldId) (w : RegWrite) (s : State) : Host.Outcome State Fault Refusal :=
  s.run true (fun m => m.ownedLive (collPage f.val) 0x908 w (fun m => m.gloadGo f.val w.bits))

/-- An entry of a group record. -/
def rankEntry (v : Nat) : Rank := ⟨natBits v 7 0, natBits v 15 8, natBits v 17 16⟩

/-- Words of n bytes each of a list of bytes. -/
def unitsOf (n : Nat) : Nat → Bytes → List Nat
  | 0, _ => []
  | k + 1, d => ofBytes (d.take n) :: unitsOf n k (d.drop n)

/-- P of a group record, from its first 64 bytes. -/
def groupP (hd : List (Byte × Bool)) : Nat := wfld (wordsOf 8 (hd.map (·.1))) 0 16 0

/-- The bytes of a group record: its header, then 4 · P bytes where P is legal. -/
def groupBytes (hd : List (Byte × Bool)) : Nat := if 98304 < groupP hd then 64 else 64 + 4 * groupP hd

/-- The record at an address: its ranks, or the error of R361, from the bytes that were read. A pending record may leave this engine
out: an old rank that leaves the group holds the record that its PERMUTE brings into force (R380, R382). -/
def Mach.readGroup (m : Mach) (f g a : Nat) (d : List (Byte × Bool)) : Except Nat (List Rank) :=
  let hd := d.take 64
  let hw := wordsOf 8 (hd.map (·.1))
  let p := groupP hd
  let mine := m.me f
  if a % 64 ≠ 0 ∨ hd.any (·.2) then .error 1
  else if p = 0 ∨ 98304 < p then .error 2
  else
    let body := d.drop 64
    let es := unitsOf 4 p (body.map (·.1))
    let rs := es.map rankEntry
    if body.any (·.2) then .error 1
    else if rs.any (fun r => decide (m.dimX ≤ r.x ∨ m.dimY ≤ r.y)) then .error 2
    else if 1 < (rs.filter (fun r => decide (r = mine))).length ∨ (mine ∉ rs ∧ (m.groupOf f g).rec?.isNone) then .error 3
    else if rs.eraseDups.length ≠ rs.length then .error 4
    else if (m.groupOf f g).pend.isSome then .error 5
    else if natBits (wordAt hw 0) 63 17 ≠ 0 ∨ (hw.drop 1).any (fun v => decide (v ≠ 0)) ∨ es.any (fun v => decide (natBits v 31 18 ≠ 0)) then
      .error 6
    else .ok rs

/-- R361. The load ends: the record comes into force with layout epoch 1, or becomes the pending one. All of it is read through the
home slices (R259). -/
def Mach.gloadDone (m : Mach) (f : Nat) : Mach :=
  let p := collPage f
  match (m.collOf f).load with
  | none => m
  | some (g, a) =>
    let n := groupBytes (m.memPeek a 64)
    if m.memHeld a n then m
    else
      let rd := (m.setColl f { m.collOf f with load := none }).locRead (.mem a) n
      let m1 := rd.2
      match m.readGroup f g a rd.1 with
      | .error e => ((m1.setLive p Reg.COLL.GLOAD_STATUS_STATE 3).setLive p Reg.COLL.GLOAD_STATUS_ERR e).raise p 19
      | .ok rs =>
        let x := m1.groupOf f g
        let y : GroupSt := match x.rec? with
          | none => { rec? := some rs, pend := none, epoch := 1, seq := 0 }
          | some _ => { x with pend := some rs }
        (m1.setLive p Reg.COLL.GLOAD_STATUS_STATE 2).setGroup f g y

def execGloadDone (f : FieldId) (s : State) : Host.Outcome State Fault Refusal := s.run true (fun m => m.gloadDone f.val)

end Sys2Proof.Machine
end

