-- ==== Sys2Proof/Machine/CollMove.lean ====
section
/-! DEFINITION. Collective engines: packets with their chunk headers (R368), the rank tree (R369, R370), compression
(R238 to R244), and what a received packet does (R367). -/

namespace Sys2Proof.Machine

/-! ## Chunks (R368) -/

/-- An element that moves: its code and whether it is poisoned. -/
abbrev Elem := Nat × Bool

/-- A chunk: tree level and node, first element, number of elements, and the bytes behind the header. -/
structure Chunk where
  l : Nat
  j : Nat
  first : Nat
  count : Nat
  data : List (Byte × Bool)
deriving DecidableEq, Repr

/-- The chunk header of a descriptor (R368). -/
def chunkHeader (w : List Nat) (c : Chunk) : Bytes :=
  let w0 := coOp w + coIFmt w * 2 ^ 4 + coCMode w * 2 ^ 8 + coKm1 w * 2 ^ 10 + b2n (coGate w) * 2 ^ 20 + c.j * 2 ^ 32 + c.l * 2 ^ 53
  toBytes 8 w0 ++ toBytes 8 (coN w) ++ toBytes 8 c.first ++ toBytes 8 c.count ++ toBytes 8 (coEpoch w) ++ toBytes 24 0

/-- One mark for each 8 bytes. -/
def wordMarks : Nat → List (Byte × Bool) → List Bool
  | 0, _ => []
  | n + 1, d => (d.take 8).any (·.2) :: wordMarks n (d.drop 8)

/-- Bytes that a packet has for elements: those of the largest payload but for the header and the last word (log 61). -/
def chunkRoom : Nat := 8120

/-- Elements of w bits that a packet takes: a multiple of 8. -/
def chunkElems (w : Nat) : Nat := chunkRoom * 8 / (8 * w) * 8

/-- Pack elements of w bits. -/
def packElems (w : Nat) (es : List Elem) : List (Byte × Bool) := elemBytes [] w es

/-- Cut elements from index `first` into chunks. -/
def chunksOf (l j w : Nat) : Nat → Nat → List Elem → List Chunk
  | 0, _, _ => []
  | k + 1, first, es =>
    if es.isEmpty then []
    else
      let a := es.take (chunkElems w)
      ⟨l, j, first, a.length, packElems w a⟩ :: chunksOf l j w k (first + a.length) (es.drop (chunkElems w))

def chunkList (l j w first : Nat) (es : List Elem) : List Chunk := chunksOf l j w (es.length / 8 + 1) first es

/-- Offer a packet of a descriptor in its class. -/
def Mach.coOffer (m : Mach) (f : Nat) (it : CollItem) (pk : Packet) : Mach :=
  let m1 := m.bump (collPage f) Reg.COLL.BYTES_SENT pk.payload.length
  if coTc0 it.words then
    if m.coSlot f pk then m1.offer { pk with tc := 0 } (.coll f it.id)
    else (m1.bump (collPage f) Reg.COLL.TC0_NOSLOT).offer pk (.coll f it.id)
  else m1.offer pk (.coll f it.id)

/-- The packet of a chunk. The last word of a PUT carries its DST, for which the header has no place (log 61, DESIGN
CHOICE). -/
def chunkPacket (r : CollRun) (dst : Rank) (gate : Bool) (c : Chunk) : Packet :=
  let w := r.item.words
  let tail := if coOp w = 9 then toBytes 8 (wordAt w 4) else []
  let n := 64 * ceilDiv (64 + c.data.length + tail.length) 64
  let d := padTo (n - tail.length) (chunkHeader w c ++ c.data.map (·.1)) ++ tail
  plainPacket 1 1 dst.eng dst.x dst.y (coGroup w + b2n gate * 2 ^ 6 + r.opseq * 2 ^ 8) d
    (List.replicate 8 false ++ wordMarks (n / 8 - 8) c.data)

/-- Send a chunk to another rank. -/
def Mach.collSend (m : Mach) (f : Nat) (r : CollRun) (dst : Rank) (gate : Bool) (c : Chunk) : Mach :=
  m.coOffer f r.item (chunkPacket r dst gate c)

/-! ## Descriptors in progress -/

def Mach.runOf (m : Mach) (f id : Nat) : Option CollRun := (m.collOf f).running.find? (fun r => decide (r.item.id = id))

/-- Elements and format of what a chunk of level 31 belongs to, and where its element 0 would lie here: an address and whether
it is written at all. -/
structure Target where
  n : Nat
  fmt : Nat
  loc : Loc
  /-- index of the element that stands at `loc` -/
  base : Nat
  /-- elements that are written here -/
  len : Nat
deriving DecidableEq, Repr

/-- Bytes that a target takes. -/
def Target.bytes (t : Target) : Nat := coBytes t.fmt t.len

/-- Where a running descriptor writes elements of item k (a layer or a buffer; 0 otherwise). -/
def Mach.collTarget (m : Mach) (f : Nat) (r : CollRun) (k : Nat) : Option Target :=
  let w := r.item.words
  let at' := fun (a n fmt : Nat) (s : Nat × Nat) => (m.coLoc r.item.from a).map (fun l => (⟨n, fmt, l, s.1, s.2 - s.1⟩ : Target))
  if coOp w = 1 then
    match rankOf r.ranks (m.me f) with
    | some me => at' (wordAt w 4) (coN w) (coOFmt w) (shardOf (coN w) r.ranks.length me)
    | none => none
  else if coOp w = 2 then at' (wordAt w 4) (coN w) (coOFmt w) (0, coN w)
  else if coOp w = 3 then
    if k < coCount w then at' ((wordAt w 4 + k % (coDist w + 1) * wordAt w 6) % 2 ^ 64) (layN w k) (layFmt w k) (0, layN w k) else none
  else if coOp w = 4 ∨ coOp w = 5 then
    (if coRootX w = m.myX ∧ coRootY w = m.myY then none else at' (wordAt w 4) (coN w) (coIFmt w) (0, coN w))
  else if coOp w = 6 ∧ k < coCount w then
    match rankOf r.nextRanks (m.me f) with
    | some me => at' (coRec w k 1) (layN w k) (layFmt w k) (shardOf (layN w k) r.nextRanks.length me)
    | none => none
  else none

/-- Write elements from index i on at a target, packed. -/
def Mach.putTarget (m : Mach) (t : Target) (i : Nat) (es : List Elem) : Mach :=
  let w := fmtWidth t.fmt
  let l := t.loc.plus ((i - t.base) * w / 8)
  m.locWrite l (elemBytes (m.locPeek l (ceilDiv (es.length * w) 8)) w es)

/-- Record elements i to e − 1 of item k as written. -/
def CollRun.cover (r : CollRun) (k i e : Nat) : CollRun :=
  if coListed r.item.words then
    { r with layers := (upTo r.layers.length).map (fun n =>
        let y := r.layers.getD n ⟨[], [], false⟩
        if n = k then { y with cov := addRun i e y.cov } else y) }
  else { r with cov := addRun i e r.cov }

/-- A run of elements is covered. -/
def covers (cov : List (Nat × Nat)) (i e : Nat) : Bool := decide (e ≤ i) || cov.any (fun c => decide (c.1 ≤ i ∧ e ≤ c.2))

/-- Runs of elements with those that failed packets of this rank would have fed: nothing more is waited for there (R365). -/
def CollRun.settled (r : CollRun) (cov : List (Nat × Nat)) : List (Nat × Nat) := r.fails.foldl (fun c x => addRun x.1 x.2 c) cov

/-- Contexts of the engine's field that wait for a layer look again (R374). -/
def Mach.wakeLayers (m : Mach) (f : Nat) : Mach :=
  (upTo 204).foldl (fun m u => if fieldOf u = f then m.wakeIf u (fun w => match w with | .coLayer .. => true | _ => false) else m) m

/-- Write elements of item k of a descriptor. A target that no longer lies in its pool scratch refuses the access, and the descriptor
ends with the 0x07 of R261. DEDUCED, log 33. -/
def Mach.collWrite (m : Mach) (f id k i : Nat) (es : List Elem) : Mach :=
  match m.runOf f id with
  | none => m
  | some r => match m.collTarget f r k with
    | none => m
    | some t =>
      let inside := m.locInside t.loc t.bytes
      let m1 := (if inside then m.putTarget t i es else m).modRun f id (fun r =>
        { r.cover k i (i + es.length) with poisoned := r.poisoned || es.any (·.2), code := if inside ∨ r.code ≠ 0 then r.code else 0x07 })
      if coOp r.item.words = 3 then m1.wakeLayers f else m1

/-! ## The rank tree (R369, R370) -/

/-- Nodes of a level for P ranks. -/
def levelCount (p l : Nat) : Nat := ceilDiv p (2 ^ l)

/-- The level and number under which a promoted node stands: the top, or a node with a sibling. -/
def normNode (p : Nat) : Nat → Nat → Nat → Nat × Nat
  | 0, l, j => (l, j)
  | k + 1, l, j =>
    let c := levelCount p l
    if 1 < c ∧ j + 1 = c ∧ c % 2 = 1 then normNode p k (l + 1) (j / 2) else (l, j)

/-- The rank that takes a node of shard o as an input, or as its root. -/
def takerOf (p o l j : Nat) : Nat := if levelCount p l ≤ 1 then o else (j / 2 * 2 ^ (l + 1) + o) % p

/-- The nodes of an element of shard o that form at a rank (R369). -/
def nodesAt (p me o : Nat) : Nat :=
  ((upTo 18).map (fun l => ((upTo (levelCount p l / 2)).filter (fun j =>
    decide (1 < levelCount p l ∧ (j * 2 ^ (l + 1) + o) % p = me))).length)).sum

/-- Elements that a list of runs and a range share. -/
def runLen (cov : List (Nat × Nat)) (s : Nat × Nat) : Nat := (cov.map (fun c => min c.2 s.2 - max c.1 s.1)).sum

/-- Element nodes that a rank has to form in all, but for elements of runs. -/
def nodesDue (n p me : Nat) (fails : List (Nat × Nat)) : Nat :=
  ((upTo p).map (fun o => (shardLen n p o - runLen fails (shardOf n p o)) * nodesAt p me o)).sum

def elemsDefault (_ : Nat) : SMap NodeElem := []

/-- Element nodes formed at this rank, but for elements that its failed packets would have fed: those with both inputs here. -/
def CollRun.formed (r : CollRun) : Nat :=
  (r.nodes.map (fun e =>
    if e.1 % 2 = 0 then
      let sib := SMap.get r.nodes elemsDefault (e.1 + 1)
      (e.2.filter (fun x => (SMap.find? sib x.1).isSome && !r.fails.any (fun c => decide (c.1 ≤ x.1 ∧ x.1 < c.2)))).length
    else 0)).sum

/-- One addition of two nodes; a poisoned input poisons the sum. -/
def nodeAdd (r : CollRun) (seed l j i : Nat) (a b : NodeElem) : NodeElem :=
  let w := r.item.words
  let md : Rnd := if coLsr w && decide (17 ≤ l) then
      .sr (springR seed (springStream 5 (coTensor w) (coStep w)) ((l * 2 ^ 17 + j) * 2 ^ 40 + i)) else .rne
  { code := (wideAdd 1 md ⟨a.code, 0⟩ ⟨b.code, 0⟩).code, bad := a.bad || b.bad, gate := a.gate || b.gate }

/-- Elements with their indices, by runs of consecutive indices. -/
def runsOf : List (Nat × NodeElem) → List (Nat × List NodeElem)
  | [] => []
  | (i, x) :: rest =>
    match runsOf rest with
    | (i', xs) :: rs => if i' = i + 1 then (i, x :: xs) :: rs else (i, [x]) :: (i', xs) :: rs
    | [] => [(i, [x])]

/-- A poison mark covers a whole 8-byte word: two FP32 elements. -/
def pairMarks (xs : List (Nat × NodeElem)) : List (Nat × NodeElem) :=
  xs.map (fun x => (x.1, { x.2 with bad := xs.any (fun y => y.2.bad && decide (y.1 / 2 = x.1 / 2)) }))

/-- Convert a root element into the output format (R370). The flags of the conversion go to the report alone: no context holds
them (log 60, DESIGN CHOICE). -/
def Mach.rootElem (m : Mach) (r : CollRun) (i : Nat) (x : NodeElem) : SlotElem :=
  let w := r.item.words
  let md : Rnd := if coRnd w then
      .sr (springR r.item.seed (springStream 5 (coTensor w) (coStep w)) (31 * 2 ^ 17 * 2 ^ 40 + i)) else .rne
  let c := (m.slot (coOSlot w)).convertInto (coOFmt w) md true false (f32Val x.code)
  ⟨c.1, if x.bad then ⟨m.junk i (fmtWidth (coOFmt w)), 0⟩ else c.2, x.bad⟩

/-- Gate-only packets to the ranks whose shard is empty, once this root is complete (R373). -/
def Mach.sendGates (m : Mach) (f id : Nat) : Mach :=
  match m.runOf f id with
  | none => m
  | some r =>
    let w := r.item.words
    let p := r.ranks.length
    match rankOf r.ranks (m.me f) with
    | none => m
    | some me =>
      let s := shardOf (coN w) p me
      if coGate w && !r.gatesSent && decide (s.1 < s.2) && covers (r.settled r.cov) s.1 s.2 then
        let m1 := m.modRun f id (fun r => { r with gatesSent := true })
        (upTo p).foldl (fun m k =>
          if shardLen (coN w) p k = 0 then m.collSend f r (r.ranks.getD k (m.me f)) r.gate ⟨31, 0, 0, 0, []⟩ else m) m1
      else m

/-- Roots at their owner: written into OFMT, reported, and in an ALLREDUCE sent on (R364, R370). -/
def Mach.collOutput (m : Mach) (f id first : Nat) (xs : List NodeElem) : Mach :=
  match m.runOf f id with
  | none => m
  | some r =>
    let w := r.item.words
    let es := List.zipWith (fun k x => m.rootElem r (first + k) x) (upTo xs.length) xs
    let codes := es.map (fun e => (e.coded.code, e.bad))
    let gate := r.gate || xs.any (·.gate)
    let m1 := (((m.report (coOSlot w) (coOFmt w) es).collWrite f id 0 first codes).modRun f id (fun r => { r with gate := gate })).stir
    let m2 := if coOp w = 2 then
        r.ranks.foldl (fun m dst =>
          if dst = m.me f then m
          else (chunkList 31 0 (fmtWidth (coOFmt w)) first codes).foldl (fun m c => m.collSend f r dst gate c) m) m1
      else m1
    m2.sendGates f id

/-- Nodes of label (l, j) reach this rank, elements of one shard: those whose sibling is here form the parent, which goes to
the rank that takes it. -/
def Mach.collTake : Nat → Mach → Nat → Nat → Nat → Nat → List (Nat × NodeElem) → Mach
  | 0, m, _, _, _, _, _ => m
  | k + 1, m, f, id, l0, j0, xs0 =>
    match m.runOf f id with
    | none => m
    | some r =>
      let w := r.item.words
      let p := r.ranks.length
      let (l, j) := normNode p 18 l0 j0
      let xs := pairMarks xs0
      let gate := xs.any (fun x => x.2.gate)
      if levelCount p l ≤ 1 then
        (runsOf xs).foldl (fun m run => m.collOutput f id run.1 run.2) (m.modRun f id (fun r => { r with gate := r.gate || gate }))
      else
        let key := l * 2 ^ 17 + j
        let sib := SMap.get r.nodes elemsDefault (l * 2 ^ 17 + (if j % 2 = 0 then j + 1 else j - 1))
        let mine := xs.foldl (fun mp x => SMap.insert mp x.1 x.2) (SMap.get r.nodes elemsDefault key)
        let formed := xs.filterMap (fun x => (SMap.find? sib x.1).map (fun y =>
          (x.1, if j % 2 = 0 then nodeAdd r r.item.seed (l + 1) (j / 2) x.1 x.2 y else nodeAdd r r.item.seed (l + 1) (j / 2) x.1 y x.2)))
        let m1 := m.modRun f id (fun r => { r with nodes := SMap.insert r.nodes key mine })
        let m2 := m1.bump (collPage f) Reg.COLL.NODES_FORMED formed.length
        (runsOf formed).foldl (fun m run =>
          let n := normNode p 18 (l + 1) (j / 2)
          let o := run.1 / shardSize (coN w) p
          let dst := r.ranks.getD (takerOf p o n.1 n.2) (m.me f)
          if dst = m.me f then
            Mach.collTake k m f id (l + 1) (j / 2) (List.zipWith (fun i x => (run.1 + i, x)) (upTo run.2.length) run.2)
          else
            (chunkList (l + 1) (j / 2) 32 run.1 (run.2.map (fun x => (x.code, x.bad)))).foldl (fun m c =>
              m.collSend f r dst (run.2.any (·.gate)) c) m) m2

/-! ## Compression (R238 to R244) -/

/-- An element of a gradient with its residual: the exact a, its FP32 rounding, and whether it is poisoned. -/
structure GradElem where
  a : Num
  a32 : Nat
  bad : Bool
deriving DecidableEq, Repr

def GradElem.special (g : GradElem) : Bool := g.bad || !g.a.finite

def gradElem (g e : Elem) : GradElem :=
  let a := (Num.add (f32Val g.1) (decode 2 e.1)).1
  ⟨a, toF32 a, g.2 || e.2⟩

/-- a comes before b in TOPK: elements that are not finite or are poisoned first, by index; then by |a_32|, ties to the lower
index (R239, R242). -/
def topFirst (a b : Nat × GradElem) : Bool :=
  if a.2.special then !b.2.special || decide (a.1 < b.1)
  else if b.2.special then false
  else
    let x := (f32Val a.2.a32).abs
    let y := (f32Val b.2.a32).abs
    Num.lt y x || (!Num.lt x y && decide (a.1 < b.1))

def topPut (e : Nat × GradElem) : List (Nat × GradElem) → List (Nat × GradElem)
  | [] => [e]
  | x :: xs => if topFirst e x then e :: x :: xs else x :: topPut e xs

/-- A residual: exact, stored in BF16 by SR with USE 0x7 (R239 to R241). -/
def residual (seed slot step i : Nat) (x : Num) : Nat :=
  (encodeNum 2 (.sr (springR seed (springStream 7 slot step) i)) true false x).code

/-- TOPK of a chunk whose elements start at global index `base`: the entries and the new residuals (R239, R242). -/
def compressTop (seed slot step k base : Nat) (gs : List GradElem) : List Elem × List Elem :=
  let all := List.zipWith (fun i g => (i, g)) (upTo gs.length) gs
  let top := all.foldl (fun l e => (topPut e l).take (min k gs.length)) []
  let sent := fun (g : GradElem) => (encodeNum 2 .rne true false g.a).code
  (top.map (fun e => (sent e.2 + e.1 * 2 ^ 16, e.2.bad)),
   all.map (fun e =>
     if e.2.special then (0, false)
     else if top.any (fun t => decide (t.1 = e.1)) then (residual seed slot step (base + e.1) (Num.sub e.2.a (decode 2 (sent e.2))).1, false)
     else (residual seed slot step (base + e.1) e.2.a, false)))

/-- SIGN of a chunk: the scale, the sign bits and the new residuals (R240, R242). -/
def compressSign (seed slot step base junk : Nat) (gs : List GradElem) : List (Byte × Bool) × List Elem :=
  let bad := gs.any (·.bad)
  let nan := gs.any (fun g => !g.bad && !g.a.finite)
  let root := (canonical 1 (fun _ _ => .rne) (gs.map (fun g => ⟨g.a32 % 2 ^ 31, 0⟩))).code
  let c := if nan then 0x7FC00000 else toF32 (Num.div (f32Val root) (.fin false gs.length 1 0)).1
  let neg := fun (g : GradElem) => (f32Val g.a32).negative && !(f32Val g.a32).isZero
  let bits := (upTo (ceilDiv gs.length 8)).map (fun i =>
    (upTo 8).foldl (fun v b => v + b2n (((gs[8 * i + b]?).map neg).getD false) * 2 ^ b) 0)
  let out := (toBytes 4 (if bad then junk % 2 ^ 32 else c)).map (fun b => (b, bad)) ++ bits.map (fun b => (BitVec.ofNat 8 b, false))
  (out, List.zipWith (fun i g =>
    if g.special then (0, false)
    else if bad then (junk % 2 ^ 16, true)
    else
      let cs := f32Val c
      (residual seed slot step (base + i) (Num.sub g.a (if neg g then cs.neg else cs)).1, false)) (upTo gs.length) gs)

/-- Elements of a compression chunk. -/
def compSize (cmode : Nat) : Nat := if cmode = 1 then 4096 else 1024

/-- Compress elements from global index `base` on, chunk by chunk: chunks to send and new residuals. -/
def compressAll (w : List Nat) (seed rank junk : Nat) : Nat → Nat → List GradElem → List Chunk × List Elem
  | 0, _, _ => ([], [])
  | k + 1, base, gs =>
    if gs.isEmpty then ([], [])
    else
      let a := gs.take (compSize (coCMode w))
      let (more, res) := compressAll w seed rank junk k (base + a.length) (gs.drop (compSize (coCMode w)))
      if coCMode w = 1 then
        let (es, r) := compressTop seed (coISlot w) (coStep w) (coKm1 w + 1) base a
        (⟨0, rank, base, a.length, packElems 32 es⟩ :: more, r ++ res)
      else
        let (d, r) := compressSign seed (coISlot w) (coStep w) base junk a
        (⟨0, rank, base, a.length, d⟩ :: more, r ++ res)

/-- The dense FP32 elements of a compressed chunk (R244). -/
def decompress (cmode count k : Nat) (d : List (Byte × Bool)) : List Elem :=
  if cmode = 1 then
    let es := (upTo (min k count)).map (byteElem d 32)
    (upTo count).map (fun i => match es.find? (fun e => decide (natBits e.1 27 16 = i)) with
      | some e => (e.1 % 2 ^ 16 * 2 ^ 16, e.2)
      | none => (0, false))
  else
    let c := byteElem d 32 0
    (upTo count).map (fun i =>
      let b := (byteElem (d.drop 4) 8 (i / 8)).1
      ((f32Code c.1 (b.testBit (i % 8))), c.2 || (wordMarks (ceilDiv d.length 8) d).getD 0 false))
where
  /-- c with the sign of a bit -/
  f32Code (c : Nat) (neg : Bool) : Nat := if neg then (c + 2 ^ 31) % 2 ^ 32 else c

/-! ## Contributions (R370) -/

/-- Elements of the source as a rank contributes them: widened, and scaled by its own ISLOT (R370). They leave as FP32, so that
no bit of a sum depends on where a node forms (R371; log 60). -/
def Mach.contribElems (m : Mach) (w : List Nat) (es : List Elem) : List Elem :=
  if coIFmt w = 1 then es
  else es.map (fun e => (toF32 (Num.mul (decode (coIFmt w) e.1) (f32Val (m.slot (coISlot w)).scale)).1, e.2))

/-- The FP32 elements of a chunk of the tree: a compressed contribution is decompressed. -/
def chunkNodes (w : List Nat) (gate : Bool) (c : Chunk) : List (Nat × NodeElem) :=
  let es : List Elem :=
    if c.l = 0 ∧ coCMode w ≠ 0 then decompress (coCMode w) c.count (coKm1 w + 1) c.data
    else (upTo c.count).map (byteElem c.data 32)
  List.zipWith (fun i e => (c.first + i, { code := e.1, bad := e.2, gate := gate })) (upTo es.length) es

/-- A chunk whose marks are those that a packet carries: one for each 8 bytes. -/
def Chunk.marked (c : Chunk) : Chunk :=
  let ms := wordMarks (ceilDiv c.data.length 8) c.data
  { c with data := List.zipWith (fun i b => (b.1, ms.getD (i / 8) false)) (upTo c.data.length) c.data }

/-- A chunk of a reduction goes to the rank that takes it. -/
def Mach.collRoute (m : Mach) (f id : Nat) (gate : Bool) (c : Chunk) : Mach :=
  match m.runOf f id with
  | none => m
  | some r =>
    let w := r.item.words
    let p := r.ranks.length
    let n := normNode p 18 c.l c.j
    let dst := r.ranks.getD (takerOf p (c.first / shardSize (coN w) p) n.1 n.2) (m.me f)
    if dst = m.me f then Mach.collTake 20 m f id c.l c.j (chunkNodes w gate c.marked) else m.collSend f r dst gate c

/-! ## Reception (R367) -/

/-- The chunk that a packet carries. -/
def pktChunk (pk : Packet) : Chunk :=
  let ms := pk.marks.drop 8
  let d := pk.payload.drop 64
  { l := natBits (pk.word 0) 57 53, j := natBits (pk.word 0) 52 32, first := natBits (pk.word 2) 39 0, count := natBits (pk.word 3) 31 0,
    data := List.zipWith (fun i b => (b, ms.getD (i / 8) false)) (upTo d.length) d }

def pktGroup (pk : Packet) : Nat := natBits pk.ctx.toNat 5 0
def pktGate (pk : Packet) : Bool := pk.ctx.toNat.testBit 6
def pktSeq (pk : Packet) : Nat := natBits pk.ctx.toNat 27 8
def pktEpoch (pk : Packet) : Nat := natBits (pk.word 4) 31 0

/-- The packet speaks of the same descriptor (R367). -/
def sameDesc (w : List Nat) (pk : Packet) : Bool :=
  decide (natBits (pk.word 0) 3 0 = coOp w ∧ natBits (pk.word 0) 7 4 = coIFmt w ∧ natBits (pk.word 0) 9 8 = coCMode w ∧
    natBits (pk.word 0) 19 10 = coKm1 w ∧ (pk.word 0).testBit 20 = coGate w ∧ natBits (pk.word 1) 39 0 = coN w ∧
    pktEpoch pk = coEpoch w)

/-- A MISMATCH: this descriptor ends with it, and the module that sent the packet is shown this one's header (R367). -/
def Mach.collMismatch (m : Mach) (f : Nat) (r : CollRun) (pk : Packet) : Mach :=
  if r.code = 0x11 then m
  else
    let m1 := m.modRun f r.item.id (fun r => { r with code := 0x11 })
    r.ranks.foldl (fun m dst =>
      if dst.x = pk.srcX.toNat ∧ dst.y = pk.srcY.toNat ∧ dst ≠ m.me f then m.collSend f r dst r.gate ⟨31, 0, 0, 0, []⟩ else m) m1

/-- A packet can be taken by a running descriptor now: its layer or its phase has begun. -/
def CollRun.open (r : CollRun) (pk : Packet) : Bool :=
  let w := r.item.words
  if coOp w = 3 then (r.layers.getD (pktChunk pk).j ⟨[], [], false⟩).started
  else if coOp w = 6 then decide (r.phase = 1)
  else true

/-- Take a packet into a running descriptor. -/
def Mach.collFeed (m : Mach) (f : Nat) (r : CollRun) (pk : Packet) (t : Nat) : Mach :=
  let w := r.item.words
  let c := pktChunk pk
  let id := r.item.id
  let m1 := m.modRun f id (fun r => { r with last := max r.last t, gate := r.gate || (coRed w && pktGate pk) })
  if c.l ≠ 31 then
    (if coRed w then Mach.collTake 20 m1 f id c.l c.j (chunkNodes w (pktGate pk) c) else m1)
  else if c.count = 0 then m1.modRun f id (fun r => { r with gates := r.gates + 1 })
  else
    match m1.collTarget f r c.j with
    | none => m1
    | some tg => m1.collWrite f id (if coListed w then c.j else 0) c.first ((upTo c.count).map (byteElem c.data (fmtWidth tg.fmt)))

/-- What becomes of a packet at an engine. -/
inductive CollFate where
  | feed (r : CollRun)
  | keep
  | drop
deriving DecidableEq, Repr

/-- R367, R379. A packet of the next epoch is held, one of a descriptor in progress is for it, and one whose OPSEQ has not been
issued yet is kept, whatever else it says. -/
def Mach.collFate (m : Mach) (f : Nat) (pk : Packet) : CollFate :=
  let g := m.groupOf f (pktGroup pk)
  let e := if g.rec?.isSome then g.epoch else 0
  if pktEpoch pk = (e + 1) % 2 ^ 32 then .keep
  else
    match (m.collOf f).running.find? (fun r => decide (coGroup r.item.words = pktGroup pk ∧ r.opseq = pktSeq pk ∧ coOp r.item.words ≠ 9)) with
    | some r => if r.code = 0x11 then .drop else if !sameDesc r.item.words pk || r.open pk then .feed r else .keep
    | none => if (pktSeq pk + 2 ^ 20 - g.seq) % 2 ^ 20 < 2 ^ 19 then .keep else .drop

/-- Where a PUT of n elements writes on this module: it names no unit here that is absent, and stays in its space (R376). -/
def Mach.putLoc (m : Mach) (a fmt n : Nat) : Option Loc :=
  match m.coLoc none a with
  | some l => if m.coRange none a (coBytes fmt n) (fmtWidth fmt) then some l else none
  | none => none

/-- DST, format and N of a PUT packet. -/
def putDst (pk : Packet) : Nat := ofBytes (pk.payload.drop (pk.payload.length - 8))
def putFmt (pk : Packet) : Nat := natBits (pk.word 0) 7 4
def putN (pk : Packet) : Nat := natBits (pk.word 1) 39 0

/-- Write the elements of a PUT (R376). -/
def Mach.putArrive (m : Mach) (pk : Packet) : Mach :=
  let c := pktChunk pk
  let fmt := putFmt pk
  match m.putLoc (putDst pk) fmt (putN pk) with
  | none => m
  | some l => m.putTarget ⟨0, fmt, l, 0, putN pk⟩ c.first ((upTo c.count).map (byteElem c.data (fmtWidth fmt)))

/-- The bytes that a packet of elements would write here: those of a PUT, of data for its descriptor, or of a chunk of the tree
whose root this rank writes. -/
def Mach.collWrites (m : Mach) (f : Nat) (pk : Packet) : Option (Loc × Nat) :=
  let c := pktChunk pk
  if natBits (pk.word 0) 3 0 = 9 then
    (m.putLoc (putDst pk) (putFmt pk) (putN pk)).map (fun l =>
      (l.plus (c.first * fmtWidth (putFmt pk) / 8), coBytes (putFmt pk) c.count))
  else
    match m.collFate f pk with
    | .feed r =>
      let p := r.ranks.length
      let here := decide (c.l = 31) ||
        decide (rankOf r.ranks (m.me f) = some (c.first / shardSize (coN r.item.words) p))
      if here && sameDesc r.item.words pk then (m.collTarget f r c.j).map (fun t => (t.loc.plus ((c.first - t.base) * fmtWidth t.fmt / 8), coBytes t.fmt c.count))
      else none
    | _ => none

/-- What a packet would write cannot be written now. -/
def Mach.collHeld (m : Mach) (f : Nat) (pk : Packet) : Bool :=
  match m.collWrites f pk with
  | some x => m.locBarred x.1 x.2
  | none => false

/-- The hold of what a packet would write is counted where an array guards it (R85). -/
def Mach.collHazard (m : Mach) (f : Nat) (pk : Packet) : Mach := m.hazards false (m.collWrites f pk).toList

/-- Keep a packet. -/
def Mach.collKeep (m : Mach) (f : Nat) (pk : Packet) (t : Nat) : Mach :=
  m.setColl f { m.collOf f with kept := (m.collOf f).kept ++ [(pk, t)] }

/-- Feed a packet or put it back with those that are kept. -/
def Mach.collApply (m : Mach) (f : Nat) (pk : Packet) (t : Nat) : Mach :=
  match m.collFate f pk with
  | .feed r => if sameDesc r.item.words pk then m.collFeed f r pk t else m.collMismatch f r pk
  | .keep => m.collKeep f pk t
  | .drop => m

/-- Look at the kept packets again, after something that they may have waited for. -/
def Mach.collDrain (m : Mach) (f : Nat) : Mach :=
  let ks := (m.collOf f).kept
  ks.foldl (fun m k => if m.collHeld f k.1 then (m.collHazard f k.1).collKeep f k.1 k.2 else m.collApply f k.1 k.2)
    (m.setColl f { m.collOf f with kept := [] })

/-- Bytes of the receive buffer in use. -/
def CollSt.keptBytes (x : CollSt) : Nat := (x.kept.map (fun k => k.1.payload.length)).sum

/-- A packet is handed to an engine at an instant: whether it is accepted, and the state (R367). -/
def Mach.collDeliver (m : Mach) (f : Nat) (pk : Packet) (t : Nat) : Bool × Mach :=
  let p := collPage f
  let m1 := m.bump p Reg.COLL.BYTES_RECV pk.payload.length
  if natBits (pk.word 0) 3 0 = 9 then (true, m1.putArrive pk)
  else
    let room := 1024 * m.act p Reg.COLL.COLLCTL_RXKIB
    if m.collFate f pk = .keep ∧ room < (m.collOf f).keptBytes + pk.payload.length then
      (false, (m.bump p Reg.COLL.RX_FULL).raise p 20)
    else (true, m1.collApply f pk t)

end Sys2Proof.Machine
end

