-- ==== Sys2Proof/Machine/Coll.lean ====
section
/-! DEFINITION. Collective engines: how descriptors start, wait for barriers and complete (R358, R366, R372 to R383). -/

namespace Sys2Proof.Machine

/-! ## Completion (R366) -/

/-- Write elements i to e − 1 of a target poisoned, except those that a list of runs covers. -/
def Mach.poisonTarget (m : Mach) (f id k : Nat) (cov : List (Nat × Nat)) (i e fmt : Nat) : Mach :=
  let left := (upTo (e - i)).map (fun n => i + n) |>.filter (fun n => !cov.any (fun c => decide (c.1 ≤ n ∧ n < c.2)))
  (left.foldl (fun m n => m.collWrite f id k n [(m.junk n (fmtWidth fmt), true)]) m).stir

/-- The outputs of a reduction that elements of runs would have been, written poisoned and reported. -/
def Mach.poisonSums (m : Mach) (f : Nat) (r : CollRun) (fails : List (Nat × Nat)) : Mach :=
  let w := r.item.words
  match m.collTarget f r 0 with
  | none => m
  | some t =>
    fails.foldl (fun m x =>
      let s := max x.1 t.base
      let e := min x.2 (t.base + t.len)
      (m.poisonTarget f r.item.id 0 [] s e t.fmt).report (coOSlot w) (coOFmt w)
        ((upTo (e - s)).map (fun _ => ⟨.fin false 0 1 0, ⟨0, 0⟩, true⟩))) m

/-- The outputs of a failed descriptor are written poisoned (R365, R367): under UNREACHABLE those that its failed packets fed
here, which are sums of a reduction, as the other operations send only what other ranks write; under MISMATCH all of them. -/
def Mach.poisonOutputs (m : Mach) (f : Nat) (r : CollRun) (all : Bool) : Mach :=
  let w := r.item.words
  let id := r.item.id
  if coRed w then m.poisonSums f r (if all then [(0, coN w)] else r.fails)
  else if !all then m
  else if coListed w then
    (upTo (coCount w)).foldl (fun m k =>
      let y := r.layers.getD k ⟨[], [], false⟩
      if coOp w = 3 ∧ (!y.started ∨ k < r.released) then m
      else match m.collTarget f r k with
        | some t => m.poisonTarget f id k [] t.base (t.base + t.len) t.fmt
        | none => m) m
  else
    match m.collTarget f r 0 with
    | some t => m.poisonTarget f id 0 [] 0 t.len t.fmt
    | none => m

/-- A descriptor completes with a code (R365, R366, R386), as soon as its completion record can be written. -/
def Mach.collFinish (m : Mach) (f id code : Nat) : Mach :=
  match m.runOf f id with
  | none => m
  | some r =>
    if m.recHeld r.item.from r.item.words then m.modRun f id (fun r => { r with ending := some code, barrier := none })
    else
    let p := collPage f
    let m1 := if code = 0x10 ∨ code = 0x11 then m.poisonOutputs f r (decide (code = 0x11)) else m
    let bad := match m1.runOf f id with | some r => r.poisoned | none => false
    let x := m1.collOf f
    let m2 := (m1.setColl f { x with running := x.running.filter (fun r => decide (r.item.id ≠ id)) }).bump p Reg.COLL.DESC_DONE
    let m3 := if 0x10 ≤ code then (m2.bump p Reg.COLL.FAILED).raise p (if code = 0x11 then 18 else 17) else m2
    ((m3.coRecord r.item.from r.item.words code r.last).coRetire r.item true false bad code).wakeLayers f

/-- No packet of the descriptor is offered or unacknowledged. -/
def Mach.collSettled (m : Mach) (f id : Nat) : Bool :=
  !m.fab.offers.any (fun o => decide (o.owner = .coll f id)) &&
    !m.fab.tx.any (fun t => t.out.any (fun o => decide (o.owner = .coll f id)))

/-! ## Start (R358, R372 to R381) -/

/-- Read elements of a format at a location, through its slices (R259). -/
def Mach.coElems (m : Mach) (l : Loc) (fmt n : Nat) : List Elem × Mach :=
  let d := m.locRead l (coBytes fmt n)
  ((upTo n).map (byteElem d.1 (fmtWidth fmt)), d.2)

/-- Contribute to a reduction: every shard goes, chunk by chunk, to the ranks that take it (R369, R372). -/
def Mach.contribute (m : Mach) (f : Nat) (r : CollRun) (me : Nat) : Mach :=
  let w := r.item.words
  let n := coN w
  let p := r.ranks.length
  match m.coSrcLoc r.view r.item.from w (wordAt w 3) with
  | none => m
  | some src =>
    let rd := m.coElems src (coIFmt w) n
    let es := m.contribElems w rd.1
    let m0 := rd.2
    if coCMode w = 0 then
      (upTo p).foldl (fun m o =>
        let s := shardOf n p o
        (chunkList 0 me 32 s.1 ((es.drop s.1).take (s.2 - s.1))).foldl (fun m c => m.collRoute f r.item.id r.gate c) m) m0
    else
      let bank := m.live scalePage Reg.SCALE.GATE_RESBANK
      match m.coLoc r.item.from (wordAt w (5 + bank)), m.coLoc r.item.from (wordAt w (6 - bank)) with
      | some rd, some wr =>
        let old := m0.coElems rd 2 n
        let gs := List.zipWith gradElem es old.1
        let (cs, res) := compressAll w r.item.seed me (m.junk 0 64) (n / 1024 + 1) 0 gs
        let m1 := (old.2.putTarget ⟨n, 2, wr, 0, n⟩ 0 res).stir
        cs.foldl (fun m c => m.collRoute f r.item.id r.gate c) m1
      | _, _ => m0

/-- Send elements of item k to a rank, or write them here. -/
def Mach.collMove (m : Mach) (f : Nat) (r : CollRun) (dst : Rank) (k first fmt : Nat) (es : List Elem) : Mach :=
  if es.isEmpty then m
  else if dst = m.me f then m.collWrite f r.item.id k first es
  else (chunkList 31 k (fmtWidth fmt) first es).foldl (fun m c => m.collSend f r dst r.gate c) m

/-- Layer k of a GATHER_AHEAD starts: this rank's shard leaves for every rank (R374). -/
def Mach.startLayer (m : Mach) (f id k : Nat) : Mach :=
  match m.runOf f id with
  | none => m
  | some r =>
    let w := r.item.words
    let p := r.ranks.length
    let m1 := m.modRun f id (fun r => { r with layers := (upTo r.layers.length).map (fun n =>
      let y := r.layers.getD n ⟨[], [], false⟩
      if n = k then { y with started := true } else y) })
    match rankOf r.ranks (m.me f), m.coSrcLoc r.view r.item.from w (coRec w k 0) with
    | some me, some src =>
      let s := shardOf (layN w k) p me
      let n := s.2 - s.1
      if !m.locInside src (coBytes (layFmt w k) n) then
        m1.modRun f id (fun r => { r.cover k 0 (layN w k) with code := if r.code = 0 then 0x07 else r.code })
      else
        let rd := m1.coElems src (layFmt w k) n
        r.ranks.foldl (fun m dst => m.collMove f r dst k s.1 (layFmt w k) rd.1) rd.2
    | _, _ => m1

/-- Every source, target and record among locations answers, and no array guards a target (R85). -/
def Mach.locsFree (m : Mach) (reads writes : List (Option Loc × Nat)) : Bool :=
  reads.all (fun x => match x.1 with | some l => !m.locHeld l x.2 | none => true) &&
    writes.all (fun x => match x.1 with | some l => !m.locBarred l x.2 | none => true)

/-- The target of item k as a location to write. -/
def Mach.targetLoc (m : Mach) (f : Nat) (r : CollRun) (k : Nat) : Option Loc × Nat :=
  match m.collTarget f r k with
  | some t => (some t.loc, t.bytes)
  | none => (none, 0)

/-- The shard of layer k that this rank sends. -/
def Mach.layerSrc (m : Mach) (f : Nat) (r : CollRun) (k : Nat) : Option Loc × Nat :=
  let w := r.item.words
  let n := match rankOf r.ranks (m.me f) with | some me => shardLen (layN w k) r.ranks.length me | none => 0
  (m.coSrcLoc r.view r.item.from w (coRec w k 0), coBytes (layFmt w k) n)

/-- The layers of a GATHER_AHEAD up to DIST beyond those released start, each once its shard and its buffer are free (R374). -/
def Mach.startGather (m : Mach) (f id : Nat) : Mach :=
  match m.runOf f id with
  | none => m
  | some r =>
    let w := r.item.words
    (upTo (min (coCount w) (r.released + coDist w + 1))).foldl (fun m k =>
      if !(r.layers.getD k ⟨[], [], false⟩).started && m.locsFree [m.layerSrc f r k] [m.targetLoc f r k] then m.startLayer f id k
      else m) m

/-- The root of a broadcast sends its elements by multicast (R375). -/
def Mach.startBcast (m : Mach) (f : Nat) (r : CollRun) : Mach :=
  let w := r.item.words
  if coRootX w ≠ m.myX ∨ coRootY w ≠ m.myY then m
  else
    match m.coSrcLoc r.view r.item.from w (wordAt w 3) with
    | none => m
    | some src =>
      let axis := decide (coOp w = 5)
      let d := if axis then m.dimY else m.dimX
      -- both directions of a whole ring: floor(D / 2) modules one way, the rest the other
      let ways : List (Bool × Nat × Nat) :=
        if coWhole w then ([(false, 0, d / 2), (true, 0, d - 1 - d / 2)] : List (Bool × Nat × Nat)).filter (fun x => decide (x.2.2 ≠ 0))
        else [(false, coSkip w, coSpan w)]
      let rd := m.coElems src (coIFmt w) (coN w)
      (chunkList 31 0 (fmtWidth (coIFmt w)) 0 rd.1).foldl (fun m c =>
        ways.foldl (fun m x =>
          m.coOffer f r.item { chunkPacket r ⟨x.2.1, x.2.2, f⟩ r.gate c with mcast := true, axis := axis, dir := x.1 }) m)
        rd.2

/-- PUT (R376). -/
def Mach.startPut (m : Mach) (f : Nat) (r : CollRun) : Mach :=
  let w := r.item.words
  match m.coSrcLoc r.view r.item.from w (wordAt w 3) with
  | none => m
  | some src =>
    let dst := r.ranks.getD (coDRank w) (m.me f)
    let rd := m.coElems src (coIFmt w) (coN w)
    let es := rd.1
    let m1 := rd.2
    if dst = m.me f then
      match m1.putLoc (wordAt w 4) (coIFmt w) (coN w) with
      | some l => m1.putTarget ⟨0, coIFmt w, l, 0, coN w⟩ 0 es
      | none => m1
    else (chunkList 31 0 (fmtWidth (coIFmt w)) 0 es).foldl (fun m c => m.collSend f r dst false c) m1

/-- A descriptor enters its barrier object; an entry that does not count completes it with LIMIT (R377). -/
def Mach.collBarrier (m : Mach) (f id : Nat) (phase : Nat) : Mach :=
  match m.runOf f id with
  | none => m
  | some r =>
    let e := m.barEnter (coBar r.item.words) (coPart r.item.words)
    match e.1 with
    | .code _ => e.2.collFinish f id 0x01
    | .counted g _ => e.2.modRun f id (fun r => { r with barrier := some g, phase := phase })

/-- The buffers of a PERMUTE move: old shards are staged, then every element goes to its new owner (R380, R381). -/
def Mach.permute (m : Mach) (f : Nat) (r : CollRun) : Mach :=
  let w := r.item.words
  let id := r.item.id
  match rankOf r.ranks (m.me f), m.coLoc r.item.from (wordAt w 6) with
  | some me, some stage =>
    let old := fun k => shardOf (layN w k) r.ranks.length me
    let bytes := fun k => coBytes (layFmt w k) ((old k).2 - (old k).1)
    let offs := (upTo (coCount w)).map (fun k => ((upTo k).map bytes).sum)
    let m1 := (upTo (coCount w)).foldl (fun m k =>
      match m.coLoc r.item.from (coRec w k 0) with
      | some l => let rd := m.locRead l (bytes k)
        rd.2.locWrite (stage.plus (offs.getD k 0)) rd.1
      | none => m) m
    (upTo (coCount w)).foldl (fun m k =>
      let s := old k
      let rd := m.coElems (stage.plus (offs.getD k 0)) (layFmt w k) (s.2 - s.1)
      let es := rd.1
      (upTo r.nextRanks.length).foldl (fun m o =>
        let t := shardOf (layN w k) r.nextRanks.length o
        let a := max s.1 t.1
        let b := min s.2 t.2
        m.collMove f r (r.nextRanks.getD o (m.me f)) k a (layFmt w k) ((es.drop (a - s.1)).take (b - a))) rd.2)
      (m1.modRun f id (fun r => { r with phase := 1, barrier := none }))
  | _, _ => m.modRun f id (fun r => { r with phase := 1, barrier := none })

/-- What a descriptor reads as it starts: its source, or the old shards of a PERMUTE. -/
def Mach.collReads (m : Mach) (f : Nat) (r : CollRun) : List (Option Loc × Nat) :=
  let w := r.item.words
  if coOp w = 6 then
    let n := fun k => match rankOf r.ranks (m.me f) with | some me => shardLen (layN w k) r.ranks.length me | none => 0
    (upTo (coCount w)).map (fun k => (m.coLoc r.item.from (coRec w k 0), coBytes (layFmt w k) (n k)))
  else if coRed w ∨ coOp w = 9 ∨ ((coOp w = 4 ∨ coOp w = 5) ∧ coRootX w = m.myX ∧ coRootY w = m.myY) then
    [(m.coSrcLoc r.view r.item.from w (wordAt w 3), coBytes (coIFmt w) (coN w))]
  else []

/-- What a descriptor writes on this module, but for the layers of a GATHER_AHEAD, which start one by one: its outputs,
residuals, staging area and completion record. -/
def Mach.collOuts (m : Mach) (f : Nat) (r : CollRun) : List (Option Loc × Nat) :=
  let w := r.item.words
  let rec? := (m.coLoc r.item.from (wordAt w 12), 32)
  if coOp w = 3 then [rec?]
  else if coOp w = 6 then
    (m.coLoc r.item.from (wordAt w 6), ((m.collReads f r).map (fun x => x.2)).sum) :: rec? ::
      (upTo (coCount w)).map (fun k => m.targetLoc f r k)
  else if coOp w = 9 then
    (if r.ranks.getD (coDRank w) (m.me f) = m.me f then [(m.putLoc (wordAt w 4) (coIFmt w) (coN w), coBytes (coIFmt w) (coN w))] else [])
      ++ [rec?]
  else if coRed w ∧ coCMode w ≠ 0 then
    [m.targetLoc f r 0, (m.coLoc r.item.from (wordAt w 5), 2 * coN w), (m.coLoc r.item.from (wordAt w 6), 2 * coN w), rec?]
  else [m.targetLoc f r 0, rec?]

/-- The code of a descriptor whose locations no longer stand as they did at its entry: a source under VIEWSRC out of range in the buffer
that CUR names now (R365), and a location beyond the pool scratch in force, which R261 refuses with 0x07; 0 when none. DEDUCED, logs
33 and 65. -/
def Mach.startCode (m : Mach) (f : Nat) (r : CollRun) : Nat :=
  let w := r.item.words
  let n := fun (k : Nat) => match rankOf r.ranks (m.me f) with | some me => shardLen (layN w k) r.ranks.length me | none => 0
  let out := fun (a bytes bits : Nat) => !(decide (r.view + a + bytes ≤ 2 ^ 48) && dmAligned (r.view + a) bits)
  let lost := if !coViewSrc w then false
    else if coOp w = 3 then (upTo (coCount w)).any (fun k => out (coRec w k 0) (coBytes (layFmt w k) (n k)) (fmtWidth (layFmt w k)))
    else if (m.collReads f r).isEmpty then false
    else out (wordAt w 3) (coBytes (coIFmt w) (coN w)) (fmtWidth (coIFmt w))
  if lost then 0x03
  else if (m.collReads f r ++ m.collOuts f r).all (fun x => match x.1 with | some l => m.locInside l x.2 | none => true) then 0
  else 0x07

/-- What a descriptor reads and writes here answers, and no array guards what it writes. -/
def Mach.collFree (m : Mach) (f : Nat) (r : CollRun) : Bool := m.locsFree (m.collReads f r) (m.collOuts f r)

/-- What a descriptor that has started still writes here can be written. -/
def Mach.collWritable (m : Mach) (f : Nat) (r : CollRun) : Bool := m.locsFree [] (m.collOuts f r)

/-- The hold of what a descriptor writes here is counted where an array guards it (R85). -/
def Mach.collHazards (m : Mach) (f : Nat) (r : CollRun) : Mach :=
  m.hazards false ((m.collOuts f r).filterMap (fun x => x.1.map (fun l => (l, x.2))))

/-- The descriptor at the head of the queue may start (R358, R379, R380). -/
def Mach.collReady (m : Mach) (f : Nat) (r : CollRun) : Bool :=
  let it := r.item
  let x := m.collOf f
  let op := coOp it.words
  m.coresRun && decide (x.running.length < 8) && m.collFree f r &&
    (if op = 6 ∨ op = 7 ∨ op = 8 then x.running.isEmpty
     else decide (op = 9) || !x.running.any (fun r => decide (coOp r.item.words = 6 ∧ coGroup r.item.words = coGroup it.words)))

/-- A queued descriptor as it starts: the next OPSEQ, the records of its group, its gate contribution (R224) and its view. -/
def Mach.collRun (m : Mach) (f : Nat) (it : CollItem) : CollRun :=
  let w := it.words
  let g := m.groupOf f (coGroup w)
  { item := it, opseq := g.seq, ranks := g.rec?.getD [], nextRanks := g.pend.getD [], nodes := [], cov := [], fails := [],
    view := m.viewBase f (coView w) it.bufs, gates := 0, gatesSent := false, gate := coGate w && m.gateContribution,
    layers := (upTo (if coListed w then coCount w else 0)).map (fun _ => ⟨[], [], false⟩), released := 0, barrier := none, phase := 0,
    code := 0, ending := none, poisoned := false, last := 0 }

/-- R358. The engine starts the descriptor at the head of its queue. -/
def Mach.collStart (m : Mach) (f : Nat) : Mach :=
  let x := m.collOf f
  match x.queue with
  | [] => m
  | it :: rest =>
    let r := m.collRun f it
    if !m.collReady f r then m.collHazards f r
    else
      let w := it.words
      let g := m.groupOf f (coGroup w)
      let m1 := m.setColl f { x with queue := rest, running := x.running ++ [r] }
      let m2 := if coOp w = 9 then m1 else m1.setGroup f (coGroup w) { g with seq := (g.seq + 1) % 2 ^ 20 }
      let m3 := if coGate w then m2.takeContribution else m2
      let m4 := (upTo 204).foldl (fun m u => if fieldOf u = f then m.wakeIf u (fun w => decide (w = .coQueue)) else m) m3
      let m5 :=
        if m.startCode f r ≠ 0 then m4.collFinish f it.id (m.startCode f r)
        else if coRed w then (match rankOf r.ranks (m.me f) with | some me => m4.contribute f r me | none => m4)
        else if coOp w = 3 then m4.startGather f it.id
        else if coOp w = 4 ∨ coOp w = 5 then m4.startBcast f r
        else if coOp w = 9 then m4.startPut f r
        else m4.collBarrier f it.id 0
      m5.collDrain f

def execCollStart (f : FieldId) (s : State) : Host.Outcome State Fault Refusal := s.run true (fun m => m.collStart f.val)

/-! ## End (R358, R373, R380) -/

/-- A running descriptor's own part is done: outputs written, nodes formed, layers released. -/
def Mach.collPartDone (m : Mach) (f : Nat) (r : CollRun) : Bool :=
  let w := r.item.words
  let p := r.ranks.length
  let n := coN w
  match rankOf r.ranks (m.me f) with
  | none => true
  | some me =>
    if coRed w then
      let s := if coOp w = 2 then (0, n) else shardOf n p me
      covers (r.settled r.cov) s.1 s.2 && decide (r.formed = nodesDue n p me r.fails) &&
        (!coGate w || decide (shardLen n p me ≠ 0) || decide (r.gates = ((upTo p).filter (fun o => decide (shardLen n p o ≠ 0))).length))
    else if coOp w = 3 then
      decide (r.released = coCount w) && (upTo (coCount w)).all (fun k => covers (r.layers.getD k ⟨[], [], false⟩).cov 0 (layN w k))
    else if coOp w = 4 ∨ coOp w = 5 then decide (coRootX w = m.myX ∧ coRootY w = m.myY) || covers r.cov 0 n
    else if coOp w = 6 then
      decide (r.phase = 1) && (upTo (coCount w)).all (fun k =>
        match rankOf r.nextRanks (m.me f) with
        | some me' => let s := shardOf (layN w k) r.nextRanks.length me'
          covers (r.layers.getD k ⟨[], [], false⟩).cov s.1 s.2
        | none => true)
    else decide (coOp w = 9)

/-- What a running descriptor had put off because a location was held: layers, the moves of a PERMUTE, and packets. -/
def Mach.collResume (m : Mach) (f pos : Nat) : Mach :=
  match (m.collOf f).running[pos]? with
  | none => m
  | some r =>
    let m1 :=
      if coOp r.item.words = 3 then m.startGather f r.item.id
      else if coOp r.item.words = 6 ∧ r.phase = 3 ∧ m.collFree f r then m.permute f r
      else m
    m1.collDrain f

/-- The running descriptor at a position ends, or having done its part enters its barrier. A MISMATCH ends it at once; one whose
packets failed does its part first (R365, R373, R380). -/
def Mach.collEnd (m : Mach) (f pos : Nat) : Mach :=
  match (m.collOf f).running[pos]? with
  | none => m
  | some r =>
    let id := r.item.id
    if r.ending.isSome then m.collFinish f id (r.ending.getD 0)
    else if !m.collWritable f r then m.collHazards f r
    else if !m.collSettled f id ∨ r.barrier.isSome then m
    else if r.code = 0x11 then m.collFinish f id r.code
    else if !m.collPartDone f r then m
    else if coOp r.item.words = 6 then m.collBarrier f id 2
    else if coGate r.item.words then m.collBarrier f id 1
    else m.collFinish f id r.code

/-- R366. The running descriptor at a position goes on, and completes when it can. -/
def Mach.collComplete (m : Mach) (f pos : Nat) : Mach := (m.collResume f pos).collEnd f pos

def execCollComplete (f : FieldId) (pos : Nat) (s : State) : Host.Outcome State Fault Refusal :=
  s.run true (fun m => m.collComplete f.val pos)

/-! ## Layers (R359, R374) -/

/-- The running GATHER_AHEAD of a context with a TAG. -/
def Mach.gatherOf (m : Mach) (u c tag : Nat) : Option CollRun :=
  (m.collOf (fieldOf u)).running.find? (fun r => r.item.ring.isNone &&
    decide (r.item.unit = u ∧ r.item.ctx = c ∧ coOp r.item.words = 3 ∧ coTag r.item.words = tag))

/-- Every element of a layer has been written. -/
def CollRun.layerDone (r : CollRun) (k : Nat) : Bool :=
  decide (k < coCount r.item.words) && covers (r.layers.getD k ⟨[], [], false⟩).cov 0 (layN r.item.words k)

/-- CO.LWAIT. -/
def Mach.coLwait (m : Mach) (u c : Nat) (gd ga : RegNo) : Mach :=
  let g := m.g u c ga
  match m.gatherOf u c (fld g 15 0) with
  | none => m.writeBack u c gd 1
  | some r => if r.layerDone (fld g 47 16) then m.writeBack u c gd 0 else m.sleep u c (.coLayer (fld g 15 0) (fld g 47 16))

/-- R374. CO.LWAIT. -/
def execCoLwait (u : UnitId) (c : CtxId) (gd ga : RegNo) (_imm : BitVec 13) (s : State) : Host.Outcome State Fault Refusal :=
  s.issue u c (fun m => m.coLwait u.val c.val gd ga)

/-- CO.LREL: the layer DIST + 1 further on starts. -/
def Mach.coLrel (m : Mach) (u c : Nat) (gd ga : RegNo) : Mach :=
  let f := fieldOf u
  let g := m.g u c ga
  match m.gatherOf u c (fld g 15 0) with
  | none => m.writeBack u c gd 1
  | some r =>
    if fld g 47 16 ≠ r.released ∨ coCount r.item.words ≤ r.released then m.writeBack u c gd 2
    else
      let m1 := m.modRun f r.item.id (fun r => { r with released := r.released + 1 })
      (((m1.startGather f r.item.id).collDrain f).wakeLayers f).writeBack u c gd 0

/-- R374. CO.LREL. -/
def execCoLrel (u : UnitId) (c : CtxId) (gd ga : RegNo) (_imm : BitVec 13) (s : State) : Host.Outcome State Fault Refusal :=
  s.issue u c (fun m => m.coLrel u.val c.val gd ga)

/-! ## Barriers (R373, R377, R380, R382, R383) -/

/-- A VSWAP takes effect (R383). -/
def Mach.viewSwap (m : Mach) (f v : Nat) : Mach :=
  let p := collPage f
  (m.setLive p Reg.COLL.VIEW_CUR (1 - m.live p Reg.COLL.VIEW_CUR v) v).setLive p Reg.COLL.VIEW_VER (m.live p Reg.COLL.VIEW_VER v + 1) v

/-- What the release of its generation does to a descriptor that waits for it. A rank that the record of a PERMUTE leaves out
holds no record of the group afterwards (log 65). -/
def Mach.runReleased (m : Mach) (f id : Nat) : Mach :=
  match m.runOf f id with
  | none => m
  | some r =>
    let w := r.item.words
    if coOp w = 8 then (m.viewSwap f (coView w)).collFinish f id r.code
    else if coOp w = 6 then
      if r.phase = 0 ∧ r.code = 0 then
        (if m.collFree f r then (m.permute f r).collDrain f
         else m.modRun f id (fun r => { r with phase := 3, barrier := none }))
      else if r.phase = 0 then m.collFinish f id r.code
      else
        let g := m.groupOf f (coGroup w)
        let y : GroupSt := if m.me f ∈ r.nextRanks then
            { rec? := some r.nextRanks, pend := none, epoch := (g.epoch + 1) % 2 ^ 32, seq := 0 }
          else GroupSt.reset
        ((m.setGroup f (coGroup w) y).collFinish f id r.code).collDrain f
    else m.collFinish f id r.code

/-- The descriptors that wait for a generation of an object: engine, identity, and gate of a closing one. -/
def Mach.collWaiting (m : Mach) (obj : Nat) (gen : Option Nat) : List (Nat × Nat × Option Bool) :=
  (upTo 4).flatMap (fun f => (m.collOf f).running.filterMap (fun r =>
    if coBar r.item.words = obj ∧ r.barrier.isSome ∧ (gen.isNone ∨ r.barrier = gen) then
      some (f, r.item.id, if coGate r.item.words then some r.gate else none)
    else none))

/-- A generation is released: the gate result of the module arrives, and every waiting descriptor goes on (R225, R373). -/
def Mach.collReleased (m : Mach) (obj gen : Nat) : Mach :=
  let ws := m.collWaiting obj (some gen)
  let gates := ws.filterMap (fun x => x.2.2)
  let m1 := if gates.isEmpty then m else m.gateResult (gates.any id)
  ws.foldl (fun m x => m.runReleased x.1 x.2.1) m1

/-- The object is destroyed: every waiting descriptor completes with ABORTED (R382). -/
def Mach.collAborted (m : Mach) (obj : Nat) : Mach :=
  (m.collWaiting obj none).foldl (fun m x => m.collFinish x.1 x.2.1 0x12) m

end Sys2Proof.Machine
end

