-- ==== Sys2Proof/Machine/Queue.lean ====
section
/-! DEFINITION. Stage maps (R197 to R203), the QU group and the queue waits (R205 to R207), and the movers (R208). -/

namespace Sys2Proof.Machine

def combPage (c : Nat) : Page := ⟨.comb, c⟩

/-! ## Stage maps as they are read (R198) -/

/-- A part record. -/
def partOf (w : List Nat) : Part :=
  { stage := wfld w 0 9 0, solver := wbit w 0 10, unit := wfld w 0 18 11, ctx := wfld w 0 22 19, hold := wfld w 0 26 23,
    fbase := wfld w 1 23 0 }

def partReserved (w : List Nat) : Bool := decide (wfld w 0 63 27 ≠ 0 ∨ wfld w 1 63 24 ≠ 0)

/-- A queue record. -/
def qrecOf (w : List Nat) : QRec :=
  { prod := wfld w 0 9 0, cons := wfld w 0 19 10, depth := wfld w 0 28 20, rsize := wfld w 0 41 29,
    pdepth := wfld w 0 44 42, init := wfld w 0 53 45, cbase := wfld w 1 23 0, pbase := wfld w 1 47 24 }

def qrecReserved (w : List Nat) : Bool :=
  decide (wfld w 0 63 54 ≠ 0 ∨ wfld w 1 63 48 ≠ 0 ∨ wordAt w 2 ≠ 0 ∨ wordAt w 3 ≠ 0)

def headerReserved (w : List Nat) : Bool :=
  decide (wfld w 0 63 48 ≠ 0 ∨ wfld w 1 23 22 ≠ 0 ∨ wfld w 1 63 48 ≠ 0) || (upTo 6).any (fun i => decide (wordAt w (2 + i) ≠ 0))

/-- Split n records of k words. -/
def records (k : Nat) : Nat → List Nat → List (List Nat)
  | 0, _ => []
  | n + 1, ws => ws.take k :: records k n (ws.drop k)

/-! ## Checks of a load (R199 to R201) -/

/-- The first index that a test accepts. -/
def firstIdx {α : Type} (p : Nat → α → Bool) (l : List α) : Option Nat :=
  (upTo l.length).find? (fun i => match l[i]? with | some x => p i x | none => false)

/-- End of the single-port banks, and the dual-port banks, of a unit of either kind. -/
def singleEnd (solver : Bool) : Nat := if solver then 0xE00000 else 0x380000
def dualEnd (solver : Bool) : Nat := if solver then 0x1000000 else 0x400000

/-- LIMIT for parts and queues; in test mode UNIT names physical units (R457). -/
def Mach.partLimit (m : Mach) (p : Part) : Bool :=
  decide ((if m.testMode then (if p.solver then 24 else 180) else if p.solver then 20 else 160) ≤ p.unit) || (m.partUnit p).isNone

def qrecLimit (q : QRec) : Bool :=
  decide (q.depth = 0 ∨ 256 < q.depth ∨ q.rsize = 0 ∨ 4096 < q.rsize ∨ 4 < q.pdepth ∨ q.depth < q.init)

/-- Two parts are on one unit. -/
def sameUnit (a b : Part) : Bool := decide (a.solver = b.solver ∧ a.unit = b.unit)

/-- PLACE: part i beside the parts before it. -/
def placeBad (tfoot sfoot : Nat) (ps : List Part) (i : Nat) (p : Part) : Bool :=
  let foot := if p.solver then sfoot else tfoot
  let before := (ps.take i).filter (sameUnit p)
  decide (singleEnd p.solver < p.fbase + foot ∨ 4 ≤ before.length) ||
    before.any (fun b => decide (b.ctx = p.ctx) || overlaps (b.fbase, foot) (p.fbase, foot))

/-- ENDS. -/
def endsBad (ps : List Part) (q : QRec) : Bool :=
  match ps[q.prod]?, ps[q.cons]? with
  | some a, some b => decide (q.pdepth = 0) != sameUnit a b
  | _, _ => true

/-- The rings of a queue: unit of the ring as its part, base and bytes. -/
def ringsOf (sm : StageMap) (q : QRec) : List (Part × Nat × Nat) :=
  (sm.part q.cons, q.cbase, q.depth * q.rsize * 64) ::
    (if q.pdepth = 0 then [] else [(sm.part q.prod, q.pbase, q.pdepth * q.rsize * 64)])

/-- RING: queue i beside the queues before it. -/
def ringBad (sm : StageMap) (i : Nat) (q : QRec) : Bool :=
  let before := (sm.queues.take i).flatMap (ringsOf sm)
  let clash := fun (x y : Part × Nat × Nat) => sameUnit x.1 y.1 && overlaps x.2 y.2
  let mine := ringsOf sm q
  mine.any (fun x => decide (x.2.1 % 64 ≠ 0 ∨ x.2.1 < singleEnd x.1.solver ∨ dualEnd x.1.solver < x.2.1 + x.2.2) ||
    before.any (clash x)) ||
  (match mine with | [x, y] => clash x y | _ => false)

/-- The parts reachable from a set by following queues, in at most n rounds. -/
def reach (qs : List QRec) : Nat → List Nat → List Nat
  | 0, s => s
  | n + 1, s =>
    let t := qs.foldl (fun s q => if q.prod ∈ s ∧ q.cons ∉ s then q.cons :: s else s) s
    if t.length = s.length then s else reach qs n t

/-- The same against the direction of the queues. -/
def reachBack (qs : List QRec) : Nat → List Nat → List Nat
  | 0, s => s
  | n + 1, s =>
    let t := qs.foldl (fun s q => if q.cons ∈ s ∧ q.prod ∉ s then q.prod :: s else s) s
    if t.length = s.length then s else reachBack qs n t

/-- A group of parts and queues holds fewer records than may be in flight in it. -/
def groupBad (sm : StageMap) (ps : List Nat) (qs : List QRec) : Bool :=
  decide ((qs.map (fun q => q.depth + q.pdepth)).sum < (qs.map (·.init)).sum + (ps.map (fun p => (sm.part p).hold)).sum)

/-- Queue i is the lowest queue of a loop group that breaks R201. -/
def loopBad (sm : StageMap) (i : Nat) (q : QRec) : Bool :=
  let n := sm.parts.length
  let back := reachBack sm.queues n [q.prod]
  let grp := (reach sm.queues n [q.prod]).filter (fun p => decide (p ∈ back))
  let own := decide (q.prod = q.cons) && groupBad sm [q.prod] [q]
  let inGrp := fun (r : QRec) => decide (r.prod ∈ grp ∧ r.cons ∈ grp)
  own || (inGrp q && !(sm.queues.take i).any inGrp && groupBad sm grp (sm.queues.filter inGrp))

/-- The checks after FETCH and before RESERVED, in table order: code and index. -/
def Mach.mapCheck (m : Mach) (h : List Nat) (sm : StageMap) : Nat × Nat :=
  let np := sm.parts.length
  let nq := sm.queues.length
  if sm.mapId = 0 ∨ np = 0 ∨ 720 < np ∨ nq = 0 ∨ 1024 < nq ∨ sm.tfoot % 64 ≠ 0 ∨ 0x380000 < sm.tfoot ∨ sm.sfoot % 64 ≠ 0 ∨
      0xE00000 < sm.sfoot then (2, 0)
  else match firstIdx (fun _ p => m.partLimit p) sm.parts with
  | some i => (2, i)
  | none => match firstIdx (fun _ q => qrecLimit q) sm.queues with
  | some i => (2, i)
  | none => match firstIdx (placeBad sm.tfoot sm.sfoot sm.parts) sm.parts with
  | some i => (3, i)
  | none => match firstIdx (fun _ q => endsBad sm.parts q) sm.queues with
  | some i => (4, i)
  | none => match firstIdx (ringBad sm) sm.queues with
  | some i => (5, i)
  | none => match firstIdx (loopBad sm) sm.queues with
  | some i => (6, i)
  | none => if headerReserved h then (7, 0) else (0, 0)

/-- Read words at a map address; none when unreadable or poisoned. -/
def Mach.mapWords (m : Mach) (l : Loc) (n : Nat) : Option (List Nat) :=
  let d := m.locPeek l (8 * n)
  if !m.locInside l (8 * n) || d.any (·.2) then none else some (wordsOf n (d.map (·.1)))

/-- The location of a stage map: pool scratch or memory. -/
def Mach.mapLoc (m : Mach) (a : Nat) : Option Loc :=
  let sp := natBits a 63 60
  if a % 64 ≠ 0 ∨ (sp ≠ 3 ∧ sp ≠ 4) ∨ spaceReserved a ∨ m.spaceBeyond a then none else m.spaceLoc 0 a

/-- The result of a load: error, index, map, and the bytes read. -/
def Mach.loadMap (m : Mach) (l : Loc) : (Nat × Nat) × Option StageMap × Nat :=
  match m.mapWords l 8 with
  | none => ((1, 0), none, 64)
  | some h =>
    let np := wfld h 0 31 16
    let nq := wfld h 0 47 32
    let qa := 64 + ceilDiv (16 * np) 64 * 64
    match m.mapWords (l.plus 64) (2 * np), m.mapWords (l.plus qa) (4 * nq) with
    | some pw, some qw =>
      let pr := records 2 np pw
      let qr := records 4 nq qw
      let sm : StageMap := { mapId := wfld h 0 15 0, tfoot := wfld h 1 21 0, sfoot := wfld h 1 47 24,
                             parts := pr.map partOf, queues := qr.map qrecOf }
      let c := m.mapCheck h sm
      let c' := if c.1 ≠ 0 then c
        else match firstIdx (fun _ r => partReserved r) pr with
          | some i => (7, i)
          | none => match firstIdx (fun _ r => qrecReserved r) qr with
            | some i => (7, i)
            | none => (0, 0)
      (c', if c'.1 = 0 then some sm else none, qa + 32 * nq)
    | _, _ => ((1, 0), none, qa + 32 * nq)

/-- A write of SMLOAD.GO (R200, R215). -/
def Mach.smloadGo (m : Mach) (c : Nat) : Mach :=
  let p := combPage c
  if (m.hdr p).pending then m.raise p 3
  else if m.live p Reg.COMB.SMLOAD_STATUS_STATE = 1 then m
  else
    let m1 := (m.setReg p 0x910 0).setLive p Reg.COMB.SMLOAD_STATUS_STATE 1
    m1.setCombMaps c { m1.combMaps c with loading := some (m1.reg p 0x900), loaded := none }

/-- R200. -/
def execSmloadGo (n : CombId) (w : RegWrite) (s : State) : Host.Outcome State Fault Refusal :=
  s.run true (fun m => m.ownedLive (combPage n.val) 0x908 w (fun m => if bit w.bits 0 then m.smloadGo n.val else m))

/-- The end of a load with its result (R200). -/
def Mach.smloadEnd (m : Mach) (c : Nat) (r : Nat × Nat) (sm : Option StageMap) : Mach :=
  let p := combPage c
  let m1 := m.setCombMaps c { m.combMaps c with loading := none, loaded := sm }
  match sm with
  | some x => (m1.setLive p Reg.COMB.SMLOAD_STATUS_STATE 2).setLive p Reg.COMB.SMLOAD_STATUS_MAPID x.mapId
  | none => (((m1.setLive p Reg.COMB.SMLOAD_STATUS_STATE 3).setLive p Reg.COMB.SMLOAD_STATUS_ERR r.1).setLive p
      Reg.COMB.SMLOAD_STATUS_INDEX r.2).raise p 16

/-- R200. A load ends; a read that the memory holds back ends later. -/
def Mach.smloadDone (m : Mach) (c : Nat) : Mach :=
  match (m.combMaps c).loading with
  | none => m
  | some a =>
    match m.mapLoc a.toNat with
    | none => m.smloadEnd c (1, 0) none
    | some l =>
      let r := m.loadMap l
      if m.locHeld l r.2.2 then m
      else
        let i := m.locInject l r.2.2
        let m1 := i.2.locTouch l r.2.2 false
        if i.1 then m1.smloadEnd c (1, 0) none else m1.smloadEnd c r.1 r.2.1

/-- R200. -/
def execSmloadDone (n : CombId) (s : State) : Host.Outcome State Fault Refusal := s.run true (fun m => m.smloadDone n.val)

/-! ## Maps at a commit (R202, R203) -/

/-- GO of a COMB page keeps the rule of R202. -/
def Mach.mapCommitOk (m : Mach) (c : Nat) : Bool :=
  let id := m.live (combPage c) Reg.COMB.STAGEMAP_MAPID
  match (m.combMaps c).loaded with
  | some x => decide (id = 0 ∨ id = x.mapId)
  | none => decide (id = 0)

/-- An accepted GO captures the loaded map (R202). -/
def Mach.captureMap (m : Mach) (c : Nat) : Mach :=
  let x := m.combMaps c
  m.setCombMaps c { x with captured := if m.live (combPage c) Reg.COMB.STAGEMAP_MAPID = 0 then none else x.loaded }

/-- A queue is carried into a new map (R203). -/
def carriedBy (sm : StageMap) (q : LiveQueue) : Bool :=
  match sm.queues[q.key % 1024]? with
  | none => false
  | some r =>
    let same := fun (a b : Part) => decide (a.solver = b.solver ∧ a.unit = b.unit ∧ a.ctx = b.ctx)
    decide (r.depth = q.qr.depth ∧ r.rsize = q.qr.rsize ∧ r.pdepth = q.qr.pdepth ∧ r.cbase = q.qr.cbase ∧
      r.pbase = q.qr.pbase) && same (sm.part r.prod) q.prod && same (sm.part r.cons) q.cons

/-- Records that a queue holds. -/
def QState.level (q : QState) : Nat := (q.delivered - q.popped) + (q.pushed - q.taken)

/-- Records of a queue in both rings: with PDEPTH = 0 a push is a delivery. -/
def QState.now (q : QState) (pdepth : Nat) : Nat :=
  if pdepth = 0 then q.delivered - q.popped else q.level

/-- The wait of a context at a queue ends with a code in its gD (R206). -/
def Mach.endWait (m : Mach) (u c gd code : Nat) : Mach :=
  ((m.waited u c).writeBack u c (BitVec.ofNat 5 gd) (w64 code)).wake u c

/-- A wait of an end of a queue ends with REMAPPED (R206). -/
def Mach.remapWait (m : Mach) (p : Part) (key : Nat) : Mach :=
  match m.partUnit p with
  | none => m
  | some u =>
    match (m.ctx u p.ctx).wait with
    | .qin k gd => if k = key then m.endWait u p.ctx gd 5 else m
    | .qout k gd => if k = key then m.endWait u p.ctx gd 5 else m
    | _ => m

/-- A queue is emptied: its records are discarded and counted, and its waits end (R203, R206, R407). -/
def Mach.emptyQueue (m : Mach) (c : Nat) (q : LiveQueue) : Mach :=
  let n := (m.qst q.key).now q.qr.pdepth
  let m1 := (m.remapWait q.prod q.key).remapWait q.cons q.key
  let m2 : Mach := { m1 with queue := { m1.queue with qs := SMap.erase m1.queue.qs q.key,
                                                      pushes := m1.queue.pushes.filter (fun k => decide (k ≠ q.key)) } }
  let m3 := m2.tapLost 0 (q.key % 1024)
  if n = 0 then m3 else (m3.bump (combPage c) Reg.COMB.Q_DISCARD_TOTAL n).raise (combPage c) 17

/-- The captured map comes into force on a comb (R202, R203): queues that it does not carry are emptied, and its other
queues start with their INIT records and with fields of zero (R216). A check unit taps the number of a queue wherever it is in
force (R403, R407). -/
def Mach.applyMap (m : Mach) (c : Nat) : Mach :=
  let x := m.combMaps c
  let old : List LiveQueue := match x.inForce with
    | some sm => m.queuesOn sm c
    | none => []
  let kept : List LiveQueue := match x.captured with
    | some sm => old.filter (carriedBy sm)
    | none => []
  let gone := old.filter (fun q => decide (q ∉ kept))
  let m1 := gone.foldl (fun m q => m.emptyQueue c q) m
  let m2 := m1.setCombMaps c { x with inForce := x.captured, captured := none }
  let news : List LiveQueue := match x.captured with
    | some sm => (m.queuesOn sm c).filter (fun q => !kept.any (fun k => decide (k.key = q.key)))
    | none => []
  let m3 := news.foldl (fun m q => m.setQst q.key (QState.fresh q.qr.init q.qr.pdepth)) m2
  ((gone ++ news).filter (fun q => m3.liveQueues.any (fun l => decide (l.key % 1024 = q.key % 1024)))).foldl
    (fun m q => m.tapBack 0 (q.key % 1024)) m3

/-! ## Ends of a queue (R206) -/

/-- Which operation: the producer's, the consumer's, or either's. -/
inductive QEnd where
  | prod | cons | any
deriving DecidableEq, Repr

/-- The queue that a context may operate, or the code of R206. -/
def Mach.queueEnd (m : Mach) (u c q : Nat) (e : QEnd) : Except Nat LiveQueue :=
  match m.combOf u >>= m.mapOf with
  | none => .error 2
  | some sm =>
    match sm.queues[q]? with
    | none => .error 2
    | some r =>
      let me := fun (p : Part) => decide (m.partUnit p = some u ∧ p.ctx = c)
      let pr := sm.part r.prod
      let co := sm.part r.cons
      let ok := match e with | .prod => me pr | .cons => me co | .any => me pr || me co
      if !ok then .error 2
      else
        let other := if me pr && decide (e ≠ .cons) then co else pr
        match m.mapOf (m.partComb other) with
        | none => .error 3
        | some om =>
          if om.mapId ≠ sm.mapId then .error 3
          else if (m.partUnit other).isNone then .error 4
          else .ok ⟨m.partComb co * 1024 + q, r, pr, co⟩

/-- The waits of a queue that its ends can no longer operate end at once with their code (R206): one context. A number that names
another queue by now names none that the context waits at. -/
def Mach.settleWait (m : Mach) (u c : Nat) : Mach :=
  let close := fun (key gd : Nat) (e : QEnd) =>
    match m.queueEnd u c (key % 1024) e with
    | .error k => m.endWait u c gd k
    | .ok lq => if lq.key = key then m else m.endWait u c gd 2
  match (m.ctx u c).wait with
  | .qin q gd => close q gd .cons
  | .qout q gd => close q gd .prod
  | _ => m

/-- The same for every context, once the maps of all combs stand. -/
def Mach.settleQueues (m : Mach) : Mach :=
  (m.core.ctxs.map (·.1)).foldl (fun m k => m.settleWait (k / 16) (k % 16)) m

/-- A slot that the next push publishes is free. -/
def QState.room (s : QState) (r : QRec) : Bool :=
  if r.pdepth = 0 then decide (s.delivered - s.popped < r.depth) else decide (s.pushed - s.taken < r.pdepth)

/-- Pond address of the slot that the next push publishes. -/
def pushSlot (s : QState) (r : QRec) : Nat :=
  if r.pdepth = 0 then r.cbase + s.pushed % r.depth * (r.rsize * 64) else r.pbase + s.pushed % r.pdepth * (r.rsize * 64)

/-- Pond address of the slot that the next pop releases. -/
def popSlot (s : QState) (r : QRec) : Nat := r.cbase + s.popped % r.depth * (r.rsize * 64)

/-- A state with its level recorded in HWM (R211). -/
def QState.marked (s : QState) (r : QRec) : QState := { s with hwm := max s.hwm (s.now r.pdepth) }

/-- The context waits at the consumer's or the producer's end of the queue of a key. -/
def waitsIn (key : Nat) (w : Wait) : Bool := match w with | .qin k _ => decide (k = key) | _ => false
def waitsOut (key : Nat) (w : Wait) : Bool := match w with | .qout k _ => decide (k = key) | _ => false

/-- Wake the context at an end of a queue when it waits for it: the producer's end or the consumer's. -/
def Mach.wakeEnd (m : Mach) (key : Nat) (p : Part) (prod : Bool) : Mach :=
  match m.partUnit p with
  | none => m
  | some u =>
    if (if prod then waitsOut key else waitsIn key) (m.ctx u p.ctx).wait then
      (m.waitCounted u key prod).wake u p.ctx
    else m

/-- A record is delivered: counted, shown to taps, and its consumer wakes (R207, R213). -/
def Mach.delivered (m : Mach) (lq : LiveQueue) (s : QState) : Mach :=
  let m1 := m.setQst lq.key (s.marked lq.qr)
  let a := lq.qr.cbase + (s.delivered - 1) % lq.qr.depth * (lq.qr.rsize * 64)
  let m2 := match m1.partUnit lq.cons with
    | none => m1
    | some u => if (m1.tappers 0 (lq.key % 1024)).isEmpty then m1
        else m1.tap 0 (lq.key % 1024) (m1.rdBytes (lq.qr.rsize * 64) (pondKey u a))
  m2.wakeEnd lq.key lq.cons false

/-- QU.PUSH on a queue (R205, R207). -/
def Mach.push (m : Mach) (lq : LiveQueue) : Nat × Mach :=
  let s := m.qst lq.key
  if !s.room lq.qr then (1, m)
  else if lq.qr.pdepth = 0 then
    (0, m.delivered lq { s with pushed := s.pushed + 1, delivered := s.delivered + 1, records := s.records + 1 })
  else
    let m1 := m.setQst lq.key (QState.marked { s with pushed := s.pushed + 1 } lq.qr)
    (0, { m1 with queue := { m1.queue with pushes := m1.queue.pushes ++ [lq.key] } })

/-- QU.POP on a queue (R205, R207). -/
def Mach.pop (m : Mach) (lq : LiveQueue) : Nat × Mach :=
  let s := m.qst lq.key
  if s.delivered ≤ s.popped then (1, m)
  else
    let m1 := m.setQst lq.key { s with popped := s.popped + 1 }
    (0, if lq.qr.pdepth = 0 then m1.wakeEnd lq.key lq.prod true else m1)

/-- The queue number that an instruction names. -/
def queueNo (g : Word) : Nat := fld g 9 0

/-- A QU instruction: IMM must be zero; codes 0x2 to 0x4 take the place of the result (R205, R206). -/
def Mach.qu (m : Mach) (u c : Nat) (gd ga : RegNo) (imm : BitVec 13) (e : QEnd) (all : Bool)
    (f : Mach → LiveQueue → Word × Mach) : Mach :=
  if imm ≠ 0 then m.fault u c 0x01
  else match m.queueEnd u c (queueNo (m.g u c ga)) e with
    | .error k => m.writeBack u c gd (if all then ~~~(0 : Word) else w64 k)
    | .ok lq => let r := f m lq; r.2.writeBack u c gd r.1

/-- R205. QU.PSLOT. -/
def execQuPslot (u : UnitId) (c : CtxId) (gd ga : RegNo) (imm : BitVec 13) (s : State) : Host.Outcome State Fault Refusal :=
  s.issue u c (fun m => m.qu u.val c.val gd ga imm .prod true (fun m lq => (w64 (pushSlot (m.qst lq.key) lq.qr), m)))

/-- R207. QU.PUSH: it takes effect after every earlier store of the context has reached the pond; until then it does not
complete. -/
def execQuPush (u : UnitId) (c : CtxId) (gd ga : RegNo) (imm : BitVec 13) (s : State) : Host.Outcome State Fault Refusal :=
  s.issue u c (fun m =>
    if imm = 0 ∧ (m.unit u.val).held.any (fun h => decide (h.ctx = c.val)) then m
    else m.qu u.val c.val gd ga imm .prod false (fun m lq => let r := m.push lq; (w64 r.1, r.2)))

/-- R205. QU.CSLOT. -/
def execQuCslot (u : UnitId) (c : CtxId) (gd ga : RegNo) (imm : BitVec 13) (s : State) : Host.Outcome State Fault Refusal :=
  s.issue u c (fun m => m.qu u.val c.val gd ga imm .cons true (fun m lq => (w64 (popSlot (m.qst lq.key) lq.qr), m)))

/-- R207. QU.POP. -/
def execQuPop (u : UnitId) (c : CtxId) (gd ga : RegNo) (imm : BitVec 13) (s : State) : Host.Outcome State Fault Refusal :=
  s.issue u c (fun m => m.qu u.val c.val gd ga imm .cons false (fun m lq => let r := m.pop lq; (w64 r.1, r.2)))

/-- The word of QU.LEVEL. -/
def levelWord (s : QState) (r : QRec) : Word :=
  let have' := s.delivered - s.popped
  let free := if r.pdepth = 0 then r.depth - have' else r.pdepth - (s.pushed - s.taken)
  w64 (have' + free * 2 ^ 16)

/-- R205. QU.LEVEL. -/
def execQuLevel (u : UnitId) (c : CtxId) (gd ga : RegNo) (imm : BitVec 13) (s : State) : Host.Outcome State Fault Refusal :=
  s.issue u c (fun m => m.qu u.val c.val gd ga imm .any true (fun m lq => (levelWord (m.qst lq.key) lq.qr, m)))

/-- WAIT.QIN and WAIT.QOUT (R206). -/
def Mach.waitQueue (m : Mach) (u c : Nat) (gd ga : RegNo) (isIn : Bool) : Mach :=
  let q := queueNo (m.g u c ga)
  match m.queueEnd u c q (if isIn then .cons else .prod) with
  | .error k => m.writeBack u c gd (w64 k)
  | .ok lq =>
    let s := m.qst lq.key
    let ready := if isIn then decide (s.popped < s.delivered) else s.room lq.qr
    if ready then m.writeBack u c gd 0
    else m.sleep u c (if isIn then .qin lq.key gd.toNat else .qout lq.key gd.toNat)

/-- R206. WAIT.QIN. -/
def execWaitQin (u : UnitId) (c : CtxId) (gd ga _gb : RegNo) (s : State) : Host.Outcome State Fault Refusal :=
  s.issue u c (fun m => m.waitQueue u.val c.val gd ga true)

/-- R206. WAIT.QOUT. -/
def execWaitQout (u : UnitId) (c : CtxId) (gd ga _gb : RegNo) (s : State) : Host.Outcome State Fault Refusal :=
  s.issue u c (fun m => m.waitQueue u.val c.val gd ga false)

/-! ## Movers (R208) -/

/-- A queue operates: both combs have the same map in force (R202). -/
def Mach.operates (m : Mach) (lq : LiveQueue) : Bool :=
  match m.mapOf (m.partComb lq.prod), m.mapOf (m.partComb lq.cons) with
  | some a, some b => decide (a.mapId = b.mapId)
  | _, _ => false

/-- A queue whose next record can start: a record stands in the producer ring, none of the queue is moving, and the
destination has a free slot. -/
def Mach.canStart (m : Mach) (lq : LiveQueue) : Bool :=
  let s := m.qst lq.key
  m.operates lq && !s.moving && decide (lq.qr.pdepth ≠ 0 ∧ s.taken < s.pushed ∧ s.delivered - s.popped < lq.qr.depth) &&
    (m.partUnit lq.prod).isSome && (m.partUnit lq.cons).isSome

/-- The queues of a mover. -/
def Mach.moverQueues (m : Mach) (u : Nat) : List LiveQueue :=
  m.liveQueues.filter (fun l => decide (m.partUnit l.prod = some u))

/-- The next record of a queue is the first in push order of its mover that can start, and the mover is free. -/
def Mach.moverTurn (m : Mach) (lq : LiveQueue) : Bool :=
  match m.partUnit lq.prod with
  | none => false
  | some u =>
    let qs := m.moverQueues u
    !qs.any (fun l => (m.qst l.key).moving) &&
      decide ((m.queue.pushes.find? (fun k => qs.any (fun l => decide (l.key = k) && m.canStart l))) = some lq.key)

/-- Remove the first occurrence. -/
def dropFirst (k : Nat) : List Nat → List Nat
  | [] => []
  | x :: l => if x = k then l else x :: dropFirst k l

/-- A record of a queue starts. -/
def Mach.moverStart (m : Mach) (q : Nat) : Mach :=
  if !m.coresRun then m
  else match m.liveQueues.find? (fun l => decide (l.key % 1024 = q) && m.canStart l && m.moverTurn l) with
    | none => m
    | some lq =>
      let m1 := m.setQst lq.key { m.qst lq.key with moving := true }
      { m1 with queue := { m1.queue with pushes := dropFirst lq.key m1.queue.pushes } }

/-- R208. -/
def execMoverStart (q : QueueId) (s : State) : Host.Outcome State Fault Refusal := s.run true (fun m => m.moverStart q.val)

/-- Copy bytes with their marks between ponds through port B, which R209 does not guard; what is delivered poisoned is poisoned whole. -/
def Mach.moverCopy (m : Mach) (u a v b n : Nat) (bad : Bool) : Mach :=
  (joinBytes (List.zipWith (fun i x => (b + i, (x.1, x.2 || bad))) (upTo n) (m.locPeek (.pond u a) n))).foldl
    (fun m r => m.wrBytes (pondKey v r.1) r.2.1 r.2.2) m

/-- The moving record is delivered and its producer slot becomes free (R207, R208), unless an instruction in the arrays of the
consumer is to write there (R85), a row is being repaired (R418), or a unit is being switched (R421). -/
def Mach.moverDeliver (m : Mach) (q : Nat) : Mach :=
  match m.liveQueues.find? (fun l => decide (l.key % 1024 = q) && (m.qst l.key).moving) with
  | none => m
  | some lq =>
    match m.partUnit lq.prod, m.partUnit lq.cons with
    | some u, some v =>
      let s := m.qst lq.key
      let n := lq.qr.rsize * 64
      let a := lq.qr.pbase + s.taken % lq.qr.pdepth * n
      let b := lq.qr.cbase + s.delivered % lq.qr.depth * n
      if m.computeUp && !m.outGuarded v b n && !m.locHeld (.pond u a) n && !m.locHeld (.pond v b) n then
        let rd := m.pondInject u (a / 64)
        let m1 := rd.2.moverCopy u a v b n rd.1
        (m1.delivered lq { s with delivered := s.delivered + 1, records := s.records + 1, moving := false }).wakeEnd lq.key
          lq.prod true
      else if m.computeUp && m.outGuarded v b n then m.hazard v
      else m
    | _, _ => m

/-- R208. -/
def execMoverDeliver (q : QueueId) (s : State) : Host.Outcome State Fault Refusal := s.run true (fun m => m.moverDeliver q.val)

end Sys2Proof.Machine
end

