-- ==== Sys2Proof/Machine/System.lean ====
section
/-! DEFINITION. The system functions that concern the context alone (R116, R125, R329), and the commands of CTX[c] (R120).
The waits on queues, DMA and barriers and the fences stand with what they wait for. -/

namespace Sys2Proof.Machine

/-- R116. YIELD: the context stays ready and the core goes to the next. -/
def Mach.yield (m : Mach) (u c : Nat) : Mach :=
  let m1 := m.advance u c
  m1.setCtx u c { m1.ctx u c with state := .ready }

def execYield (u : UnitId) (c : CtxId) (_gd _ga _gb : RegNo) (s : State) : Host.Outcome State Fault Refusal :=
  s.issue u c (fun m => m.yield u.val c.val)

/-- R120. The HALT instruction: HALTED, with PC at the next instruction. -/
def Mach.haltSelf (m : Mach) (u c : Nat) : Mach :=
  let m1 := m.advance u c
  m1.setCtx u c { m1.ctx u c with state := .halted }

def execHalt (u : UnitId) (c : CtxId) (_gd _ga _gb : RegNo) (s : State) : Host.Outcome State Fault Refusal :=
  s.issue u c (fun m => m.haltSelf u.val c.val)

/-- R329. WAIT.TIME: 0 into gd once hive time has reached ga; until then a descheduling wait. -/
def Mach.waitTime (m : Mach) (u c : Nat) (gd ga : RegNo) : Mach :=
  let t := m.g u c ga
  if t.toNat ≤ m.now then m.writeBack u c gd 0 else m.sleep u c (.time t)

def execWaitTime (u : UnitId) (c : CtxId) (gd ga _gb : RegNo) (s : State) : Host.Outcome State Fault Refusal :=
  s.issue u c (fun m => m.waitTime u.val c.val gd ga)

/-- R329. A WAIT.TIME whose instant hive time has reached makes its context ready. -/
def Mach.expireTime (m : Mach) (u c : Nat) : Mach :=
  match (m.ctx u c).state, (m.ctx u c).wait with
  | .waiting, .time t => if t.toNat ≤ m.now then m.wake u c else m
  | _, _ => m

def execWaitTimeExpire (u : UnitId) (c : CtxId) (s : State) : Host.Outcome State Fault Refusal :=
  s.run true (fun m => m.expireTime u.val c.val)

/-- R125. FLAGRD. -/
def execFlagrd (u : UnitId) (c : CtxId) (gd _ga _gb : RegNo) (s : State) : Host.Outcome State Fault Refusal :=
  s.issue u c (fun m => m.writeBack u.val c.val gd ((m.ctx u.val c.val).flags.zeroExtend 64))

/-- Clear the flags set in a word (R125 FLAGCLR, R137 W1C). -/
def Mach.clearFlags (m : Mach) (u c : Nat) (w : Word) : Mach :=
  m.setCtx u c { m.ctx u c with flags := (m.ctx u c).flags &&& ~~~(w.truncate 8) }

/-- R125. FLAGCLR. -/
def execFlagclr (u : UnitId) (c : CtxId) (_gd ga _gb : RegNo) (s : State) : Host.Outcome State Fault Refusal :=
  s.issue u c (fun m => (m.clearFlags u.val c.val (m.g u.val c.val ga)).advance u.val c.val)

/-- R125. TIMERD: hive time in ns. -/
def execTimerd (u : UnitId) (c : CtxId) (gd _ga _gb : RegNo) (s : State) : Host.Outcome State Fault Refusal :=
  s.issue u c (fun m => m.writeBack u.val c.val gd m.time.ns)

/-- Power the vector unit down once nothing is in flight (R135). -/
def Mach.vpdn (m : Mach) (u : Nat) : Mach :=
  let x := m.unit u
  if x.vDown then m
  else if x.inFlight.isEmpty then m.setUnit u { x with vDown := true } else m.setUnit u { x with vPend := true }

/-- R135. VPDN: the vector unit is powered down; its registers keep their contents. -/
def execVpdn (u : UnitId) (c : CtxId) (_gd _ga _gb : RegNo) (s : State) : Host.Outcome State Fault Refusal :=
  s.issue u c (fun m => (m.vpdn u.val).advance u.val c.val)

/-! ## Commands of CTX[c], R120 -/

/-- A command or PC write that the context's state does not allow (R120). -/
def Mach.ctxBusy (m : Mach) (u : Nat) : Mach := m.raise (unitPage u) 19

/-- START (R120). -/
def Mach.ctxStart (m : Mach) (u c : Nat) : Mach :=
  if (m.ctx u c).state = .halted then
    m.endIdle.setCtx u c { m.endIdle.ctx u c with state := .ready, wait := .none }
  else m.ctxBusy u

/-- HALT (R120): at once at an instruction boundary; in WAIT.BAR after the release. -/
def Mach.ctxHalt (m : Mach) (u c : Nat) : Mach :=
  let x := m.ctx u c
  match x.state, x.wait with
  | .waiting, .bar .. => m.setCtx u c { x with haltAtRelease := true }
  | .waiting, _ => (m.waited u c).setCtx u c { x with state := .halted, wait := .none }
  | .ready, _ => m.setCtx u c { x with state := .halted }
  | .running, _ => m.setCtx u c { x with state := .halted }
  | _, _ => m.ctxBusy u

/-- RESET (R120): the reset state; the held tile is discarded and vector ownership released without a save. What the
context has issued to queues goes on, so its counts stay; a reduction in progress goes on without it, to the end of its
flags in this context. DEDUCED, log 95. -/
def Mach.ctxReset (m : Mach) (u c : Nat) : Mach :=
  let x := m.ctx u c
  if x.state = .halted ∨ x.state = .faulted then
    let m1 := m.setCtx u c { Ctx.reset with mx := x.mx, sv := x.sv, co := x.co, dma := x.dma }
    let y := (m1.unit u).unlink c
    let m2 := m1.setUnit u { y with vOwner := if y.vOwner = some c then none else y.vOwner,
                                    vMove := if y.vMove = some c then none else y.vMove,
                                    vImage := SMap.erase y.vImage c }
    let a := SMap.get m2.mx (fun _ => MxSt.reset) u
    let a' : MxSt := { a with tiles := SMap.set a.tiles (fun _ => none) c none, slots := SMap.erase a.slots c,
                              resident := if a.resident = some c then none else a.resident }
    let m3 : Mach := { m2 with mx := SMap.set m2.mx (fun _ => MxSt.reset) u a' }
    if y.vMove = some c then m3.wakeIf u (fun w => decide (w = .vecMove)) else m3
  else m.ctxBusy u

/-- A write of CTX[c].CMD (R120): exactly one command bit acts; reserved bits are refused (R40). -/
def Mach.ctxCmd (m : Mach) (u c : Nat) (v : Word) : Mach :=
  let p := unitPage u
  let off := 0xB08 + 16 * c
  if setsReserved p.blk off v then m.cfgReject p 2
  else
    match bit v 8, bit v 9, bit v 10 with
    | false, false, false => m
    | true, false, false => m.ctxStart u c
    | false, true, false => m.ctxHalt u c
    | false, false, true => m.ctxReset u c
    | _, _, _ => m.ctxBusy u

/-- The PC of a halted context is written: a reduction that it left in progress at another instruction is no longer its own. Log
95. -/
def Mach.writePc (m : Mach) (u c v : Nat) : Mach :=
  (if (m.ctx u c).pc.toNat = v then m else m.setUnit u ((m.unit u).unlink c)).setPc u c v

/-- A write of CTX[c].PC: only while HALTED (R120). -/
def Mach.ctxPcWrite (m : Mach) (u c : Nat) (v : Word) : Mach :=
  if pondSize u ≤ v.toNat then m.cfgReject (unitPage u) 2
  else if (m.ctx u c).state = .halted then m.writePc u c v.toNat
  else m.ctxBusy u

/-- R120. A write of CTX[c].CMD with START. -/
def execCtxStart (u : UnitId) (c : CtxId) (w : RegWrite) (s : State) : Host.Outcome State Fault Refusal :=
  s.run (bit w.bits 8) (fun m => m.owned w.src (unitPage u.val) (fun m => m.ctxCmd u.val c.val w.bits))

/-- R120. A write of CTX[c].CMD with HALT. -/
def execCtxHalt (u : UnitId) (c : CtxId) (w : RegWrite) (s : State) : Host.Outcome State Fault Refusal :=
  s.run (bit w.bits 9) (fun m => m.owned w.src (unitPage u.val) (fun m => m.ctxCmd u.val c.val w.bits))

/-- R120. A write of CTX[c].CMD with RESET. -/
def execCtxReset (u : UnitId) (c : CtxId) (w : RegWrite) (s : State) : Host.Outcome State Fault Refusal :=
  s.run (bit w.bits 10) (fun m => m.owned w.src (unitPage u.val) (fun m => m.ctxCmd u.val c.val w.bits))

/-- R120. A write of CTX[c].PC. -/
def execCtxPcWrite (u : UnitId) (c : CtxId) (w : RegWrite) (s : State) : Host.Outcome State Fault Refusal :=
  s.run true (fun m => m.owned w.src (unitPage u.val) (fun m =>
    m.ctxPcWrite u.val c.val (w.merge ((m.ctx u.val c.val).pc.zeroExtend 64))))

end Sys2Proof.Machine
end

