-- ==== Sys2Proof/Machine/Ring.lean ====
section
/-! DEFINITION. The hardware rings (R436 to R444, R449): doorbells, the window, fetching, the operations and their
completions. -/

namespace Sys2Proof.Machine

/-! ## Submission entries (R439, R440) -/

def seOp (w : List Nat) : Nat := wfld w 0 3 0
def seFence (w : List Nat) : Bool := wbit w 0 4
def seAt (w : List Nat) : Bool := wbit w 0 5
def seTc0 (w : List Nat) : Bool := wbit w 0 6
def seIrq (w : List Nat) : Bool := wbit w 0 7
def seTag (w : List Nat) : Nat := wfld w 0 47 32
def seHaddr (w : List Nat) : Nat := wordAt w 1
def seMaddr (w : List Nat) : Nat := wordAt w 2
def seLen (w : List Nat) : Nat := wfld w 3 31 0
def seKreq (w : List Nat) : Nat := wfld w 3 39 32
def sePc (w : List Nat) : Nat := wfld w 4 21 0
def seSpace (w : List Nat) : Nat := natBits (seMaddr w) 63 60

/-- A reserved bit or OP. The nonce words are fields of a KREQ ATTEST only. -/
def seReserved (w : List Nat) : Bool :=
  decide (9 ≤ seOp w ∨ wfld w 0 31 8 ≠ 0 ∨ wfld w 0 63 48 ≠ 0 ∨ wfld w 3 63 40 ≠ 0 ∨ wfld w 4 63 29 ≠ 0) ||
    (!decide (seOp w = 8 ∧ seKreq w = 1) && decide (wordAt w 6 ≠ 0 ∨ wordAt w 7 ≠ 0))

/-- An operation that does not suit the ring's target, its MADDR or its request code. -/
def seFormat (kind : Nat) (w : List Nat) : Bool :=
  let op := seOp w
  if op = 3 ∨ op = 4 ∨ op = 5 then decide (kind ≠ 0)
  else if op = 6 then !decide (kind = 1 ∨ kind = 2)
  else if op = 8 then decide (kind ≠ 3) || !decide (1 ≤ seKreq w ∧ seKreq w ≤ 3)
  else if op = 7 then !decide (seSpace w = 3 ∨ seSpace w = 4)
  else if op = 1 ∨ op = 2 then decide (seSpace w = 0 ∧ (kind = 1 ∨ kind = 3))
  else false

/-- The level that an entry needs (R440, R446). -/
def seLevel (x : RingSt) (w : List Nat) : Nat :=
  if seAt w || seTc0 w || decide (1 < x.coalN) || decide (0 < x.coalUs) then 3
  else if seOp w = 6 ∨ seOp w = 7 then 2 else 1

/-- The chosen interface level of a port (R446). -/
def Mach.ifLevel (m : Mach) (h : HostId) : Nat := m.live (hostPage h) Reg.HOST.IFLEVEL_CHOSEN

/-- The code of an entry that is refused as it starts, in the order RESERVED, FORMAT, LEVEL; 0 when none (R443). -/
def Mach.seCode (m : Mach) (x : RingSt) (w : List Nat) : Nat :=
  if seReserved w then 0x0C
  else if seFormat x.kind w then 0x02
  else if m.ifLevel x.owner < seLevel x w then 0x04
  else 0

/-! ## Completions (R442, R449) -/

/-- W0 of a completion entry, without the phase. -/
def ceWord (index code tag : Nat) (recv : Bool) : Nat :=
  index + code * 2 ^ 32 + b2n recv * 2 ^ 41 + tag * 2 ^ 48

/-- Send the interrupt of a ring for the completions posted since the last (R442). -/
def Mach.ringIrq (m : Mach) (r : Nat) : Mach :=
  let x := m.ringOf r
  if x.msixEn then (m.setRing r { x with unsignalled := 0 }).msix x.owner x.vector else m

/-- Post a completion: written whole, then CQ_TAIL advances. -/
def Mach.ringPost (m : Mach) (r : Nat) (c : Completion) (irq : Bool) : Mach :=
  let x := m.ringOf r
  let phase := (x.cqTail / x.depth + 1) % 2
  let d := (toBytes 8 (wordAt c 0 + phase * 2 ^ 40)) ++ ((c.drop 1).map (toBytes 8)).flatten
  let m1 := m.send (.hostWrite x.owner (w64 (x.cqBase.toNat + x.cqTail % x.depth * 32)) d false)
  let y : RingSt := { x with cqTail := (x.cqTail + 1) % 2 ^ 32, done := x.done + 1, unsignalled := x.unsignalled + 1,
                             oldest := if x.unsignalled = 0 then m.ticks else x.oldest }
  let m2 := (m1.setRing r y).bump ringPage Reg.RING.ENTRIES_DONE
  if irq || decide (x.coalN ≤ y.unsignalled) then m2.ringIrq r else m2

/-- A discard takes effect once every started entry has completed. -/
def Mach.ringDiscarded (m : Mach) (r : Nat) : Mach :=
  let x := m.ringOf r
  match x.discard with
  | none => m
  | some h =>
    if x.started.isEmpty then
      let m1 := m.bump ringPage Reg.RING.HELD_DISCARDED x.held.length
      (m1.setRing r { x with held := [], discard := none, state := .disabled,
                             cfg := setFld (setFld x.cfg 5 5 h) 6 6 0 }).tapLost 3 r
    else m

/-- A started entry whose target has finished completes. -/
def Mach.ringComplete (m : Mach) (r i : Nat) : Mach :=
  let x := m.ringOf r
  match x.started.find? (fun e => decide (e.index = i) && e.outcome.isSome) with
  | none => m
  | some e =>
    let o := e.outcome.getD (0, 0)
    let c : Completion := [ceWord e.index o.1 (seTag e.words) false, o.2, e.time, 0]
    let y : RingSt := { x with started := x.started.erase e }
    if x.state = .orphaned then (m.setRing r { y with held := y.held ++ [c] }).ringDiscarded r
    else (m.setRing r y).ringPost r c (seIrq e.words)

/-- R442. -/
def execRingEntryComplete (ring : BitVec 13) (idx : BitVec 32) (s : State) : Host.Outcome State Fault Refusal :=
  s.run true (fun m => m.ringComplete ring.toNat idx.toNat)

/-- R442. The oldest unsignalled completion is COAL_US old. -/
def Mach.coalTimer (m : Mach) (r : Nat) : Mach :=
  let x := m.ringOf r
  if x.unsignalled ≠ 0 ∧ x.coalUs ≠ 0 ∧ x.state ≠ .orphaned ∧ x.oldest + 1000 * x.coalUs ≤ m.ticks then m.ringIrq r else m

def execCoalTimer (ring : BitVec 13) (s : State) : Host.Outcome State Fault Refusal :=
  s.run true (fun m => m.coalTimer ring.toNat)

/-! ## Doorbells and the MSI-X table (R434 to R436) -/

/-- The ring's ERR is set and nothing more is fetched. -/
def Mach.ringError (m : Mach) (r code : Nat) : Mach :=
  (m.setRing r { m.ringOf r with state := .error, err := code }).raise ringPage 16

/-- The values that a doorbell write carries: SQ_TAIL and CQ_HEAD. -/
def dbValues (half : Bool) (bytes : Nat) (v : Word) : Option Nat × Option Nat :=
  if bytes = 8 then (some (fld v 31 0), some (fld v 63 32))
  else if half then (none, some (fld v 31 0)) else (some (fld v 31 0), none)

/-- An SQ_TAIL or a CQ_HEAD out of range, in serial-number arithmetic. -/
def RingSt.badTail (x : RingSt) (t : Nat) : Bool := decide (x.depth < (t + 2 ^ 32 - x.sqHead) % 2 ^ 32)
def RingSt.badHead (x : RingSt) (h : Nat) : Bool :=
  decide (2 ^ 31 ≤ (h + 2 ^ 32 - x.cqHead) % 2 ^ 32 ∨ 2 ^ 31 ≤ (x.cqTail + 2 ^ 32 - h) % 2 ^ 32)

/-- A doorbell write of the owner to an ACTIVE ring sets its pointers, or puts it into ERROR. -/
def Mach.bellRings (m : Mach) (r : Nat) (d : Option Nat × Option Nat) : Mach :=
  let x := m.ringOf r
  if d.1.any x.badTail || d.2.any x.badHead then m.ringError r 1
  else m.setRing r { x with sqTail := d.1.getD x.sqTail, cqHead := d.2.getD x.cqHead }

/-- R436. One that wakes the module from Retain, or comes while it wakes, is held until the wake ends (R464). -/
def Mach.doorbell (m : Mach) (port : HostId) (r : Nat) (half : Bool) (bytes : Nat) (v : Word) : Mach :=
  let x := m.ringOf r
  if !decide (bytes = 4 ∨ (bytes = 8 ∧ !half)) then m
  else if port ≠ x.owner then m.notOwner port
  else if x.state ≠ .active then (m.bump ringPage Reg.RING.DB_IGNORED).raise ringPage 17
  else
    let m1 := m.accessWakes
    if m1.live pwrPage Reg.PWR.STATE = 5 ∧ m1.act pwrPage Reg.PWR.PWRCTL_AUTOWAKE = 1 then
      { m1 with host := { m1.host with bells := m1.host.bells ++ [⟨port, r, half, bytes, v⟩] } }
    else m1.bellRings r (dbValues half bytes v)

/-- The held doorbell writes are performed. -/
def Mach.settleBells (m : Mach) : Mach :=
  m.host.bells.foldl (fun m b => m.doorbell b.port b.ring b.half b.bytes b.val) { m with host := { m.host with bells := [] } }

/-- The mask of a vector is cleared: its pending message is sent (R435). -/
def Mach.msixUnmask (m : Mach) (port : HostId) (vec : Nat) : Mach :=
  let k := port.val * 2048 + vec
  let m1 : Mach := { m with host := { m.host with unmasked := SMap.set m.host.unmasked (fun _ => false) k true } }
  if SMap.get m.host.pend (fun _ => false) k ∧ m.live (hostPage port) Reg.HOST.PORT_STATE_FAILED ≠ 1 then
    let m2 : Mach := { m1 with host := { m1.host with pend := SMap.set m1.host.pend (fun _ => false) k false } }
    m2.send (m2.msixOut port vec)
  else m1

/-- The mask of a vector is set. -/
def Mach.msixMask (m : Mach) (port : HostId) (vec : Nat) : Mach :=
  { m with host := { m.host with unmasked := SMap.set m.host.unmasked (fun _ => false) (port.val * 2048 + vec) false } }

/-- A 32-bit word of a table entry is written: message address, message data, or vector control with the mask in bit 0. PRESUMED, log
5: the entry is that of PCI Express. -/
def Mach.msixWord (m : Mach) (port : HostId) (vec i v : Nat) : Mach :=
  let e := m.msixEntry port vec
  let put := fun (e : Word × BitVec 32) => ({ m with host := { m.host with
    table := SMap.set m.host.table (fun _ => (0, 0)) (port.val * 2048 + vec) e } } : Mach)
  if i = 0 then put (setFld e.1 31 0 v, e.2)
  else if i = 1 then put (setFld e.1 63 32 v, e.2)
  else if i = 2 then put (e.1, BitVec.ofNat 32 v)
  else if v % 2 = 0 then m.msixUnmask port vec
  else m.msixMask port vec

/-- A write of BAR2 of a port (R434): the doorbells, the MSI-X table, and a reserved rest with the pending-bit array, which takes no write. -/
def Mach.bar2Write (m : Mach) (h : HostId) (off bytes : Nat) (v : Word) : Mach :=
  if !m.runs || !decide ((bytes = 4 ∧ off % 4 = 0) ∨ (bytes = 8 ∧ off % 8 = 0)) then m
  else if off < 0x10000 then m.doorbell h (off / 8) (decide (off % 8 = 4)) bytes v
  else if off < 0x18000 then
    let m1 := m.msixWord h ((off - 0x10000) / 16) (off % 16 / 4) (fld v 31 0)
    if bytes = 8 then m1.msixWord h ((off - 0x10000) / 16) (off % 16 / 4 + 1) (fld v 63 32) else m1
  else m

/-- The 32-bit word at an offset of BAR2: doorbells and the reserved rest read as zero (R434, R436). -/
def Mach.bar2Word (m : Mach) (h : HostId) (off : Nat) : Nat :=
  let flag := fun (l : SMap Bool) (vec : Nat) => SMap.get l (fun _ => false) (h.val * 2048 + vec)
  if off < 0x10000 then 0
  else if off < 0x18000 then
    let vec := (off - 0x10000) / 16
    let e := m.msixEntry h vec
    let i := off % 16 / 4
    if i = 0 then fld e.1 31 0 else if i = 1 then fld e.1 63 32 else if i = 2 then e.2.toNat else b2n (!flag m.host.unmasked vec)
  else if off < 0x18100 then ((upTo 32).map (fun i => b2n (flag m.host.pend (8 * (off - 0x18000) + i)) * 2 ^ i)).sum
  else 0

/-- A read of BAR2 of a port. -/
def Mach.bar2Read (m : Mach) (h : HostId) (off bytes : Nat) : Nat :=
  if !m.runs then 0 else if bytes = 8 then m.bar2Word h off + m.bar2Word h (off + 4) * 2 ^ 32 else m.bar2Word h off

/-- R436. -/
def execDoorbell (port : HostId) (ring : BitVec 13) (half : Bool) (bytes : Nat) (val : Word) (s : State) :
    Host.Outcome State Fault Refusal :=
  s.run true (fun m => m.bar2Write port (8 * ring.toNat + (if half then 4 else 0)) bytes val)

/-- R435. -/
def execMsixUnmask (port : HostId) (w : MsixWrite) (s : State) : Host.Outcome State Fault Refusal :=
  s.run true (fun m => m.bar2Write port (0x10000 + 16 * w.vec.toNat + 4 * w.dword.toNat) (if w.qword then 8 else 4) w.val)

/-! ## The ring window (R438, R449, R451) -/

/-- The ring and word of a window offset. -/
def Mach.windowRing (m : Mach) (off : Nat) : Nat × Nat :=
  (16 * m.live ringPage Reg.RING.RWIN_BASE + (off - 0xA00) / 64, (off - 0xA00) % 64 / 8)

/-- TARGET names a kind and a unit that exist. -/
def Mach.targetOk (m : Mach) (x : RingSt) : Bool :=
  if x.kind = 0 then decide (x.target < 16 * (if m.testMode then 180 else 160))
  else if x.kind = 1 then decide (x.target < 4)
  else if x.kind = 2 then decide (x.target < (if m.testMode then 24 else 20))
  else decide (x.kind = 3 ∧ x.target = 0)

/-- A ring may be enabled. -/
def Mach.enableOk (m : Mach) (x : RingSt) : Bool :=
  decide (4 ≤ fld x.cfg 4 0 ∧ fld x.cfg 4 0 ≤ 16 ∧ x.sqBase.toNat % 64 = 0 ∧ x.cqBase.toNat % 64 = 0 ∧ x.coalN ≠ 0) &&
    m.targetOk x && decide (m.live (hostPage x.owner) Reg.HOST.PORT_STATE_FAILED = 0 ∧ m.ifLevel x.owner ≠ 0)

/-- Enable a ring with cleared pointers, or refuse the write whole. -/
def Mach.enableRing (m : Mach) (r : Nat) (x : RingSt) : Mach :=
  if m.enableOk x then
    (m.setRing r { x with state := .active, err := 0, sqHead := 0, sqTail := 0, cqHead := 0, cqTail := 0, started := [],
                          unsignalled := 0 }).tapBack 3 r
  else m.cfgReject ringPage 1

/-- A write of the configuration word of a ring. -/
def Mach.ringCfgWrite (m : Mach) (r : Nat) (w : RegWrite) : Mach :=
  let x := m.ringOf r
  let y := { x with cfg := w.merge x.cfg }
  if x.state = .disabled then
    if bit y.cfg 6 then m.enableRing r y
    else if 4 ≤ y.kind then m.cfgReject ringPage 2
    else m.setRing r y
  else if bit w.cover 6 && !bit w.bits 6 then
    if x.state = .active ∨ x.state = .error then m.setRing r { x with state := .draining, cfg := setFld x.cfg 6 6 0 } else m
  else m.cfgReject ringPage 1

/-- DISCARD from the port that owns the RING page (R449). -/
def Mach.ringDiscard (m : Mach) (r : Nat) (src : Writer) : Mach :=
  let x := m.ringOf r
  if x.state = .orphaned then
    (m.setRing r { x with discard := some ((writerPort src).getD (m.hdr ringPage).port).val }).ringDiscarded r
  else m.cfgReject ringPage 1

/-- A write of a word of the ring window. -/
def Mach.ringWindow (m : Mach) (off : Nat) (w : RegWrite) : Mach :=
  let rk := m.windowRing off
  let x := m.ringOf rk.1
  let base := fun (f : Word → RingSt) (old : Word) =>
    if x.state = .disabled then m.setRing rk.1 (f (w.merge old)) else m.cfgReject ringPage 1
  if rk.2 = 0 then base (fun v => { x with sqBase := v }) x.sqBase
  else if rk.2 = 1 then base (fun v => { x with cqBase := v }) x.cqBase
  else if rk.2 = 2 then (if fld w.bits 63 59 ≠ 0 then m.cfgReject ringPage 2 else m.ringCfgWrite rk.1 w)
  else if rk.2 = 3 then
    if fld w.bits 63 2 ≠ 0 then m.cfgReject ringPage 2
    else if fld w.bits 1 0 = 1 then m.ringDiscard rk.1 w.src else m
  else m

/-- An offset of the window. -/
def ringOff (off : Nat) : Bool := decide (0xA00 ≤ off ∧ off < 0xE00 ∧ off % 8 = 0)

/-- A window write by the page's owner. -/
def Mach.ringWrite (m : Mach) (off : Nat) (w : RegWrite) : Mach := m.owned w.src ringPage (fun m => m.ringWindow off w)

/-- R438. -/
def execRingWindowWrite (off : BitVec 12) (w : RegWrite) (s : State) : Host.Outcome State Fault Refusal :=
  s.run (ringOff off.toNat) (fun m => m.ringWrite off.toNat w)

/-- R438. A write of the configuration word with ENABLE = 1. -/
def execRingEnable (off : BitVec 12) (w : RegWrite) (s : State) : Host.Outcome State Fault Refusal :=
  s.run (ringOff off.toNat && decide (off.toNat % 64 = 16) && bit w.bits 6) (fun m => m.ringWrite off.toNat w)

/-- R438. A write of the configuration word with ENABLE = 0. -/
def execRingDisable (off : BitVec 12) (w : RegWrite) (s : State) : Host.Outcome State Fault Refusal :=
  s.run (ringOff off.toNat && decide (off.toNat % 64 = 16) && bit w.cover 6 && !bit w.bits 6) (fun m => m.ringWrite off.toNat w)

/-- R449. A write of CMD = 1. -/
def execRingDiscard (off : BitVec 12) (w : RegWrite) (s : State) : Host.Outcome State Fault Refusal :=
  s.run (ringOff off.toNat && decide (off.toNat % 64 = 24 ∧ fld w.bits 1 0 = 1)) (fun m => m.ringWrite off.toNat w)

/-- R438. A draining ring without started entries is DISABLED, and a check unit on it loses its point (R407). -/
def Mach.ringDrained (m : Mach) (r : Nat) : Mach :=
  let x := m.ringOf r
  if x.state = .draining ∧ x.started.isEmpty then (m.setRing r { x with state := .disabled }).tapLost 3 r else m

def execRingDrained (ring : BitVec 13) (s : State) : Host.Outcome State Fault Refusal :=
  s.run true (fun m => m.ringDrained ring.toNat)

/-! ## Fetching (R441, R442) -/

/-- Started entries and completions that software has not consumed leave room for one more. -/
def RingSt.room (x : RingSt) : Bool :=
  decide (x.started.length + (x.cqTail + 2 ^ 32 - x.cqHead) % 2 ^ 32 < x.depth)

/-- A ring may take its next entry. -/
def Mach.ringFetches (m : Mach) (x : RingSt) : Bool :=
  let st := m.live pwrPage Reg.PWR.STATE
  m.ready && decide (st = 1 ∨ st = 2 ∨ st = 4) && !m.power.forced &&
    decide (x.state = .active ∧ x.sqHead ≠ x.sqTail) && x.started.all (fun e => e.placed) && x.room

/-- Operations that are placed as they start. -/
def sePlaced (w : List Nat) : Bool :=
  let op := seOp w
  decide (op = 1 ∨ op = 2 ∨ op = 5 ∨ op = 8)

/-- The read requests of a range of host memory, in the pieces in which they are answered (R433, R440). -/
def Mach.hostReads (m : Mach) (h : HostId) (a : Nat) (d : HostData) : Mach :=
  (d.foldl (fun (s : Nat × Mach) r => (s.1 + r.data.length, s.2.send (.hostRequest h (w64 s.1) r.data.length))) (a, m)).2

/-- Host bus address of submission entry i (R439). -/
def RingSt.entryAddr (x : RingSt) (i : Nat) : Word := w64 (x.sqBase.toNat + i % x.depth * 64)

/-- R441. The ring fetches and starts its next entry; a failed or poisoned fetch puts it into ERROR (R443). -/
def Mach.ringFetch (m0 : Mach) (r : Nat) (d : HostData) : Mach :=
  let x := m0.ringOf r
  let m := m0.send (.hostRequest x.owner (x.entryAddr x.sqHead) 64)
  if !m0.ringFetches x then m0
  else if d.err || d.ep then m.ringError r 2
  else
    let w := wordsOf 8 d.bytes
    let code := m.seCode x w
    if seFence w && !x.started.isEmpty then m0
    else if decide (code = 0) && seAt w && decide (m.now < wordAt w 5) then m0
    else
      let e : RingEnt := { index := x.sqHead, words := w, placed := decide (code ≠ 0) || sePlaced w, bad := false,
                           outcome := if code ≠ 0 then some (code, 0) else none, time := m.now }
      (m.endIdle.setRing r { x with sqHead := (x.sqHead + 1) % 2 ^ 32, started := x.started ++ [e] }).tap 3 r d.bytes

def execRingFetch (ring : BitVec 13) (d : HostData) (s : State) : Host.Outcome State Fault Refusal :=
  s.run (d.ok && decide (d.bytes.length = 64)) (fun m => m.ringFetch ring.toNat d)

/-! ## Operations (R440) -/

/-- The started entry of a ring with an index and an OP that has not finished. -/
def Mach.ringEntry (m : Mach) (r i op : Nat) : Option RingEnt :=
  (m.ringOf r).started.find? (fun e => decide (e.index = i ∧ seOp e.words = op) && e.outcome.isNone)

/-- Do something for a started entry. -/
def Mach.onEntry (m : Mach) (r i op : Nat) (f : RingEnt → Mach) : Mach :=
  match m.ringEntry r i op with
  | none => m
  | some e => f e

/-- The unit that a ring targets. -/
def Mach.ringUnit (m : Mach) (x : RingSt) : Option Nat :=
  if x.kind = 0 then m.logical false (x.target / 16) else if x.kind = 2 then m.logical true x.target else none

/-- The compute domain is in reset or retired: entries for it are ABSENT (R443, R461). -/
def Mach.domainGone (m : Mach) : Bool := m.power.computeReset || m.retiredDomain

/-- R440. NOP. -/
def execRingNop (ring : BitVec 13) (idx : BitVec 32) (s : State) : Host.Outcome State Fault Refusal :=
  s.run true (fun m => m.onEntry ring.toNat idx.toNat 0 (fun e => m.ringFinish ring.toNat e.index 0 0))

/-- The location of a COPY, or its refusal: LIMIT, RESERVED, ABSENT, RANGE. -/
def Mach.copyLoc (m : Mach) (x : RingSt) (w : List Nat) : Except Nat Loc :=
  let a := seMaddr w
  if seLen w = 0 then .error 0x01
  else if spaceReserved a then .error 0x0C
  else if m.domainGone then .error 0x05
  else if m.spaceBeyond a then .error 0x03
  else
    let l : Option Loc := if seSpace w = 0 then (m.ringUnit x).map (fun u => .pond u (natBits a 23 0)) else m.spaceLoc 0 a
    match l with
    | none => .error 0x05
    | some l =>
      let inside := match l with
        | .mem b => decide (b + seLen w ≤ 2 ^ 48)
        | _ => m.locInside l (seLen w)
      if inside then .ok l else .error 0x03

/-- A location takes a write now: nothing holds it, and no array guards it (R85). -/
def Mach.locFree (m : Mach) (l : Loc) (n : Nat) : Bool :=
  m.computeUp && !m.locHeld l n && (match l with | .pond v o => !m.guarded v o n | _ => true)

/-- The reads without error are written, each at its place; nothing of a read with an error is (R443). -/
def Mach.hostCopies (m : Mach) (l : Loc) (d : HostData) : Mach :=
  (d.foldl (fun (s : Nat × Mach) r =>
    (s.1 + r.data.length, if r.err then s.2 else s.2.locWrite (l.plus s.1) r.data)) (0, m)).2

/-- R440. COPY_IN. -/
def Mach.ringCopyIn (m : Mach) (r : Nat) (e : RingEnt) (d : HostData) : Mach :=
  match m.copyLoc (m.ringOf r) e.words with
  | .error c => m.ringFinish r e.index c 0
  | .ok l =>
    let n := seLen e.words
    if d.bytes.length ≠ n then m
    else if !m.locFree l n then m.hazards true [(l, n)]
    else ((m.hostReads (m.ringOf r).owner (seHaddr e.words) d).hostCopies l d).ringFinish r e.index
      (if d.err then 0x0D else if d.ep then 0x0B else 0) 0

def execRingCopyIn (ring : BitVec 13) (idx : BitVec 32) (d : HostData) (s : State) : Host.Outcome State Fault Refusal :=
  s.run d.ok (fun m => m.onEntry ring.toNat idx.toNat 1 (fun e => m.ringCopyIn ring.toNat e d))

/-- R440. COPY_OUT: poisoned data is written on with the EP mark (R443). -/
def Mach.ringCopyOut (m : Mach) (r : Nat) (e : RingEnt) : Mach :=
  let x := m.ringOf r
  match m.copyLoc x e.words with
  | .error c => m.ringFinish r e.index c 0
  | .ok l =>
    if !m.computeUp || m.locHeld l (seLen e.words) then m
    else
      let d := m.locRead l (seLen e.words)
      let bad := d.1.any (·.2)
      (d.2.stir.send (.hostWrite x.owner (w64 (seHaddr e.words)) (d.1.map (·.1)) bad)).ringFinish r e.index
        (if bad then 0x0B else 0) 0

def execRingCopyOut (ring : BitVec 13) (idx : BitVec 32) (s : State) : Host.Outcome State Fault Refusal :=
  s.run true (fun m => m.onEntry ring.toNat idx.toNat 2 (fun e => m.ringCopyOut ring.toNat e))

/-- An operation on the context that a ring targets. -/
def Mach.onContext (m : Mach) (r : Nat) (e : RingEnt) (f : Nat → Nat → Mach) : Mach :=
  let x := m.ringOf r
  match m.ringUnit x with
  | none => m.ringFinish r e.index 0x05 0
  | some u => if m.domainGone then m.ringFinish r e.index 0x05 0 else f u (x.target % 16)

/-- R440. START writes the PC of a HALTED context and starts it. -/
def Mach.ringStart (m : Mach) (r : Nat) (e : RingEnt) : Mach :=
  m.onContext r e (fun u c =>
    if (m.ctx u c).state = .halted then ((m.writePc u c (sePc e.words)).ctxStart u c).ringFinish r e.index 0 0
    else (m.ctxStart u c).ringFinish r e.index 0x06 0)

def execRingStart (ring : BitVec 13) (idx : BitVec 32) (s : State) : Host.Outcome State Fault Refusal :=
  s.run true (fun m => m.onEntry ring.toNat idx.toNat 3 (fun e => m.ringStart ring.toNat e))

/-- A context that has stopped. -/
def Ctx.stopped (x : Ctx) : Bool := decide (x.state = .halted ∨ x.state = .faulted)

/-- R440. HALT. -/
def Mach.ringHalt (m : Mach) (r : Nat) (e : RingEnt) : Mach :=
  m.onContext r e (fun u c => (m.ctxHalt u c).ringFinish r e.index (if (m.ctx u c).stopped then 0x06 else 0) 0)

def execRingHalt (ring : BitVec 13) (idx : BitVec 32) (s : State) : Host.Outcome State Fault Refusal :=
  s.run true (fun m => m.onEntry ring.toNat idx.toNat 4 (fun e => m.ringHalt ring.toNat e))

/-- STATE code of a context (R116). -/
def CtxState.code : CtxState → Nat
  | .halted => 0 | .ready => 1 | .running => 2 | .waiting => 3 | .faulted => 4

/-- CTX[c].CMD as it reads (R138). -/
def Ctx.cmdWord (x : Ctx) : Nat := x.state.code + x.fault.toNat * 2 ^ 16 + x.faultPc.toNat * 2 ^ 32

/-- R440. WAITSTOP completes once the context is HALTED or FAULTED. -/
def Mach.ringWaitstop (m : Mach) (r : Nat) (e : RingEnt) : Mach :=
  m.onContext r e (fun u c =>
    if (m.ctx u c).stopped then m.ringFinish r e.index 0 (m.ctx u c).cmdWord else m)

def execRingWaitstop (ring : BitVec 13) (idx : BitVec 32) (s : State) : Host.Outcome State Fault Refusal :=
  s.run true (fun m => m.onEntry ring.toNat idx.toNat 5 (fun e => m.ringWaitstop ring.toNat e))

/-- R440. DESC: the descriptor enters the target's queue once there is room, or is refused. A poisoned one is not
placed. -/
def Mach.ringDesc (m : Mach) (r : Nat) (e : RingEnt) (d : HostData) : Mach :=
  let x := m.ringOf r
  if e.placed then m
  else if seHaddr e.words % 64 ≠ 0 then m.ringFinish r e.index 0x03 0
  else if m.domainGone || (decide (x.kind = 2) && (m.ringUnit x).isNone) then m.ringFinish r e.index 0x05 0
  else if d.bytes.length ≠ 128 then m
  else if d.err then (m.hostReads x.owner (seHaddr e.words) d).ringFinish r e.index 0x0D 0
  else if d.ep then (m.hostReads x.owner (seHaddr e.words) d).ringFinish r e.index 0x0B 0
  else if x.kind = 1 then
    if 32 ≤ (m.collOf x.target).queue.length ∨ m.collEntryHeld none (wordsOf 16 d.bytes) then m
    else ((m.hostReads x.owner (seHaddr e.words) d).endIdle.ringPlaced r e.index).collEnter x.target 0 0 (some (r, e.index)) (wordsOf 16 d.bytes)
  else
    let n := (m.ringUnit x).getD 180 - 180
    if 16 ≤ (m.svOf n).queue.length then m
    else ((m.hostReads x.owner (seHaddr e.words) d).endIdle.ringPlaced r e.index).svEnter n 0 (some (r, e.index)) (wordsOf 16 d.bytes)

def execRingDesc (ring : BitVec 13) (idx : BitVec 32) (d : HostData) (s : State) : Host.Outcome State Fault Refusal :=
  s.run d.ok (fun m => m.onEntry ring.toNat idx.toNat 6 (fun e => m.ringDesc ring.toNat e d))

/-- R444. SEND: one packet, whose first 64 bytes hold MADDR and LEN. -/
def Mach.ringSend (m : Mach) (r : Nat) (e : RingEnt) (d : HostData) : Mach :=
  let w := e.words
  let n := seLen w
  if e.placed then m
  else if n = 0 then m.ringFinish r e.index 0x01 0
  else if 8128 < n then m.ringFinish r e.index 0x0E 0
  else if d.bytes.length ≠ n then m
  else if d.err then (m.hostReads (m.ringOf r).owner (seHaddr w) d).ringFinish r e.index 0x0D 0
  else
    let room := 64 * ceilDiv (64 + n) 64
    let bytes := padTo room (padTo 64 (toBytes 8 (seMaddr w) ++ toBytes 8 n) ++ d.bytes)
    let marks := (upTo (room / 8)).map (fun i => decide (8 ≤ i) && ((d.marked.drop (8 * i - 64)).take 8).any (fun b => b.2))
    let pk := plainPacket (if seTc0 w then 0 else 1) 0 (wfld w 4 28 16) (wfld w 4 7 0) (wfld w 4 15 8) 0 bytes marks
    let x := m.ringOf r
    ((m.hostReads x.owner (seHaddr w) d).setRing r (x.modEnt e.index (fun e => { e with placed := true, bad := d.ep }))).offer pk (.ring r e.index)

def execRingSend (ring : BitVec 13) (idx : BitVec 32) (d : HostData) (s : State) : Host.Outcome State Fault Refusal :=
  s.run d.ok (fun m => m.onEntry ring.toNat idx.toNat 7 (fun e => m.ringSend ring.toNat e d))

/-- R444. A SEND arrives at a ring: posted as RECV, or the NAK code of its refusal. -/
def Mach.ringRecv (m : Mach) (pk : Packet) (t : Nat) : Option Nat × Mach :=
  let r := pk.index.toNat
  let x := m.ringOf r
  let a := pk.word 0
  let n := pk.word 1 % 2 ^ 32
  let l : Loc := if natBits a 63 60 = 3 then .scratch (natBits a 52 48) (natBits a 24 0) else .mem (natBits a 47 0)
  let inside := match l with
    | .mem b => decide (b + n ≤ 2 ^ 48)
    | _ => m.locInside l n
  let refuse := fun (c : Nat) => (some c, m.bump ringPage Reg.RING.RX_REFUSED)
  if x.state ≠ .active then refuse 1
  else if !x.accept || !x.room || decide (m.ifLevel x.owner < 2) then refuse 3
  else if spaceReserved a || !decide (natBits a 63 60 = 3 ∨ natBits a 63 60 = 4) || m.spaceBeyond a || !inside ||
      decide (pk.payload.length < 64 + n) then refuse 3
  else
    let d := ((pk.payload.drop 64).take n).zipIdx.map (fun b => (b.1, pk.marks.getD (8 + b.2 / 8) false))
    let c : Completion := [ceWord 0 (if d.any (·.2) then 0x0B else 0) 0 true, a, t,
                           n + pk.srcX.toNat * 2 ^ 32 + pk.srcY.toNat * 2 ^ 40]
    (none, ((m.locWrite l d).bump ringPage Reg.RING.RECV_CNT).ringPost r c false)

end Sys2Proof.Machine
end

