-- ==== Sys2Proof/Machine/Consist.lean ====
section
/-! DEFINITION. What GO checks of a staged set: reserved bits and codes (R33, R40), and the consistency rules of each block (R94,
R113, R138, R139, R174, R196, R202, R268, R273, R298, R320, R342, R355, R385, R411, R431, R432, R457, R474). -/

namespace Sys2Proof.Machine

/-- Areas as (address, bytes) that overlap somewhere between two lists. -/
def listsOverlap (a b : List (Nat × Nat)) : Bool := a.any (fun x => b.any (overlaps x))

/-- The areas of valid slots: address field, valid field, number of slots, bytes of a slot. -/
def Mach.validAreas (m : Mach) (p : Page) (addr valid : Fld) (n bytes : Nat) : List (Nat × Nat) :=
  (upTo n).filterMap (fun i => if m.live p valid i = 1 then some (m.live p addr i, bytes) else none)

/-- Every area is aligned to 64 and ends within a pond. -/
def areasFit (size : Nat) (l : List (Nat × Nat)) : Bool := l.all (fun a => decide (a.1 % 64 = 0 ∧ a.1 + a.2 ≤ size))

/-- VIDLE is 0 or at least 256 (R138). -/
def Mach.vidleOk (m : Mach) (p : Page) : Bool := let v := m.live p Reg.CELL.VCTL_VIDLE; decide (v = 0 ∨ 256 ≤ v)

/-- R94, R113, R138. -/
def Mach.cellOk (m : Mach) (p : Page) : Bool :=
  let t := m.live p Reg.CELL.MXCTL_CHKTOL
  let vs := m.validAreas p Reg.CELL.VSAVE_ADDR Reg.CELL.VSAVE_VALID 16 4224
  let ac := m.validAreas p Reg.CELL.ACCSAVE_ADDR Reg.CELL.ACCSAVE_VALID 16 81920
  decide (8 ≤ t ∧ t ≤ 24) && m.vidleOk p && areasFit 0x400000 vs && areasFit 0x400000 ac && !anyOverlap vs && !anyOverlap ac &&
    !listsOverlap vs ac

/-- A staged factor slot differs from the one in force, and holds or is to hold a factorisation (R174). -/
def Mach.slotClash (m : Mach) (n i : Nat) : Bool :=
  let p := solvPage n
  let x := m.svOf n
  let named := fun (w : List Nat) => decide (svKind w = 0 ∧ svFSlot w = i) && svRetain w
  [Reg.SOLV.FSLOT_ADDR, Reg.SOLV.FSLOT_SIZE, Reg.SOLV.FSLOT_VALID].any (fun f => decide (m.live p f i ≠ m.act p f i)) &&
    ((m.svSlot n i).isSome || x.queue.any (fun it => named it.words) ||
      (match x.running with
       | some r => named r.item.words
       | none => false))

/-- R139, R174, R196. -/
def Mach.solvOk (m : Mach) (p : Page) : Bool :=
  let g := fun (f : Fld) => m.live p f
  let vs := m.validAreas p Reg.SOLV.VSAVE_ADDR Reg.CELL.VSAVE_VALID 16 8448
  let fs := (upTo 4).filterMap (fun i => if m.live p Reg.SOLV.FSLOT_VALID i = 1 then
    some (m.live p Reg.SOLV.FSLOT_ADDR i, 64 * m.live p Reg.SOLV.FSLOT_SIZE i) else none)
  m.vidleOk p && areasFit 0x1000000 vs && !anyOverlap vs && areasFit 0x1000000 fs && !anyOverlap fs &&
    decide (20 ≤ g Reg.SOLV.SVCTL_PIVTOL ∧ g Reg.SOLV.SVCTL_PIVTOL ≤ 52 ∧ 10 ≤ g Reg.SOLV.SVCTL_REGDELTA ∧
      g Reg.SOLV.SVCTL_REGDELTA ≤ 52 ∧ g Reg.SOLV.SVCTL_REGDELTA < g Reg.SOLV.SVCTL_PIVTOL ∧ 10 ≤ g Reg.SOLV.SVCTL_EPSEXP ∧
      g Reg.SOLV.SVCTL_EPSEXP ≤ 50 ∧ 8 ≤ g Reg.SOLV.SVCTL_INFEXP ∧ g Reg.SOLV.SVCTL_INFEXP ≤ 40 ∧
      4 ≤ g Reg.SOLV.DVCTL_ACTEXP ∧ g Reg.SOLV.DVCTL_ACTEXP ≤ 52) &&
    !(upTo 4).any (fun i => m.slotClash p.idx i)

/-- R385. -/
def Mach.collOk (m : Mach) (p : Page) : Bool :=
  let x := m.collOf p.idx
  let swaps := fun (v : Nat) => (x.queue ++ x.running.map (fun r => r.item)).any (fun it => decide (coOp it.words = 8 ∧ coView it.words = v))
  let room := m.scratchBytes (m.live p Reg.COLL.COLLCTL_RXSLICE) - m.live p Reg.COLL.COLLCTL_RXOFF
  decide (1024 * m.live p Reg.COLL.COLLCTL_RXKIB ≤ (if m.live p Reg.COLL.COLLCTL_RXSLICE < 20 then room else 0)) &&
    !(upTo 16).any (fun v => swaps v &&
      [Reg.COLL.VIEW_BUF0, Reg.COLL.VIEW_VALID, Reg.COLL.VIEW_BUF1].any (fun f => decide (m.live p f v ≠ m.act p f v)))

/-- Bytes of each target that an entry occupies (R272). -/
def RegionEntry.extent (e : RegionEntry) : Nat :=
  let s := e.size * 2 ^ 21
  if !e.basin then (if e.mode = 0 ∨ e.mode = 3 then s / 256 else if e.mode = 1 then s / 32 else s)
  else (if e.mode = 0 ∨ e.mode = 3 then s / 24 else if e.mode = 1 then s / 4 else s)

/-- The entry touches a target (R272). -/
def RegionEntry.touches (e : RegionEntry) (t : Nat) : Bool :=
  if !e.basin then decide (t < 256) && (decide (e.mode = 0 ∨ e.mode = 3) || (decide (e.mode = 1 ∧ t % 8 = e.sel)) ||
    decide (e.mode = 2 ∧ t = 8 * (e.sel % 32) + e.sel / 32))
  else decide (256 ≤ t) && (decide (e.mode = 0 ∨ e.mode = 3) || decide (e.mode = 1 ∧ (t - 256) % 6 = e.sel) ||
    decide (e.mode = 2 ∧ t = 256 + e.sel))

/-- The rules of R273 that one entry keeps by itself. -/
def RegionEntry.fits (e : RegionEntry) : Bool :=
  let p := e.poff * 2 ^ 13
  let top := if e.mode = 0 ∨ e.mode = 3 then 0 else if !e.basin then (if e.mode = 1 then 7 else 255) else (if e.mode = 1 then 5 else 23)
  decide (1 ≤ e.size ∧ e.base + e.size ≤ 2 ^ 27 ∧ e.sel ≤ top) &&
    (!(e.basin && decide (e.mode = 0 ∨ e.mode = 3)) || decide (e.size % 3 = 0)) &&
    decide (p + e.extent ≤ (if e.basin then 64 * 2 ^ 30 else 2232 * 2 ^ 20))

/-- Two entries collide: in their addresses, or in their extents on a target that both touch (R273). -/
def RegionEntry.collides (a b : RegionEntry) : Bool :=
  overlaps (a.base, a.size) (b.base, b.size) ||
    (overlaps (a.poff * 2 ^ 13, a.extent) (b.poff * 2 ^ 13, b.extent) &&
      (upTo 280).any (fun t => a.touches t && b.touches t))

/-- R273. -/
def Mach.regionOk (m : Mach) : Bool :=
  let es := ((upTo 64).map (m.regionEntry true)).filter (fun e => e.valid)
  es.all (fun e => e.fits) && !(es.zipIdx.any (fun x => es.zipIdx.any (fun y => decide (x.2 < y.2) && x.1.collides y.1)))

/-- R298, the ranges of E2ECTL, and R320: no staged set of the page may take effect before the release time of the previous
switch. -/
def Mach.routerOk (m : Mach) (target : Nat) : Bool :=
  let p := routerPage
  let g := fun (f : Fld) => m.live p f
  let moved := [Reg.ROUTER.ROUTERCTL_DIM_X, Reg.ROUTER.ROUTERCTL_DIM_Y, Reg.ROUTER.ROUTERCTL_MY_X, Reg.ROUTER.ROUTERCTL_MY_Y].any
    (fun f => decide (m.live p f ≠ m.act p f))
  let anyOn := (upTo 4).any (fun q => decide (m.act (portPage q) Reg.PORT.PORTCTL_ENABLE = 1))
  decide (1 ≤ g Reg.ROUTER.ROUTERCTL_DIM_X ∧ g Reg.ROUTER.ROUTERCTL_DIM_X ≤ 128 ∧ 1 ≤ g Reg.ROUTER.ROUTERCTL_DIM_Y ∧
      g Reg.ROUTER.ROUTERCTL_DIM_Y ≤ 192 ∧ g Reg.ROUTER.ROUTERCTL_MY_X < g Reg.ROUTER.ROUTERCTL_DIM_X ∧
      g Reg.ROUTER.ROUTERCTL_MY_Y < g Reg.ROUTER.ROUTERCTL_DIM_Y) &&
    !(moved && anyOn) &&
    decide (16 ≤ g Reg.ROUTER.E2ECTL_WIN_LOG2 ∧ g Reg.ROUTER.E2ECTL_WIN_LOG2 ≤ 22 ∧ 410 ≤ g Reg.ROUTER.E2ECTL_RTO_US ∧
      1 ≤ g Reg.ROUTER.E2ECTL_RETRY) &&
    (decide (g Reg.ROUTER.EPOCH_DRAINING = 0) || decide (g Reg.ROUTER.DRAIN_END ≤ target))

/-- R298. -/
def Mach.portOk (m : Mach) (p : Page) : Bool :=
  decide (m.live p Reg.PORT.PORTCTL_ENABLE = 0 ∨ 1 < m.dim (p.idx / 2))

/-- INDEX of a check unit is in range for its KIND, the words fit WIDTH, and the alive counter fits the record (R411). -/
def Mach.chkOk (m : Mach) (p : Page) : Bool :=
  let g := fun (f : Fld) => m.live p f
  let w := g Reg.CHK.FORMAT_WIDTH_M1 + 1
  let k := g Reg.CHK.POINT_KIND
  let i := g Reg.CHK.POINT_INDEX
  let a := g Reg.CHK.FORMAT_ALIVE_W
  let rl := g Reg.CHK.FORMAT_RLEN
  decide (g Reg.CHK.POLY < 2 ^ w ∧ g Reg.CHK.INIT < 2 ^ w ∧ g Reg.CHK.XOROUT < 2 ^ w) &&
    decide ((k = 0 → i < 1024) ∧ (k = 1 → i < 180)) &&
    (decide (a = 0 ∨ rl = 0) || decide (g Reg.CHK.FORMAT_ALIVE_OFF + (if a = 3 then 2 else 1) ≤ rl))

/-- The compute domain is at rest, so that KEEP.MODE.TEST may change (R457). -/
def Mach.atRest (m : Mach) : Bool :=
  m.core.ctxs.all (fun e => decide (e.2.state = .halted ∨ e.2.state = .faulted)) &&
    m.mx.all (fun e => e.2.queue.isEmpty && e.2.running.isNone) && m.sv.all (fun e => e.2.queue.isEmpty && e.2.running.isNone) &&
    m.dma.queues.all (fun e => e.2.isEmpty) && m.coll.all (fun e => e.2.queue.isEmpty && e.2.running.isEmpty) &&
    (upTo 20).all (fun s => decide (m.live ⟨.upd, s⟩ Reg.UPD.STATE ≠ 1 ∧ m.live ⟨.upd, s⟩ Reg.UPD.STATE ≠ 2)) &&
    m.rings.all (fun e => decide (e.2.state ≠ .active ∨ 3 ≤ e.2.kind))

/-- R432, R457. -/
def Mach.keepOk (m : Mach) (p : Page) : Bool :=
  let d := m.live p Reg.KEEP.KEEPCTL_WDOG_MS
  decide (10 ≤ d ∧ d ≤ 10000 ∧ 100 ≤ m.live p Reg.KEEP.KEEPCTL_HB_TIMEOUT_MS) &&
    (decide (m.live p Reg.KEEP.MODE_TEST = m.act p Reg.KEEP.MODE_TEST) || m.atRest)

/-- The consistency rules of a page's staged set; `target` is the instant at which its commit would take effect. -/
def Mach.consistent (m : Mach) (p : Page) (scheduled : Bool) (target : Nat) : Bool :=
  match p.blk with
  | .cell => m.cellOk p
  | .solv => m.solvOk p
  | .comb => m.mapCommitOk p.idx
  | .pool => decide (m.live p Reg.POOL.SCRATCH_MIB ≤ 24)
  | .coll => m.collOk p
  | .chk => m.chkOk p
  | .port => m.portOk p
  | .cal => m.calOk p.idx scheduled target
  | .region => m.regionOk
  | .router => m.routerOk target
  | .time => decide (m.live p Reg.TIME.TIMECTL_HOLD_LIMIT ≠ 0)
  | .ras => decide (m.live p Reg.RAS.RASCTL_PERM_COUNT ≠ 0 ∧ m.live p Reg.RAS.RASCTL_PERM_WINDOW_H ≠ 0 ∧
      m.live p Reg.RAS.RASCTL_RETRY_FAILS ≠ 0)
  | .keep => m.keepOk p
  | .pwr => decide (1000 ≤ m.live p Reg.PWR.PWRCTL_LIMIT_W ∧ m.live p Reg.PWR.PWRCTL_LIMIT_W ≤ 3200 ∧
      80 ≤ m.live p Reg.PWR.PWRCTL_T_HOT ∧ m.live p Reg.PWR.PWRCTL_T_HOT ≤ 105)
  | .upd | .field | .lake | .basin | .dig | .host | .barr | .scale | .ring | .sec | .clk => true

/-- A reserved bit is set in the staged area, or RLEN is beyond the longest record (R33, R40, R405). -/
def Mach.stagedReserved (m : Mach) (p : Page) : Bool :=
  (stagedOffs p.blk).any (fun off => setsReserved p.blk off (m.reg p off)) ||
    (decide (p.blk = .chk) && decide (65536 < m.live p Reg.CHK.FORMAT_RLEN))

end Sys2Proof.Machine
end

