-- ==== Sys2Proof/Machine/Freeze.lean ====
section
/-! DEFINITION. The snapshot of the counters (R353). -/

namespace Sys2Proof.Machine

/-- Every page of the module (R30). -/
def allPages : List Page := Block.all.flatMap (fun b => (upTo b.instances).map (fun i => ⟨b, i⟩))

/-- Blocks of the compute domain (R460). -/
def computeBlock : Block → Bool
  | .cell | .solv | .comb | .pool | .upd | .field | .coll | .lake | .basin | .chk | .dig | .scale => true
  | _ => false

/-- Blocks of the router domain (R322). -/
def routerBlock : Block → Bool
  | .router | .port | .cal | .time => true
  | _ => false

/-- The unit behind a page is in reset or in Retain, and keeps its shadows (R353). -/
def Mach.shadowHeld (m : Mach) (p : Page) : Bool :=
  if computeBlock p.blk then m.power.computeReset || decide (m.live pwrPage Reg.PWR.STATE = 3)
  else if routerBlock p.blk then m.power.routerReset
  else match p.blk with
    | .host => (SMap.get m.host.ports (fun _ => HostPort.reset) p.idx).perst
    | .keep | .sec | .clk | .pwr => m.power.restarting
    | _ => false

/-- Live 64-bit read-only registers that are no counters. -/
def noCounter (b : Block) : List Fld :=
  match b with
  | .solv => [Reg.SOLV.DEADLINE_AT, Reg.SOLV.FSLOT_TAG]
  | .lake | .basin => [Reg.LAKE.CH_STATE, Reg.LAKE.SPARE_USED]
  | .chk => [Reg.CHK.CRC_VALUE, Reg.CHK.shadows]
  | .dig => [Reg.DIG.ROOT, Reg.DIG.RUNDIG]
  | .cal => [Reg.CAL.SWITCH_T]
  | .host => [Reg.HOST.HB_ECHO]
  | .router => [Reg.ROUTER.DRAIN_END]
  | .time => [Reg.TIME.HT_NS, Reg.TIME.STEP_NS]
  | .barr => [Reg.BARR.OBJ_ARRIVED_0, Reg.BARR.OBJ_ARRIVED_1]
  | .ras => [Reg.RAS.LOGE_T]
  | .sec => [Reg.SEC.ID_DIGEST]
  | _ => []

/-- The register at an offset is a counter. -/
def isCounter (b : Block) (off : Nat) : Bool :=
  (fieldsAt b off).any (fun fi =>
    decide (fi.1.acc = .ro ∧ fi.1.hi = 63 ∧ fi.1.lo = 0 ∧ 0x900 ≤ off) && !(noCounter b).any (fun f => decide (f = fi.1)))

/-- The shadow keeps its entry: the page's unit is in reset or in Retain. -/
def Mach.keepsShadow (m : Mach) (k : Nat) : Bool :=
  match pageAt (k / 0x1000) with
  | some p => m.shadowHeld p
  | none => false

/-- Counters of every page that is copied, over those that are kept. -/
def Mach.copyCounters (m : Mach) : SMap Word :=
  let old := m.shadow.regs.filter (fun e => m.keepsShadow e.1)
  m.regs.foldl (fun l e =>
    match pageAt (e.1 / 0x1000) with
    | some p => if isCounter p.blk (e.1 % 0x1000) && !m.shadowHeld p then SMap.set l (fun _ => 0) e.1 e.2 else l
    | none => l) old

/-- What the window of R216 shows of a queue at 0xD08 to 0xD28. -/
def QState.window (s : QState) (r : QRec) : List Nat :=
  [s.records, s.stallCyc, s.starveCyc, s.now r.pdepth % 2 ^ 16 + s.hwm % 2 ^ 16 * 2 ^ 16, s.discard]

/-- The counters of every queue in force. -/
def Mach.copyQueues (m : Mach) : SMap (List Nat) :=
  if m.shadowHeld ⟨.comb, 0⟩ then m.shadow.queues
  else m.liveQueues.foldl (fun l q => SMap.set l (fun _ => []) q.key ((m.qst q.key).window q.qr)) []

/-- A check unit shows its shadows of 0x900 to 0x918 at 0xA00 (R411). -/
def Mach.copyChk (m : Mach) (n : Nat) : Mach :=
  if m.shadowHeld ⟨.chk, n⟩ then m
  else (upTo 4).foldl (fun m i =>
    m.setLive ⟨.chk, n⟩ Reg.CHK.shadows (m.reg ⟨.chk, n⟩ (0x900 + 8 * i)).toNat i) m

/-- A page takes the snapshot's identifier. -/
def Mach.snapPage (m : Mach) (id : Nat) (p : Page) : Mach :=
  if m.shadowHeld p then m else (m.setHdr p { m.hdr p with snapId := w64 id }).raise p 4

/-- R353. The armed snapshot is taken at the tick equal to its instant. -/
def Mach.freeze (m : Mach) : Mach :=
  match m.time.armed with
  | none => m
  | some (t, id) =>
    if m.now ≠ t || !m.power.on then m
    else
      let m1 : Mach := { m with shadow := { regs := m.copyCounters, queues := m.copyQueues,
                                            rings := m.rings.foldl (fun l e => SMap.set l (fun _ => 0) e.1 e.2.done) [] } }
      let m2 := allPages.foldl (fun m p => m.snapPage id p) ((upTo 96).foldl (fun m n => m.copyChk n) m1)
      let m3 := (m2.setLive ⟨.time, 0⟩ Reg.TIME.FREEZE_ARMED 0).bump ⟨.time, 0⟩ Reg.TIME.FREEZES
      { m3 with time := { m3.time with armed := none } }

def execFreezeSnapshot (s : State) : Host.Outcome State Fault Refusal := s.run true (fun m => m.freeze)

end Sys2Proof.Machine
end

