-- ==== Sys2Proof/Machine/Records.lean ====
section
/-! DEFINITION. What the keeper signs and reports: the SPARING_MAP record, the fault log and the attestation report (R431,
R445, R472, R473, R484). -/

namespace Sys2Proof.Machine

/-- Bytes of a number list, and the SHA-256 of bytes as bytes. -/
def shaBytes (d : Bytes) : Bytes := (sha256 (d.map BitVec.toNat)).map (BitVec.ofNat 8)

/-- A signature over bytes under the identity key. -/
def signed (d : Bytes) : Bytes := d ++ toBytes 384 (Config.idSign d)

/-- The SPARING_MAP record in force (R472). -/
def Mach.sparingRecord (m : Mach) : Bytes :=
  let f := m.power.flash
  let p := Config.sparingPayload f.retired
  signed (toBytes 8 (0x01 + 0x01 * 2 ^ 8) ++ toBytes 8 f.sparingSeq ++ toBytes 48 p.length ++ p)

/-- The four words of a fault-log entry (R431). -/
def LogEntry.words (e : LogEntry) : List Nat :=
  [e.time.toNat,
   e.key.type % 2 ^ 16 + e.key.inst % 2 ^ 16 * 2 ^ 16 + e.key.det % 2 ^ 8 * 2 ^ 32 + b2n e.permanent * 2 ^ 40 + b2n e.injected * 2 ^ 41,
   e.key.key % 2 ^ 48,
   min e.reports 0xFFFF + min e.fails 0xFFFF * 2 ^ 16]

/-- The words of a log position; one that nothing has written is zero. -/
def Mach.logWords (m : Mach) (i : Nat) : List Nat :=
  match SMap.get m.ras.log (fun _ => none) i with
  | some e => e.words
  | none => [0, 0, 0, 0]

/-- The fault log from the place that is written next, which holds the oldest entry (R445). -/
def Mach.faultLog (m : Mach) : Bytes :=
  let n := m.live rasPage Reg.RAS.LOG_NEXT
  ((upTo 256).map (fun i => ((m.logWords ((n + i) % 256)).map (toBytes 8)).flatten)).flatten

/-- The image that is not in use. -/
def Mach.fwOther (m : Mach) : FwImage :=
  if m.live keepPage Reg.KEEP.FW_ACTIVE = 1 then m.power.flash.imgA else m.power.flash.imgB

def Mach.identityValid (m : Mach) : Bool := decide (m.live secPage Reg.SEC.BOOT_IDENTITY_VALID = 1)

/-- SEC.ID_DIGEST as a number, lowest byte first. -/
def Mach.idDigest (m : Mach) : Nat := ((upTo 4).map (fun i => (m.reg secPage (0x928 + 8 * i)).toNat * 2 ^ (64 * i))).sum

/-- The rebuilt modulus is the one of the IDENTITY_CERT record (R471). -/
def Flash.identityOk (f : Flash) : Bool :=
  match f.pufHelper, f.idCert with
  | some h, some c => decide (Config.rebuiltModulus h = Config.certModulus c)
  | _, _ => false

/-- Step 3 (R452, R471): the key is rebuilt from the PUF_HELPER record; without one nothing is, and ID_DIGEST stays 0. DEDUCED, log
80. -/
def Mach.rebuildIdentity (m : Mach) : Mach :=
  let f := m.power.flash
  let m1 := m.setLive secPage Reg.SEC.BOOT_IDENTITY_VALID (b2n f.identityOk)
  match f.pufHelper with
  | none => m1
  | some h =>
    let d := bytesNat (sha256 (natBytes 384 (Config.rebuiltModulus h)).reverse)
    (upTo 4).foldl (fun m i => m.setReg secPage (0x928 + 8 * i) (w64 (d / 2 ^ (64 * i)))) m1

/-- The signed part of the attestation report (R473). -/
def Mach.attestBody (m : Mach) (nonce : Bytes) : Bytes :=
  let a := m.fwActive
  let o := m.fwOther
  let cert := m.power.flash.idCert.getD []
  let there := fun (v : Option Nat) => v.isSome && !m.spare.drone
  let cells := (upTo 20).map (fun c => ((upTo 8).filter (fun s => there (m.tcell (8 * c + s)))).length)
  let solvs := ((upTo 20).filter (fun c => there (m.scell c))).length
  let used := ((upTo 4).map (fun f => b2n (m.inService (200 + f) && !m.spare.drone) * 2 ^ f)).sum
  let degraded := (upTo 160).any (fun l => (m.tcell l).isNone)
  toBytes 4 1 ++ toBytes 4 (640 + cert.length) ++ nonce ++ toBytes 8 (if m.timeValid then m.now else 0) ++
    toBytes 16 (Config.certSerial cert) ++ a.digest ++ (if o.ok then o.digest else List.replicate 32 0) ++ toBytes 4 a.version ++
    toBytes 4 o.version ++ toBytes 2 Config.svromVersion ++ toBytes 2 a.patch ++ toBytes 4 0 ++ shaBytes m.sparingRecord ++
    cells.map (BitVec.ofNat 8) ++ [BitVec.ofNat 8 solvs, BitVec.ofNat 8 used,
      BitVec.ofNat 8 (b2n degraded + 2 * b2n m.spare.drone + 4 * b2n m.testMode),
      BitVec.ofNat 8 (m.ifLevel 0 + 16 * m.ifLevel 1)] ++
    toBytes 8 m.power.flash.minVersion ++ toBytes 32 m.idDigest ++ List.replicate 32 0

/-- The report with its signature and the certificate. -/
def Mach.attest (m : Mach) (nonce : Bytes) : Bytes := signed (m.attestBody nonce) ++ m.power.flash.idCert.getD []

/-- What a KREQ entry gives: code, RESULT and output (R445, R473). -/
def Mach.kreqAnswer (m : Mach) (w : List Nat) : Nat × Nat × Bytes :=
  let fit := fun (d : Bytes) => if seLen w < d.length then (0x01, 0, []) else (0, 0, d)
  if seKreq w = 1 then
    if m.identityValid then fit (m.attest (toBytes 8 (wordAt w 6) ++ toBytes 8 (wordAt w 7))) else (0, 1, [])
  else if seKreq w = 2 then fit m.sparingRecord
  else if seKreq w = 3 then fit m.faultLog
  else (0x02, 0, [])

/-- The keeper answers requests: it neither restarts nor hands over (R429, R430). -/
def Mach.keeperAnswers (m : Mach) : Bool := !m.power.restarting && decide (m.live keepPage Reg.KEEP.FW_STATE ≠ 3)

/-- A KREQ entry with a request code is answered at HADDR. -/
def Mach.ringKreq (m : Mach) (r i code : Nat) : Mach :=
  m.onEntry r i 8 (fun e =>
    if seKreq e.words ≠ code ∨ !m.keeperAnswers then m
    else
      let a := m.kreqAnswer e.words
      let m1 := if a.2.2.isEmpty then m else m.send (.hostWrite (m.ringOf r).owner (w64 (seHaddr e.words)) a.2.2 false)
      m1.ringFinish r e.index a.1 a.2.1)

/-- R473. -/
def execKreqAttest (ring : BitVec 13) (idx : BitVec 32) (s : State) : Host.Outcome State Fault Refusal :=
  s.run true (fun m => m.ringKreq ring.toNat idx.toNat 1)

/-- R445. -/
def execKreqSparingMap (ring : BitVec 13) (idx : BitVec 32) (s : State) : Host.Outcome State Fault Refusal :=
  s.run true (fun m => m.ringKreq ring.toNat idx.toNat 2)

/-- R445. -/
def execKreqFaultLog (ring : BitVec 13) (idx : BitVec 32) (s : State) : Host.Outcome State Fault Refusal :=
  s.run true (fun m => m.ringKreq ring.toNat idx.toNat 3)

/-! ## Management (R482 to R484) -/

/-- The level of MGMT_ALERT_N that the events ask for: true is low (R482). -/
def Mach.alertWanted (m : Mach) : Bool :=
  bit (m.hdr rasPage).event 21 || bit (m.hdr rasPage).event 20 || bit (m.hdr pwrPage).event 17 || bit (m.hdr keepPage).event 16 ||
    decide (m.live secPage Reg.SEC.BOOT_STATE = 0xB)

/-- MGMT_ALERT_N is low: during a keeper restart the line holds its last level. -/
def Mach.alert (m : Mach) : Bool := if m.power.restarting then m.power.alertHeld else m.alertWanted

/-- The byte of an SMBus read (R483). -/
def Mach.smbusByte (m : Mach) (code : Nat) : Nat :=
  if code = 0 then m.live pwrPage Reg.PWR.STATE
  else if code = 1 then m.live secPage Reg.SEC.BOOT_STATE
  else if code = 2 then m.live pwrPage Reg.PWR.DIE_TEMP
  else if code = 3 then m.live pwrPage Reg.PWR.IN
  else if code = 4 then m.live pwrPage Reg.PWR.OUT
  else if code = 5 then m.live pwrPage Reg.PWR.INPUT_W % 256
  else if code = 6 then m.live pwrPage Reg.PWR.INPUT_W / 256
  else if code = 7 then
    b2n (bit (m.hdr rasPage).event 21) + 2 * b2n (bit (m.hdr rasPage).event 20) + 4 * b2n (bit (m.hdr pwrPage).event 17)
  else 0xFF

/-- R483. While the keeper restarts, the address is not acknowledged. -/
def execSmbusRead (code : Byte) (s : State) : Host.Outcome State Fault Refusal :=
  s.run true (fun m =>
    if m.keeperRuns then m.send (.smbus (BitVec.ofNat 8 (m.smbusByte code.toNat))) else m)

/-- Pieces of at most n bytes. -/
def pieces (n : Nat) : Nat → Bytes → List Bytes
  | 0, _ => []
  | k + 1, d => if d.isEmpty then [] else d.take n :: pieces n k (d.drop n)

/-- The answer to a datagram with a NOP or KREQ entry: a completion entry and the output (R484). -/
def Mach.mgmtAnswer (m : Mach) (src : BitVec 64) (data : Bytes) : Mach :=
  let w := wordsOf 8 data
  let a : Nat × Nat × Bytes :=
    if seOp w ≠ 0 ∧ seOp w ≠ 8 then (0x02, 0, [])
    else if seReserved w then (0x0C, 0, [])
    else if seOp w = 0 then (0, 0, [])
    else m.kreqAnswer w
  let d := toBytes 8 (ceWord 0 a.1 (seTag w) false) ++ toBytes 8 a.2.1 ++ toBytes 8 m.now ++ toBytes 8 0 ++ a.2.2
  (pieces 1472 (d.length / 1472 + 1) d).foldl (fun m p => m.send (.datagram src p)) m

/-- The keeper is in RECOVERY (R454). -/
def Mach.inRecovery (m : Mach) : Bool := decide (m.live secPage Reg.SEC.BOOT_STATE = 0xB)

/-- R484. A datagram to the keeper: dropped while it restarts, held during a handover (R445), and not answered in RECOVERY, in which it
accepts only LOAD and ACTIVATE (R454). -/
def Mach.mgmt (m : Mach) (src : BitVec 64) (data : Bytes) : Mach :=
  if !m.keeperRuns || m.inRecovery || decide (data.length ≠ 64) then m
  else if !m.keeperAnswers then { m with power := { m.power with mgmt := m.power.mgmt ++ [(src, data)] } }
  else m.mgmtAnswer src data

/-- The requests held during a handover are answered, or in RECOVERY dropped. -/
def Mach.mgmtRelease (m : Mach) : Mach :=
  m.power.mgmt.foldl (fun m r => m.mgmt r.1 r.2) { m with power := { m.power with mgmt := [] } }

def execMgmtDatagram (src : BitVec 64) (data : Bytes) (s : State) : Host.Outcome State Fault Refusal :=
  s.run true (fun m => m.mgmt src data)

end Sys2Proof.Machine
end

