-- ==== Sys2Proof/Machine/Host.lean ====
section
/-! DEFINITION. The host ports (R430, R433, R446 to R449, R453) and the window into memory (R287, R288). -/

namespace Sys2Proof.Machine

def hostDefault (_ : Nat) : HostPort := HostPort.reset

def Mach.port (m : Mach) (h : HostId) : HostPort := SMap.get m.host.ports hostDefault h.val

def Mach.setPort (m : Mach) (h : HostId) (x : HostPort) : Mach :=
  { m with host := { m.host with ports := SMap.set m.host.ports hostDefault h.val x } }

def Mach.failed (m : Mach) (h : HostId) : Bool := decide (m.live (hostPage h) Reg.HOST.PORT_STATE_FAILED = 1)

/-! ## Failure (R447, R449) -/

/-- Every ring that the port owns becomes ORPHANED, whatever its state was (R449). -/
def Mach.orphan (m : Mach) (h : HostId) : Mach :=
  let hit := fun (x : RingSt) => decide (x.owner = h ∧ x.state ≠ .orphaned)
  let m1 := m.raiseIf ((upTo 8192).any (fun r => hit (m.ringOf r))) ringPage 18
  { m1 with rings := SMap.tabulate ringDefault (fun r =>
      let x := m.ringOf r
      if hit x then { x with state := .orphaned } else x) 8192 }

/-- A port enters FAILED. -/
def Mach.failPort (m : Mach) (h : HostId) : Mach :=
  if m.failed h then m
  else
    let p := hostPage h
    let m1 := ((m.setLive p Reg.HOST.PORT_STATE_FAILED 1).bump p Reg.HOST.FAILURES).setLive p Reg.HOST.IFLEVEL_CHOSEN 0
    let m2 := m1.setPort h { m1.port h with hbMoved := false }
    ((m2.raise (hostPage 0) 18).raise (hostPage 1) 18).orphan h

/-- The link of a port is down (R433, R447). -/
def Mach.linkDown (m : Mach) (h : HostId) : Mach :=
  let p := hostPage h
  let x := m.port h
  let m1 := m.setPort h { x with linkUp := false, downSince := if x.linkUp then m.ticks else x.downSince }
  ((m1.setLive p Reg.HOST.LINK_SPEED 0).setLive p Reg.HOST.LINK_WIDTH 0).setLive p Reg.HOST.LINK_FLIT 0

/-- The HOST page and the MSI-X state of a port are reset (R460). -/
def Mach.resetHost (m : Mach) (h : HostId) : Mach :=
  let p := (hostPage h).num
  let other := SMap.keep (α := Bool) (fun k => k / 2048 ≠ h.val)
  { m with hdrs := SMap.erase m.hdrs p, regs := SMap.keep (fun k => k / 0x1000 ≠ p) m.regs,
           shadow := { m.shadow with regs := SMap.keep (fun k => k / 0x1000 ≠ p) m.shadow.regs },
           host := { m.host with unmasked := other m.host.unmasked, pend := other m.host.pend
                                 table := SMap.keep (fun k => k / 2048 ≠ h.val) m.host.table
                                 bells := m.host.bells.filter (fun b => decide (b.port ≠ h)) } }

/-- R447. PERST resets the port's domain and puts it into FAILED at once. -/
def Mach.perst (m : Mach) (h : HostId) : Mach :=
  let m1 := (m.linkDown h).resetHost h
  (m1.setPort h { m1.port h with perst := true, hbSince := m.ticks, echoSince := m.ticks }).failPort h

/-- R447, R479. Without power the pin is noted: the port is FAILED when the module domain leaves reset. -/
def execPerstAssert (port : HostId) (s : State) : Host.Outcome State Fault Refusal :=
  s.run true (fun m => if m.power.on then m.perst port else m.setPort port { m.port port with perst := true })

/-- R447. -/
def execHostLinkDown (port : HostId) (s : State) : Host.Outcome State Fault Refusal := s.run true (fun m => m.linkDown port)

/-- R433. The link has trained: PERST is deasserted by then. Ports stay down after a failed ROM self-test (R452). -/
def Mach.linkUp (m : Mach) (h : HostId) (speed width : Nat) (flit : Bool) : Mach :=
  let p := hostPage h
  let m1 := m.setPort h { m.port h with linkUp := true, perst := false }
  ((m1.setLive p Reg.HOST.LINK_SPEED speed).setLive p Reg.HOST.LINK_WIDTH width).setLive p Reg.HOST.LINK_FLIT (b2n flit)

def execHostLinkUp (port : HostId) (speed width : BitVec 4) (flit : Bool) (s : State) : Host.Outcome State Fault Refusal :=
  s.run (decide (1 ≤ speed.toNat ∧ speed.toNat ≤ 6 ∧ (width = 1 ∨ width = 2 ∨ width = 4 ∨ width = 8)))
    (fun m => if m.runs then m.linkUp port speed.toNat width.toNat flit else m)

/-- R447. -/
def execLinkDownTimeout (port : HostId) (s : State) : Host.Outcome State Fault Refusal :=
  s.run true (fun m =>
    let x := m.port port
    if m.runs && !x.linkUp && decide (x.downSince + 100000000 ≤ m.ticks) then m.failPort port else m)

/-- R448. -/
def Mach.recoverPort (m : Mach) (h : HostId) : Mach :=
  let p := hostPage h
  let x := m.port h
  if m.power.on && m.failed h && !x.perst && x.linkUp && (x.hbMoved || decide (m.live p Reg.HOST.PORT_STATE_HB_ARMED = 0)) then
    (m.setLive p Reg.HOST.PORT_STATE_FAILED 0).raise p 19
  else m

def execHostRecovered (port : HostId) (s : State) : Host.Outcome State Fault Refusal := s.run true (fun m => m.recoverPort port)

/-! ## Heartbeats (R430, R447) -/

/-- Ticks of KEEPCTL.HB_TIMEOUT_MS. -/
def Mach.hbTimeout (m : Mach) : Nat := 1000000 * m.act keepPage Reg.KEEP.KEEPCTL_HB_TIMEOUT_MS

/-- A write of HEARTBEAT arms the supervision, or disarms it when it leaves 0. -/
def Mach.heartbeat (m : Mach) (h : HostId) (w : RegWrite) : Mach :=
  let p := hostPage h
  let old := m.reg p 0xA08
  let v := w.merge old
  let m1 := (m.setReg p 0xA08 v).setLive p Reg.HOST.PORT_STATE_HB_ARMED (b2n (decide (v ≠ 0)))
  if v = old then m1 else m1.setPort h { m1.port h with hbSince := m.ticks, hbMoved := true }

/-- R430. -/
def execHeartbeat (port : HostId) (w : RegWrite) (s : State) : Host.Outcome State Fault Refusal :=
  s.run true (fun m => m.ownedLive (hostPage port) 0xA08 w (fun m => m.heartbeat port w))

/-- The keeper services its watchdog. It does so as it copies a heartbeat. DESIGN CHOICE, log 78: the spec names no occasion. -/
def Mach.serviced (m : Mach) : Mach := { m with power := { m.power with wdogAt := m.ticks } }

/-- R430. The keeper copies HEARTBEAT to HB_ECHO. -/
def Mach.hbEcho (m : Mach) (h : HostId) : Mach :=
  let p := hostPage h
  let v := m.live p Reg.HOST.HEARTBEAT
  if !m.keeperRuns || decide (m.live p Reg.HOST.HB_ECHO = v) then m
  else ((m.setLive p Reg.HOST.HB_ECHO v).setPort h { m.port h with echoSince := m.ticks }).serviced

def execHbEcho (port : HostId) (s : State) : Host.Outcome State Fault Refusal := s.run true (fun m => m.hbEcho port)

/-- R447. The keeper fails a port whose armed heartbeat has stalled. -/
def execHbTimeout (port : HostId) (s : State) : Host.Outcome State Fault Refusal :=
  s.run true (fun m =>
    if m.keeperRuns && decide (m.live (hostPage port) Reg.HOST.PORT_STATE_HB_ARMED = 1) &&
      decide ((m.port port).hbSince + m.hbTimeout ≤ m.ticks) then m.failPort port else m)

/-! ## Supervision of the keeper (R430) -/

/-- Forget the registers, headers and shadows of the pages that a test names. -/
def Mach.resetPages (m : Mach) (p : Page → Bool) (keep : Page → Nat → Bool) : Mach :=
  let out := fun (k : Nat) => match pageAt (k / 0x1000) with
    | some pg => p pg && !keep pg (k % 0x1000)
    | none => false
  { m with
    regs := SMap.keep (fun k => !out k) m.regs
    shadow := { m.shadow with regs := SMap.keep (fun k => !out k) m.shadow.regs }
    hdrs := SMap.keep (fun n => match pageAt n with | some pg => !p pg | none => true) m.hdrs }

/-- Registers of the keeper's pages that show what lies in other domains: PWR.STATE, THROTTLE and CLK.LOCK. -/
def showsOther (p : Page) (off : Nat) : Bool :=
  (decide (p.blk = .pwr) && decide (off = 0x900 ∨ off = 0x918)) || (decide (p.blk = .clk) && decide (off = 0x900))

/-- A keeper reset: it restarts from ROM, and the SEC, PWR and CLK pages are reset with it (R430, R460). What it held for the management
port is dropped (R484). DEDUCED, log 78: which of its registers show other domains, and that the KEEP page keeps its counters, events and
configuration. -/
def Mach.keeperReset (m : Mach) : Mach :=
  let m1 : Mach := { m with power := { m.power with restarting := true, alertHeld := m.alert, mgmt := [] } }
  let m2 := m1.resetPages (fun p => decide (p = secPage ∨ p = pwrPage ∨ p = clkPage)) showsOther
  ((m2.bump keepPage Reg.KEEP.KEEPER_RESETS).setLive keepPage Reg.KEEP.FW_STATE 0).raise keepPage 16

/-- R430. The watchdog has not been serviced for WDOG_MS. -/
def execWatchdogExpire (s : State) : Host.Outcome State Fault Refusal :=
  s.run true (fun m =>
    if m.keeperRuns && decide (m.power.wdogAt + 1000000 * m.act keepPage Reg.KEEP.KEEPCTL_WDOG_MS ≤ m.ticks) then
      (m.bump keepPage Reg.KEEP.WDOG_EXPIRIES).keeperReset else m)

/-- A write of KRESET: it acts only when HB_ECHO has stalled. -/
def Mach.kreset (m : Mach) (h : HostId) : Mach :=
  if (m.port h).echoSince + m.hbTimeout ≤ m.ticks then m.keeperReset else m.cfgReject (hostPage h) 1

/-- R430. -/
def execKreset (port : HostId) (w : RegWrite) (s : State) : Host.Outcome State Fault Refusal :=
  s.run true (fun m => m.ownedLive (hostPage port) 0xA18 w (fun m => if bit w.bits 0 then m.kreset port else m))

/-! ## Interface level (R446) -/

/-- CHOSEN for MIN and MAX, and whether none suits. -/
def levelFor (lo hi : Nat) : Nat × Bool :=
  if min hi 3 < lo ∨ hi < lo then (0, true) else (min hi 3, false)

def Mach.ifLevelWrite (m : Mach) (h : HostId) (w : RegWrite) : Mach :=
  let p := hostPage h
  let m1 := m.putHeld p 0x908 w
  let c := levelFor (m1.live p Reg.HOST.IFLEVEL_MIN) (m1.live p Reg.HOST.IFLEVEL_MAX)
  (m1.setLive p Reg.HOST.IFLEVEL_CHOSEN c.1).raiseIf c.2 p 20

/-- R446. -/
def execIflevelWrite (port : HostId) (w : RegWrite) (s : State) : Host.Outcome State Fault Refusal :=
  s.run true (fun m => m.ownedLive (hostPage port) 0x908 w (fun m =>
    if bit w.cover 0 then m.ifLevelWrite port w else m))

/-! ## The window (R287, R288) -/

/-- Window requests complete as Unsupported Request: before ready, in a compute-domain reset, and in Retain that no access
ends (R453, R461, R464). -/
def Mach.windowOff (m : Mach) : Bool :=
  !m.ready || m.power.computeReset ||
    (decide (m.live pwrPage Reg.PWR.STATE = 3) && (m.power.forced || decide (m.act pwrPage Reg.PWR.PWRCTL_AUTOWAKE = 0)))

/-- Memory address of byte x of the window (R287). -/
def Mach.windowAddr (m : Mach) (h : HostId) (x : Nat) : Nat := m.live (hostPage h) Reg.HOST.BASE * 2 ^ 30 + x

/-- R287, R288. A read or a write goes to its home slices, which may hold it; its address is that of its arrival. -/
def Mach.windowAccess (m : Mach) (h : HostId) (r : WindowReq) : Mach :=
  match r with
  | .atomic _ => m.send (.unsupported h)
  | .read off len =>
    if m.windowOff then m.send (.unsupported h)
    else m.accessWakes.memAccess (.read (some h) (m.windowAddr h off) len)
  | .write off data ep =>
    if m.windowOff then m
    else m.accessWakes.memAccess (.write (m.windowAddr h off) data ep)

/-- A request lies in the window. -/
def windowIn (r : WindowReq) : Bool :=
  match r with
  | .read off len => decide (off + len ≤ 2 ^ 36)
  | .write off data _ => decide (off + data.length ≤ 2 ^ 36)
  | .atomic off => decide (off < 2 ^ 36)

/-- R288. -/
def execHostWindowAccess (port : HostId) (r : WindowReq) (s : State) : Host.Outcome State Fault Refusal :=
  s.run (windowIn r) (fun m => if m.runs then m.windowAccess port r else m)

end Sys2Proof.Machine
end

