-- ==== Sys2Proof/Machine/Spare.lean ====
section
/-! DEFINITION. Spare switch points (R17, R18, R420 to R422): which unit takes over, the copy, and the new sparing map. -/

namespace Sys2Proof.Machine

/-- A reserve unit can take over: it serves nothing, is not retired and is not already taken. -/
def Mach.reserveFree (m : Mach) (v : Nat) : Bool :=
  !decide (v ∈ m.spare.retired) && !m.inService v && !m.spare.copies.any (fun c => decide (c.toUnit = v))

/-- The sparing map of a logical unit: a tensor cell, or a solver cell. -/
def Mach.setServe (m : Mach) (u l : Nat) (v : Option Nat) : Mach :=
  if u < 180 then { m with spare := { m.spare with tcells := SMap.set m.spare.tcells (fun k => some (9 * (k / 8) + k % 8)) l v } }
  else { m with spare := { m.spare with solvs := SMap.set m.spare.solvs (fun k => some (180 + k)) l v } }

/-- Index of a logical unit as a check unit names it (R403). -/
def tapIndex (u l : Nat) : Nat := if u < 180 then l else 160 + l

/-- The whole compute domain is retired (R18). -/
def Mach.droneMode (m : Mach) (u : Nat) : Mach :=
  let m1 : Mach := { (m.retire u) with spare := { (m.retire u).spare with drone := true, marked := [], copies := [] } }
  let m2 := (upTo 180).foldl (fun m l => m.tapLost 1 l) m1
  (m2.raise rasPage 20).trayDue (unitPage u) u

/-- The queues of an absent unit: a record that was moving is lost, and waits at their other ends end with ABSENT (R206, R208,
R214). -/
def Mach.dropQueues (m : Mach) (lost : List LiveQueue) : Mach :=
  (lost.foldl (fun m q => m.setQst q.key { m.qst q.key with moving := false }) m).settleQueues

/-- A unit that stops serving without a copy: its logical number becomes absent and its contents are discarded (R422). -/
def Mach.dropUnit (m : Mach) (u l : Nat) : Mach :=
  let out := fun (k n : Nat) => SMap.keep (α := _) (fun i => !decide (k * n ≤ i ∧ i < (k + 1) * n))
  let lost := m.liveQueues.filter (fun q => decide (m.partUnit q.prod = some u ∨ m.partUnit q.cons = some u))
  let m1 := (m.setServe u l none).tapLost 1 (tapIndex u l)
  let m2 : Mach := { m1 with
    core := { m1.core with ctxs := SMap.keep (fun i => i / 16 ≠ u) m1.core.ctxs, units := SMap.erase m1.core.units u,
                           vregs := SMap.keep (fun i => i / 32 ≠ u) m1.core.vregs, vmarks := SMap.keep (fun i => i / 32 ≠ u) m1.core.vmarks,
                           preds := SMap.keep (fun i => i / 8 ≠ u) m1.core.preds }
    mem := out u (2 ^ 24) m1.mem, poison := SMap.keep (fun i => i / 2 ^ 21 ≠ u) m1.poison
    mx := SMap.erase m1.mx u, sv := if u < 180 then m1.sv else SMap.erase m1.sv (u - 180)
    dma := { m1.dma with queues := SMap.erase m1.dma.queues u } }
  m2.dropQueues (lost.filter (fun q => (m.qst q.key).moving))

/-- The switch of one marked unit begins (R421, R422). One that a switch in progress places in service waits for its own, while
its comb has a unit to give; without one it is a further retirement. A unit that is itself being copied out of does not take over: the
marked unit waits, and meets whichever serves slot 7 at the next switch point. -/
def Mach.switchUnit (m : Mach) (u : Nat) : Mach :=
  match m.logicalOf u with
  | none =>
    if !m.spare.copies.any (fun c => decide (c.toUnit = u)) then m.retire u
    else if u < 180 ∧ (m.tcell (8 * (u / 9) + 7)).isSome then m
    else m.droneMode u
  | some l =>
    let go := fun (m : Mach) (v : Nat) =>
      ({ m with spare := { m.spare with copies := m.spare.copies ++ [⟨l, u, v⟩],
                                        marked := m.spare.marked.filter (fun x => decide (x ≠ u)) } } : Mach)
    if u < 180 then
      if m.reserveFree (9 * (u / 9) + 8) then go m (9 * (u / 9) + 8)
      else
        let l7 := 8 * (u / 9) + 7
        match m.tcell l7 with
        | none => m.droneMode u
        | some v =>
          if v = u then ((m.dropUnit u l7).retire u).raise rasPage 19
          else if m.spare.copies.any (fun c => decide (c.fromUnit = v)) then m
          else (go (m.dropUnit v l7) v).raise rasPage 19
    else if m.reserveFree (200 + fieldOf u) then go m (200 + fieldOf u)
    else m.droneMode u

/-- A spare switch point: marked units in ascending physical number (R420, R422). In test mode nothing switches. -/
def Mach.spareSwitch (m : Mach) : Mach :=
  if m.testMode then m
  else
    let us := (upTo 204).filter (fun u => decide (u ∈ m.spare.marked))
    if us.isEmpty then m else (us.foldl (fun m u => if m.spare.drone then m else m.switchUnit u) m).showPending

/-! ## The copy (R421) -/

/-- Move the entries with keys in [a, a + n) to [b, b + n). -/
def SMap.move {α : Type} (l : SMap α) (a b n : Nat) : SMap α :=
  (l.filter (fun e => decide (a ≤ e.1 ∧ e.1 < a + n))).foldl (fun t e => SMap.insert t (e.1 - a + b) e.2)
    (l.filter (fun e => !decide (a ≤ e.1 ∧ e.1 < a + n) && !decide (b ≤ e.1 ∧ e.1 < b + n)))

/-- Nothing that the unit has started is still running. -/
def Mach.unitDrained (m : Mach) (u : Nat) : Bool :=
  let x := m.unit u
  (m.mxOf u).running.isNone && (m.dmaQueue u).all (fun i => !i.started) && (u < 180 || (m.svOf (u - 180)).running.isNone) &&
    x.inFlight.isEmpty && x.vMove.isNone && x.vWake.isNone

/-- Held tiles and the vector owner's state go to their save slots. -/
def Mach.saveAll (m : Mach) (u : Nat) : Mach :=
  let m1 := match (m.mxOf u).resident with
    | some d => (match (m.mxOf u).tile d with | some t => m.saveTile u d t | none => m)
    | none => m
  m1.saveOwner u

/-- The configuration of a page, staged and active, is copied to another page. -/
def Mach.copyConfig (m : Mach) (p q : Page) : Mach :=
  (stagedOffs p.blk).foldl (fun m off => (m.setReg q off (m.reg p off)).setReg q (off + 0x400) (m.reg p (off + 0x400))) m

/-- Live registers that show what moves with a unit: DENORM and, in a solver cell, the slots that hold a factorisation (R137,
R196). -/
def Mach.moveLive (m : Mach) (u v : Nat) : Mach :=
  let p := unitPage u
  let m1 := m.setReg (unitPage v) 0xA00 (m.reg p 0xA00)
  if u < 180 then m1
  else [0x9A0, 0x9A8].foldl (fun m off => (m.setReg (unitPage v) off (m.reg p off)).setReg p off 0) m1

/-- What unit u holds moves to unit v. -/
def Mach.moveUnit (m : Mach) (u v : Nat) : Mach :=
  let m1 := ((m.saveAll u).copyConfig (unitPage u) (unitPage v)).moveLive u v
  let c := m1.core
  let item := fun (i : CollItem) => if i.ring.isNone ∧ i.unit = u then { i with unit := v } else i
  { m1 with
    core := { ctxs := SMap.move c.ctxs (16 * u) (16 * v) 16, units := SMap.move c.units u v 1, vregs := SMap.move c.vregs (32 * u) (32 * v) 32,
              vmarks := SMap.move c.vmarks (32 * u) (32 * v) 32, preds := SMap.move c.preds (8 * u) (8 * v) 8 }
    mem := SMap.move m1.mem (u * 2 ^ 24) (v * 2 ^ 24) (2 ^ 24)
    poison := SMap.move m1.poison (u * 2 ^ 21) (v * 2 ^ 21) (2 ^ 21)
    mx := SMap.move m1.mx u v 1
    sv := if u < 180 then m1.sv else SMap.move m1.sv (u - 180) (v - 180) 1
    dma := { m1.dma with queues := SMap.move m1.dma.queues u v 1 }
    coll := m1.coll.map (fun e => (e.1, { e.2 with queue := e.2.queue.map item,
                                                   running := e.2.running.map (fun r => { r with item := item r.item }) })) }

/-- R421. The copy into the new unit ends, which reads every word of the old one: one that cannot be corrected is written poisoned. The
sparing map changes. -/
def Mach.spareDone (m0 : Mach) (u : Nat) : Mach :=
  match m0.spare.copies.find? (fun c => decide (c.fromUnit = u)) with
  | none => m0
  | some c =>
    if !m0.unitDrained u then m0
    else
      let m := m0.errorsFound (fun p => decide (p.unit = some u))
      let m1 := (m.moveUnit u c.toUnit).setServe u c.logical (some c.toUnit)
      let m2 : Mach := { m1 with spare := { m1.spare with copies := m1.spare.copies.erase c } }
      ((m2.retire u).bump rasPage Reg.RAS.SPARES_DONE).raise rasPage 18

def execSpareDone (u : UnitId) (s : State) : Host.Outcome State Fault Refusal := s.run true (fun m => m.spareDone u.val)

end Sys2Proof.Machine
end

