-- ==== Sys2Proof/Machine/Domain.lean ====
section
/-! DEFINITION. Reset of the compute domain and of the router domain (R276, R299, R323, R460, R461). -/

namespace Sys2Proof.Machine

/-- Fields of one region entry, staged and in force. -/
def Mach.putRegion (m : Mach) (i mem base size : Nat) : Mach :=
  let put := fun (m : Mach) (f : Fld) (v : Nat) => m.setLive regionPage f v i
  let m1 := put (put (put (put m Reg.REGION.ENTRY_VALID 1) Reg.REGION.ENTRY_MEM mem) Reg.REGION.ENTRY_BASE base) Reg.REGION.ENTRY_SIZE size
  let copy := fun (m : Mach) (off : Nat) => m.setReg regionPage (off + 0x400) (m.reg regionPage off)
  copy (copy m1 (0x100 + 16 * i)) (0x108 + 16 * i)

/-- Entries 0 and 1 of the default table (R276). -/
def Mach.region0 (m : Mach) : Mach := m.putRegion 0 0 0 285696
def Mach.region1 (m : Mach) : Mach := m.putRegion 1 1 0x80000 786432

/-- The region table of R276 and nothing else in it. -/
def Mach.defaultRegions (m : Mach) : Mach :=
  let n := regionPage.num
  ({ m with regs := SMap.keep (fun k => k / 0x1000 ≠ n || decide (0x900 ≤ k % 0x1000)) m.regs } : Mach).region0.region1

/-- What lanes and reserves a memory controller has put to use stays as the hardware is. -/
def keptRegister (p : Page) (off : Nat) : Bool :=
  (decide (p.blk = .lake) || decide (p.blk = .basin)) && decide (off = 0x900 ∨ off = 0x928)

/-- A ring entry whose target is lost completes with ABSENT (R461). -/
def Mach.lostEntries (m : Mach) : Mach :=
  { m with rings := m.rings.map (fun e =>
      if e.2.kind ≤ 2 then
        (e.1, { e.2 with started := e.2.started.map (fun x =>
          if x.outcome.isNone ∧ seOp x.words ≠ 7 then { x with placed := true, outcome := some (0x05, 0), time := m.now } else x) })
      else e) }

/-- A packet is owned by a collective engine. -/
def PktOwner.ofColl : PktOwner → Bool
  | .coll _ _ => true
  | _ => false

/-- Packets of the collective engines have nobody left to report to; those not admitted are gone. -/
def Mach.dropColl (m : Mach) : Mach :=
  { m with fab := { m.fab with
    offers := m.fab.offers.filter (fun o => !o.owner.ofColl)
    tx := m.fab.tx.map (fun t => { t with out := t.out.map (fun p => if p.owner.ofColl then { p with owner := .nobody } else p) }) } }

/-- Window reads that memory holds when the compute domain is reset complete as Unsupported Request (R461). DEDUCED, log 98. -/
def Mach.dropHeld (m : Mach) : Mach :=
  m.chan.held.foldl (fun m r => match r with | .read (some h) .. => m.send (.unsupported h) | _ => m) m

/-- A compute-domain reset begins (R461). -/
def Mach.computeReset (m : Mach) (bist : Bool) : Mach :=
  if m.power.computeReset then m
  else
    let m1 := (m.lostEntries.dropHeld.dropColl.resetPages (fun p => computeBlock p.blk) keptRegister).bump pwrPage Reg.PWR.COMPUTE_RESETS
    let m2 := (if m1.live pwrPage Reg.PWR.STATE = 1 then m1 else (m1.setLive pwrPage Reg.PWR.STATE 1).raise pwrPage 18).settleBells
    let again := m2.spare.copies.map (fun c => c.fromUnit)
    { m2 with
      mem := SMap.keep (fun k => decide (2 ^ 48 ≤ k)) m2.mem
      poison := SMap.keep (fun k => decide (2 ^ 45 ≤ k)) m2.poison
      core := CoreSt.reset, queue := QueueSt.reset, mx := [], train := TrainSt.reset, dma := DmaSt.reset, dig := [], chk := []
      sv := [], coll := []
      chan := { MemSt.reset with scrub := m2.chan.scrub, chans := m2.chan.chans.map (fun e => (e.1, { e.2 with retrain := false })) }
      ras := { m2.ras with imgBusy := 0, imgSlots := [] }
      spare := { m2.spare with copies := [], marked := m2.spare.marked ++ again }
      shadow := { m2.shadow with queues := [] }
      power := { m2.power with computeReset := true, bist := bist, again := false } }

/-- A reset of the router domain begins: nothing in it is kept (R323, R460). Packets outstanding at this sender are lost. -/
def Mach.routerReset (m : Mach) : Mach :=
  if m.power.routerReset then m
  else
    let lost := m.fab.tx.flatMap (fun t => t.out)
    let m1 := lost.foldl (fun m o => m.pktDone o.owner o.pk 0x07) m
    let m2 := m1.resetPages (fun p => routerBlock p.blk) (fun _ _ => false)
    { m2 with
      fab := { FabSt.reset with offers := m2.fab.offers, bars := m2.fab.bars, lastJob := m2.fab.lastJob, lateAt := m2.fab.lateAt }
      time := TimeSt.reset
      power := { m2.power with routerReset := true } }

/-- A commit by the keeper of what is staged on a page. -/
def Mach.keeperCommit (m : Mach) (p : Page) : Mach := (m.copyStaged p).commitTaken p

/-- The keeper commits ROUTERCTL and each PORTCTL of the PLACEMENT record (R299). -/
def Mach.place (m : Mach) : Mach :=
  match m.power.flash.placement with
  | none => m
  | some r =>
    let put := fun (m : Mach) (f : Fld) (v : Nat) => m.setLive routerPage f v
    let m1 := (put (put (put (put m Reg.ROUTER.ROUTERCTL_DIM_X r.dimX) Reg.ROUTER.ROUTERCTL_DIM_Y r.dimY)
      Reg.ROUTER.ROUTERCTL_MY_X r.myX) Reg.ROUTER.ROUTERCTL_MY_Y r.myY).keeperCommit routerPage
    (upTo 4).foldl (fun m p =>
      ((m.setLive (portPage p) Reg.PORT.PORTCTL_ENABLE (b2n (r.ports.getD p false))).keeperCommit (portPage p)).portCommit p) m1

/-- R323. -/
def Mach.routerResetDone (m : Mach) : Mach :=
  if m.power.routerReset then
    ({ m with power := { m.power with routerReset := false } } : Mach).place
  else m

def execRouterResetDone (s : State) : Host.Outcome State Fault Refusal := s.run true (fun m => m.routerResetDone)

/-- A write of PWR.RESET (R461, R323). -/
def Mach.resetWrite (m : Mach) (w : RegWrite) : Mach :=
  let v := w.bits
  let m1 := if bit v 0 then m.computeReset (bit v 2) else m
  if bit v 1 then m1.routerReset else m1

/-- The write by the page's owner. -/
def Mach.resetRegister (m : Mach) (w : RegWrite) : Mach := m.ownedLive pwrPage 0x910 w (fun m => m.resetWrite w)

/-- R323. -/
def execRouterReset (w : RegWrite) (s : State) : Host.Outcome State Fault Refusal :=
  s.run (bit w.bits 1) (fun m => m.resetRegister w)

/-- R461. -/
def execComputeReset (w : RegWrite) (s : State) : Host.Outcome State Fault Refusal :=
  s.run (bit w.bits 0) (fun m => m.resetRegister w)

/-- R461. -/
def execComputeResetBist (w : RegWrite) (s : State) : Host.Outcome State Fault Refusal :=
  s.run (bit w.bits 0 && bit w.bits 2) (fun m => m.resetRegister w)

end Sys2Proof.Machine
end

