-- ==== Sys2Proof/Machine/Tick.lean ====
section
/-! DEFINITION. The time tick of 1 GHz (R5, R326), and what keeps the compute domain from Idle (R463). -/

namespace Sys2Proof.Machine

/-- Slew the fraction by one unit of 2^−16 ns every second tick, below the 10 ppm of R335. Slewing moves the time tick itself
(R458), so the count misses no value and repeats none: the fraction carries into the lead over the oscillator. DEDUCED, log 6. -/
def TimeSt.slewed (t : TimeSt) (odd : Bool) : TimeSt :=
  if odd ∨ t.slew = 0 then t
  else if 0 < t.slew then { t with frac := t.frac + 1, slew := t.slew - 1, lead := if t.frac = 0xFFFF then t.lead + 1 else t.lead }
  else { t with frac := t.frac - 1, slew := t.slew + 1, lead := if t.frac = 0 then t.lead - 1 else t.lead }

/-- A context is READY or RUNNING, or a matrix, solver, DMA, collective or update queue holds work (R463). -/
def Mach.busy (m : Mach) : Bool :=
  m.core.ctxs.any (fun e => decide (e.2.state = .ready ∨ e.2.state = .running)) ||
  m.mx.any (fun e => !e.2.queue.isEmpty || e.2.running.isSome) ||
  m.sv.any (fun e => !e.2.queue.isEmpty || e.2.running.isSome) ||
  m.dma.queues.any (fun e => !e.2.isEmpty) ||
  m.coll.any (fun e => !e.2.queue.isEmpty || !e.2.running.isEmpty) ||
  (upTo 20).any (fun s => decide (m.live ⟨.upd, s⟩ Reg.UPD.STATE = 1 ∨ m.live ⟨.upd, s⟩ Reg.UPD.STATE = 2))

/-- The count of the time tick: hive time advances by 1 ns while the module has power (R326, R486). -/
def Mach.countTick (m : Mach) : Mach :=
  let t := m.time.slewed (decide (m.ticks % 2 = 1))
  let p := if m.busy then { m.power with busyAt := m.ticks + 1 } else m.power
  if m.power.on then { m with ticks := m.ticks + 1, time := { t with ns := t.ns + 1 }, power := p }
  else { m with ticks := m.ticks + 1 }

end Sys2Proof.Machine
end

