-- ==== Sys2Proof/Machine/Power.lean ====
section
/-! DEFINITION. Power states (R462 to R465), the governors of the throttle (R467, R468), the PLLs (R459, R415), register
parity (R413) and TRAY_ID (R481). -/

namespace Sys2Proof.Machine

/-! ## Idle and Retain (R462 to R465) -/

/-- A change of PWR.STATE. -/
def Mach.powerState (m : Mach) (v : Nat) : Mach := (m.setLive pwrPage Reg.PWR.STATE v).raise pwrPage 18

def Mach.pwr (m : Mach) : Nat := m.live pwrPage Reg.PWR.STATE

/-- The compute domain is there to change its power state: the module is ready and the domain is not in reset. -/
def Mach.domainUp (m : Mach) : Bool := m.ready && !m.power.computeReset

/-- R463. -/
def Mach.idleEnter (m : Mach) : Mach :=
  let us := m.act pwrPage Reg.PWR.PWRCTL_IDLE_US
  if m.domainUp && decide (m.pwr = 1 ∧ us ≠ 0 ∧ m.power.busyAt + 1000 * us ≤ m.ticks) && !m.busy then m.powerState 2 else m

def execIdleEnter (s : State) : Host.Outcome State Fault Refusal := s.run true (fun m => m.idleEnter)

/-- Instants that the module knows: WAIT.TIME, barrier releases, scheduled commits and the armed snapshot (R463). -/
def Mach.knownInstants (m : Mach) : List Nat :=
  m.core.ctxs.filterMap (fun e => match e.2.wait with
    | .time t => if e.2.state = .waiting then some t.toNat else none
    | _ => none) ++
  m.fab.bars.filterMap (fun e => e.2.release) ++
  m.hdrs.filterMap (fun e => if e.2.pending && e.2.scheduled then some e.2.goTarget.toNat else none) ++
  (match m.time.armed with
    | some a => [a.1]
    | none => [])

/-- R463. The wake from Idle begins 1 µs before a known instant. -/
def Mach.earlyWake (m : Mach) : Mach :=
  if m.domainUp && decide (m.pwr = 2) && m.knownInstants.any (fun t => decide (m.now < t ∧ t ≤ m.now + 1000)) then m.powerState 1
  else m

def execIdleEarlyWake (s : State) : Host.Outcome State Fault Refusal := s.run true (fun m => m.earlyWake)

/-- Retain is, or is no longer, asked for while the module wakes. -/
def Mach.setAgain (m : Mach) (v : Bool) : Mach := { m with power := { m.power with again := v } }

/-- A write of PWR.REQ (R464, R465). A request for Retain that comes while the module wakes is taken up when the wake ends. -/
def Mach.powerRequest (m : Mach) (w : RegWrite) : Mach :=
  let r := fld w.bits 1 0
  if m.power.forced then m
  else if r = 1 then (if m.pwr = 1 ∨ m.pwr = 2 then m.powerState 4 else if m.pwr = 5 then m.setAgain true else m)
  else if r = 2 then
    (if m.pwr = 4 then m.powerState 1 else if m.pwr = 3 then m.powerState 5 else if m.pwr = 5 then m.setAgain false else m)
  else m

def Mach.requestRegister (m : Mach) (w : RegWrite) : Mach := m.ownedLive pwrPage 0x908 w (fun m => m.powerRequest w)

/-- R464. -/
def execRetainRequest (w : RegWrite) (s : State) : Host.Outcome State Fault Refusal :=
  s.run (decide (fld w.bits 1 0 = 1)) (fun m => m.requestRegister w)

/-- R464. -/
def execWakeRequest (w : RegWrite) (s : State) : Host.Outcome State Fault Refusal :=
  s.run (decide (fld w.bits 1 0 = 2)) (fun m => m.requestRegister w)

/-- Some context waits for an instant. -/
def Mach.waitsForTime (m : Mach) : Bool :=
  m.core.ctxs.any (fun e => match e.2.wait with
    | .time _ => decide (e.2.state = .waiting)
    | _ => false)

/-- Nothing that has started is still running (R465). -/
def Mach.drained (m : Mach) : Bool :=
  (upTo 204).all (fun u =>
    let x := m.unit u
    (m.mxOf u).running.isNone && (m.dmaQueue u).all (fun i => !i.started) && (u < 180 || (m.svOf (u - 180)).running.isNone) &&
      x.inFlight.isEmpty && x.vMove.isNone) &&
    m.coll.all (fun e => e.2.running.isEmpty) && (upTo 20).all (fun s => decide (m.live (updPage s) Reg.UPD.STATE ≠ 2))

/-- R464, R465. -/
def Mach.retainEnter (m : Mach) : Mach :=
  let calm := if m.power.forced then m.drained else !m.busy && !m.waitsForTime
  if m.domainUp && decide (m.pwr = 4) && calm then
    ((m.powerState 3).bump pwrPage Reg.PWR.RETAIN_ENTRIES).raiseIf m.power.forced pwrPage 19
  else m

def execRetainEnter (s : State) : Host.Outcome State Fault Refusal := s.run true (fun m => m.retainEnter)

/-- R464. Held accesses and doorbells are performed (R266, R286). Retain that is forced, or was asked for meanwhile, is entered next. -/
def Mach.wakeDone (m : Mach) : Mach :=
  if m.pwr = 5 then
    (((m.setAgain false).powerState (if m.power.forced ∨ m.power.again then 4 else 1)).settleHeld).settleBells
  else m

def execWakeDone (s : State) : Host.Outcome State Fault Refusal := s.run true (fun m => m.wakeDone)

/-- FORCE_RETAIN_N as KEEP.BOARD shows it and as it acts (R465). A wake under way ends first, and then Retain is entered; a module that
is in Retain already has entered it. -/
def Mach.forcePin (m : Mach) (v : Bool) : Mach :=
  let m1 : Mach := { m with power := { m.power with forced := v } }
  if !m1.runs then m1
  else
    let m2 := m1.setLive keepPage Reg.KEEP.FORCE_RETAIN (b2n v)
    if !m2.ready then m2
    else if v then
      (if m2.pwr = 1 ∨ m2.pwr = 2 then m2.powerState 4 else if m2.pwr = 3 then m2.raise pwrPage 19 else m2)
    else if m2.pwr = 3 then m2.powerState 5 else if m2.pwr = 4 then m2.powerState 1 else m2

/-- R465. -/
def execForceRetainAssert (s : State) : Host.Outcome State Fault Refusal :=
  s.run true (fun m => if m.power.forced then m else m.forcePin true)

/-- R465. -/
def execForceRetainDeassert (s : State) : Host.Outcome State Fault Refusal :=
  s.run true (fun m => if m.power.forced then m.forcePin false else m)

/-! ## Governors (R467, R468) -/

def Mach.thermValue (m : Mach) (f : Nat) : Nat := SMap.get m.power.therm (fun _ => 16) f
def Mach.droopValue (m : Mach) (f : Nat) : Nat := SMap.get m.power.droop (fun _ => 16) f
def Mach.setTherm (m : Mach) (f v : Nat) : Mach :=
  { m with power := { m.power with therm := SMap.set m.power.therm (fun _ => 16) f v } }
def Mach.setDroop (m : Mach) (f v : Nat) : Mach :=
  { m with power := { m.power with droop := SMap.set m.power.droop (fun _ => 16) f v } }

/-- THROTTLE.A[f]. -/
def throttleField (f : Nat) : Fld :=
  if f = 0 then Reg.PWR.THROTTLE_A_0 else if f = 1 then Reg.PWR.THROTTLE_A_1 else if f = 2 then Reg.PWR.THROTTLE_A_2
  else Reg.PWR.THROTTLE_A_3

/-- a_f of every field is the smallest of the three governors' values. The cycles spent throttled till now are counted: how many is
open, log 11. -/
def Mach.throttle (m : Mach) : Mach :=
  let m := if (upTo 4).any (fun f => decide (m.live pwrPage (throttleField f) < 16)) then
      m.spend pwrPage Reg.PWR.THROTTLED_CYC (2 ^ 64 - 1) else m
  (upTo 4).foldl (fun m f => m.setLive pwrPage (throttleField f)
    (min (m.live pwrPage Reg.PWR.THROTTLE_A_CAP) (min (m.thermValue f) (m.droopValue f)))) m

/-- R468. One measurement of the input power. -/
def Mach.capMeasure (m : Mach) (p : PowerReading) : Mach :=
  let cap := m.live pwrPage Reg.PWR.THROTTLE_A_CAP
  let lim := m.act pwrPage Reg.PWR.PWRCTL_LIMIT_W
  let w := p.watts.toNat
  let cap' := if lim < w then max 1 (cap - 1) else if w + 100 < lim then min 16 (cap + 1) else cap
  let put := fun (m : Mach) (f : Fld) (v : Nat) => m.setLive pwrPage f v
  let m1 := put (put (put (put m Reg.PWR.INPUT_W w) Reg.PWR.INPUT_MV_DIV16 p.millivoltDiv16.toNat) Reg.PWR.IN p.coolantIn.toNat)
    Reg.PWR.OUT p.coolantOut.toNat
  ((put m1 Reg.PWR.THROTTLE_A_CAP cap').raiseIf (decide (cap = 16 ∧ cap' < 16)) pwrPage 16).throttle

def execPowerCapMeasure (p : PowerReading) (s : State) : Host.Outcome State Fault Refusal :=
  s.run true (fun m => if m.runs then m.capMeasure p else m)

def Mach.tHot (m : Mach) : Int := m.act pwrPage Reg.PWR.PWRCTL_T_HOT

/-- The reading of a field's hottest sensor (R468, R474): DIE_TEMP and the time above T_HOT + 15. -/
def Mach.reading (m : Mach) (f : Nat) (c : Int) : Mach :=
  let temps := SMap.insert m.power.temps f c
  let hot := if m.tHot + 15 < c then (match SMap.get m.power.hotAt (fun _ => none) f with
      | some t => some t
      | none => some m.ticks) else none
  let m1 : Mach := { m with power := { m.power with temps := temps, hotAt := SMap.set m.power.hotAt (fun _ => none) f hot } }
  m1.setLive pwrPage Reg.PWR.DIE_TEMP (wrapInt 8 (temps.foldl (fun a e => if a < e.2 then e.2 else a) c))

/-- R468. -/
def Mach.thermalStep (m : Mach) (f : Nat) (c : Int) : Mach :=
  let old := m.thermValue f
  let was := SMap.get m.power.temps (fun _ => (0 : Int)) f
  let m1 := m.reading f c
  if m.tHot + 10 < c then
    let m2 := (m1.setTherm f 1).throttle
    if was ≤ m.tHot + 10 then (m2.raise rasPage 23).report412 rasPage 0x0E f .logged false false else m2
  else if m.tHot < c then (m1.setTherm f (max 1 (old - 1))).throttle
  else m1

def execThermal (f : FieldId) (tempC : Int) (s : State) : Host.Outcome State Fault Refusal :=
  s.run true (fun m => if m.runs then m.thermalStep f.val tempC else m)

/-- R468. -/
def Mach.thermalRecover (m : Mach) (f : Nat) (c : Int) : Mach :=
  let m1 := m.reading f c
  if c < m.tHot - 5 then (m1.setTherm f (min 16 (m.thermValue f + 1))).throttle else m1

def execThermalRecovery (f : FieldId) (tempC : Int) (s : State) : Host.Outcome State Fault Refusal :=
  s.run true (fun m => if m.runs then m.thermalRecover f.val tempC else m)

/-- R468. -/
def Mach.thermalTrip (m : Mach) (f : Nat) (c : Int) : Mach :=
  let m1 := m.reading f c
  match SMap.get m1.power.hotAt (fun _ => none) f with
  | none => m1
  | some t =>
    if t + 1000000 ≤ m1.ticks ∧ !m1.power.computeReset then
      ((m1.bump pwrPage Reg.PWR.THERMAL_TRIPS).raise pwrPage 17).computeReset false
    else m1

def execThermalTrip (f : FieldId) (tempC : Int) (s : State) : Host.Outcome State Fault Refusal :=
  s.run true (fun m => if m.runs then m.thermalTrip f.val tempC else m)

/-- R468. -/
def Mach.droopStep (m : Mach) (f : Nat) : Mach :=
  (((m.setDroop f 8).throttle).raise rasPage 24).report412 rasPage 0x0F f .logged false false

def execDroop (f : FieldId) (s : State) : Host.Outcome State Fault Refusal :=
  s.run true (fun m => if m.runs then m.droopStep f.val else m)

/-- R468. -/
def Mach.droopRecover (m : Mach) (f : Nat) : Mach := (m.setDroop f (min 16 (m.droopValue f + 1))).throttle

def execDroopRecovery (f : FieldId) (s : State) : Host.Outcome State Fault Refusal :=
  s.run true (fun m => if m.runs then m.droopRecover f.val else m)

/-! ## PLLs (R412, R415, R459) -/

/-- The LOCK bit of a PLL: the bits of CLK.LOCK stand in the order of the PLL numbers. -/
def lockFld (p : Nat) : Fld := ⟨0x900, 1, 0, p, p, .ro, 0⟩

def Mach.locked (m : Mach) (p : Nat) : Bool := decide (m.live clkPage (lockFld p) = 1)

def Mach.setPllAt (m : Mach) (p : Nat) (t : Option Nat) : Mach :=
  { m with power := { m.power with pllAt := SMap.set m.power.pllAt (fun _ => none) p t } }

/-- R459. What a loss of lock does. -/
def Mach.pllLost (m : Mach) (p : Nat) : Mach :=
  if p = 0 then (m.computeReset false).routerReset
  else if p < 15 then m
  else if p < 19 then (if m.portUp (p - 15) then m.closePort (p - 15) 0 else m)
  else m.linkDown (if p = 19 then 0 else 1)

def Mach.pllUnlock (m : Mach) (p : Nat) : Mach :=
  if !m.runs || !m.locked p then m
  else
    ((((m.setLive clkPage (lockFld p) 0).bump clkPage Reg.CLK.UNLOCKS).raise clkPage 16).setPllAt p (some m.ticks)).pllLost p

/-- R459. -/
def execPllUnlock (pll : BitVec 6) (s : State) : Host.Outcome State Fault Refusal :=
  s.run (decide (pll.toNat ≤ 20)) (fun m => m.pllUnlock pll.toNat)

/-- Memory targets behind a lake or basin PLL. -/
def pllTargets (p : Nat) : List Nat :=
  if p = 0 ∨ 15 ≤ p then []
  else if p < 9 then (upTo 32).map (fun c => 8 * c + (p - 1)) else (upTo 4).map (fun i => 256 + 6 * i + (p - 9))

/-- R459. A stack or controller retrains in place, and the loss is reported as transient within 10 ms (R415). -/
def Mach.pllRelock (m : Mach) (p : Nat) : Mach :=
  if !m.runs || m.locked p then m
  else
    let m1 := (m.setLive clkPage (lockFld p) 1).raise clkPage 17
    let m2 := (pllTargets p).foldl (fun m t => m.setChan t { m.chanOf t with retrain := true }) m1
    match SMap.get m.power.pllAt (fun _ => none) p with
    | none => m2
    | some t =>
      (m2.setPllAt p none).report412 clkPage 0x11 p (if m.ticks ≤ t + 10000000 then .transient else .retryFail) false false

def execPllRelock (pll : BitVec 6) (s : State) : Host.Outcome State Fault Refusal :=
  s.run (decide (pll.toNat ≤ 20)) (fun m => m.pllRelock pll.toNat)

/-- R415. -/
def Mach.pllTimeout (m : Mach) (p : Nat) : Mach :=
  match SMap.get m.power.pllAt (fun _ => none) p with
  | none => m
  | some t =>
    if m.runs && decide (t + 10000000 ≤ m.ticks) then (m.setPllAt p none).report412 clkPage 0x11 p .retryFail false false else m

def execPllRelockTimeout (pll : BitVec 6) (s : State) : Host.Outcome State Fault Refusal :=
  s.run (decide (pll.toNat ≤ 20)) (fun m => m.pllTimeout pll.toNat)

/-! ## Parity and pins (R413, R481) -/

/-- R413. The keeper's copy gives the value back, and the report is transient when the reload passes its parity check; a register
that fails its reload is permanent at once. Which of the two happens is open: a free bit, log 44. -/
def Mach.regParity (m : Mach) (p : Page) (off : Nat) : Mach :=
  let m1 := m.raise rasPage 22
  (if bit m.freeWord 0 then m1.report412 p 0x0C off .transient false false else m1.report412 p 0x0C off .hard false true).stir

def execRegParity (pg : Page) (off : BitVec 12) (s : State) : Host.Outcome State Fault Refusal :=
  s.run pg.ok (fun m => if m.runs then m.regParity pg off.toNat else m)

/-- The keeper reads the TRAY_ID pins: a change is reported (R480, R481). -/
def Mach.readTray (m : Mach) : Mach :=
  let id := m.power.trayPins.toNat
  if m.keeperRuns && decide (m.live keepPage Reg.KEEP.TRAY_ID ≠ id) then
    (m.setLive keepPage Reg.KEEP.TRAY_ID id).raise keepPage 22
  else m

/-- R481. The pins change; a keeper that restarts reads them when it resumes. -/
def execTrayIdChange (id : BitVec 4) (s : State) : Host.Outcome State Fault Refusal :=
  s.run true (fun m => ({ m with power := { m.power with trayPins := id } } : Mach).readTray)

end Sys2Proof.Machine
end

