-- ==== Sys2Proof/Machine/Boot.lean ====
section
/-! DEFINITION. Power-on and power-off of the module, and the cold boot (R452 to R456, R485, R486); the end of a compute-domain
reset with BIST (R455, R461). -/

namespace Sys2Proof.Machine

/-- The module domain is reset: only the flash keeps its contents, and the pins are as they are (R460, R486). -/
def Mach.coldReset (m : Mach) (on : Bool) : Mach :=
  let p := m.power
  { Mach.reset with
    ticks := m.ticks, fresh := m.fresh, outbox := m.outbox
    host := { HostSt.reset with ports := (upTo 2).map (fun h =>
      (h, { HostPort.reset with perst := (SMap.get m.host.ports (fun _ => HostPort.reset) h).perst, downSince := m.ticks,
                                hbSince := m.ticks, echoSince := m.ticks })) }
    power := { PowerSt.reset with pwrOk := p.pwrOk, on := on, lockout := p.lockout, forced := p.forced, trayPins := p.trayPins
                                  wdogAt := m.ticks, flash := p.flash } }

/-! ## The sparing map (R455) -/

/-- One retired unit of the map that BIST builds: its reserve takes over, or the shape shrinks as at a spare switch point, or
compute is retired (R16 to R18, R422). -/
def Mach.placeRetired (m : Mach) (u : Nat) : Mach :=
  match m.logicalOf u with
  | none => m
  | some l =>
    if u < 180 then
      let r := 9 * (u / 9) + 8
      let l7 := 8 * (u / 9) + 7
      if m.reserveFree r then m.setServe u l (some r)
      else match m.tcell l7 with
        | none => m.droneMode u
        | some v =>
          if v = u then (m.setServe u l7 none).raise rasPage 19
          else if v ∈ m.spare.retired then m.droneMode u
          else ((m.setServe v l7 none).setServe u l (some v)).raise rasPage 19
    else if m.reserveFree (200 + fieldOf u) then m.setServe u l (some (200 + fieldOf u))
    else m.droneMode u

/-- Units that fail BIST join those that are retired; reserves are assigned in ascending site number. A pool slice or a collective engine
has no reserve, and R17 and R18 give the shape no effect of its retirement: it is recorded and shown. DESIGN CHOICE, log 80. -/
def Mach.bistMap (m : Mach) (failed : List Nat) : Mach :=
  let new := (upTo 228).filter (fun u => decide (u ∈ failed ∧ u ∉ m.spare.retired))
  let m1 : Mach := { m with spare := { m.spare with
    retired := m.spare.retired ++ new, marked := m.spare.marked.filter (fun u => decide (u ∉ new)) } }
  let m2 := new.foldl (fun m u => m.dropCommit (unitPage u)) m1
  ((upTo 204).foldl (fun m u => if u ∈ m.spare.retired ∧ !m.spare.drone then m.placeRetired u else m) m2).showPending.writeSparing

/-! ## Cold boot (R452 to R456) -/

/-- An image passes in step 2 (R454, R469, R470). -/
def Flash.passes (f : Flash) (i : FwImage) : Bool := i.ok && decide (f.minVersion ≤ i.version)

/-- A check that fails (R469, R470). -/
def Mach.imageFailed (m : Mach) (i : FwImage) : Mach :=
  ((m.bump secPage Reg.SEC.SIG_FAILS).raise secPage 16).raiseIf (decide (i.version < m.power.flash.minVersion)) secPage 18

def Flash.image (f : Flash) (b : Bool) : FwImage := if b then f.imgB else f.imgA

/-- Step 2: the image that is loaded. -/
def Mach.chooseImage (m : Mach) : Option Bool × Mach :=
  let f := m.power.flash
  let first := f.bootSel.getD false
  if f.passes (f.image first) then (some first, m)
  else
    let m1 := m.imageFailed (f.image first)
    if f.passes (f.image (!first)) then (some (!first), m1) else (none, m1.imageFailed (f.image (!first)))

/-- A lane that fails training is spared; the third of a target makes the target fail (R281). -/
def Mach.sparedLane (m : Mach) (t lane : Nat) : Mach :=
  let c := m.chanOf t
  if lane ∈ c.lanes then m
  else
    let c' := { c with lanes := c.lanes ++ [lane] }
    let m1 := (m.setChan t c').setPair (targetPage t) Reg.LAKE.SPARE_USED (targetIdx t) (min 2 c'.lanes.length)
    if 2 < c'.lanes.length then (m1.failTarget t).channelCopied t else m1

/-- The PLLs from number a on lock, n of them (R458, R475). -/
def Mach.lockPlls (m : Mach) (a n : Nat) : Mach := (upTo n).foldl (fun m i => m.setLive clkPage (lockFld (a + i)) 1) m

/-- Steps 3 to 6. -/
def Mach.bootTrain (m : Mach) (r : BootReport) : Mach :=
  let m3 := m.rebuildIdentity.lockPlls 1 14
  let lane := fun (m : Mach) (t : Nat × Nat) => m.sparedLane t.1 t.2
  let m4 := ((r.lakeFail.foldl (fun m k => (m.failTarget k).channelCopied k)
    (r.spared.foldl lane m3)).region0.keeperCommit regionPage)
  let m5 := ((r.basinFail.foldl (fun m d => m.failTarget (256 + d)) m4).region1).keeperCommit regionPage
  let m6 : Mach := { m5 with spare := { m5.spare with retired := m5.power.flash.retired } }
  m6.bistMap r.bistFail

/-- Step 7: the PLACEMENT record is committed, and each port that it enables trains. -/
def Mach.bootPorts (m : Mach) (r : BootReport) : Mach :=
  r.ports.zipIdx.foldl (fun m e => if m.live (portPage e.2) Reg.PORT.STATE = 0 then m.trainDone e.2 e.1 else m) (m.place.lockPlls 15 4)

/-- Step 8: hive time is joined with what the ports receive. -/
def Mach.bootTime (m : Mach) (r : BootReport) : Mach := r.time.foldl (fun m e => m.timePacket e.1.val e.2) m

/-- Step 9: the boot attestation report is signed; a failure leaves the identity invalid. -/
def Mach.bootSign (m : Mach) (r : BootReport) : Mach :=
  if !m.identityValid then m
  else if r.signOk then { m with power := { m.power with bootAttest := m.attest (List.replicate 16 0) } }
  else m.setLive secPage Reg.SEC.BOOT_IDENTITY_VALID 0

/-- Step 10 (R456): ready is reported, with every ring DISABLED. -/
def Mach.reportReady (m : Mach) (r : BootReport) : Mach :=
  let m1 := ((m.setLive secPage Reg.SEC.BOOT_TIME_VALID (b2n m.timeValid)).setLive secPage Reg.SEC.READY_MS r.readyMs.toNat).setLive
    secPage Reg.SEC.BOOT_STATE 0xA
  let m2 : Mach := { m1 with power := { m1.power with ready := true, busyAt := m1.ticks }, rings := [] }
  (m2.raise keepPage 21).forcePin m2.power.forced

/-- Steps 7 to 10. -/
def Mach.bootReady (m : Mach) (r : BootReport) : Mach := (((m.bootPorts r).bootTime r).bootSign r).reportReady r

/-- A report that names only what the module has. -/
def bootOk (r : BootReport) : Bool :=
  r.lakeFail.all (fun k => decide (k < 256)) && r.basinFail.all (fun d => decide (d < 24)) &&
    r.spared.all (fun e => decide (e.1 < 280)) && r.bistFail.all (fun u => decide (u < 228)) && decide (r.ports.length ≤ 4)

/-- The records of the flash are read: each that is not valid is ignored and reported (R472). -/
def Mach.readRecords (m : Mach) : Mach :=
  let f := m.power.flash
  let n := (f.records.filter (·.bad)).length
  ((m.setLive secPage Reg.SEC.MIN_VERSION f.minVersion).bump secPage Reg.SEC.RECORD_BAD_CNT n).raiseIf (decide (0 < n)) secPage 17

/-- From step 2 on; RECOVERY when no image passes (R454). -/
def Mach.bootLoad (m : Mach) (r : BootReport) : Mach :=
  match m.readRecords.chooseImage with
  | (none, m1) => { (m1.setLive secPage Reg.SEC.BOOT_STATE 0xB) with power := { m1.power with boot := some r } }
  | (some b, m1) => ((m1.setLive keepPage Reg.KEEP.FW_ACTIVE (b2n b)).bootTrain r).bootReady r

/-- The pins as the module domain leaves reset: KEEP.BOARD shows them, and a port whose PERST is asserted is FAILED at once (R447, R479,
R480, R491). -/
def Mach.readPins (m : Mach) : Mach :=
  let m1 := (m.setLive keepPage Reg.KEEP.TRAY_ID m.power.trayPins.toNat).setLive keepPage Reg.KEEP.FORCE_RETAIN (b2n m.power.forced)
  ([0, 1] : List HostId).foldl (fun m h => if (m.port h).perst then m.failPort h else m) m1

/-- The cold boot: the root PLL locks, and in step 1 the host ports train (R458). A failed ROM self-test leaves step 1 in progress and
the host ports down, and nothing further runs. -/
def Mach.boot (m : Mach) (r : BootReport) : Mach :=
  let m1 := (m.coldReset true).readPins.lockPlls 0 1
  if r.romOk then (m1.lockPlls 19 2).bootLoad r
  else
    let m2 := m1.setLive secPage Reg.SEC.BOOT_STATE 1
    { m2 with power := { m2.power with dead := true } }

/-- R452, R486. The rising edge of PWR_OK; under a lockout of R485 the boot waits for the rail. -/
def execPowerOn (rep : BootReport) (s : State) : Host.Outcome State Fault Refusal :=
  s.run (bootOk rep) (fun m =>
    if m.power.pwrOk then m
    else
      let m1 : Mach := { m with power := { m.power with pwrOk := true } }
      if m1.power.lockout then m1 else m1.boot rep)

/-- R486. -/
def execPowerOff (s : State) : Host.Outcome State Fault Refusal :=
  s.run true (fun m => ({ m with power := { m.power with pwrOk := false } } : Mach).coldReset false)

/-- R485. Below 45 V the module domain resets, whatever PWR_OK holds. -/
def execUndervoltage (p : PowerReading) (s : State) : Host.Outcome State Fault Refusal :=
  s.run true (fun m =>
    if p.millivoltDiv16.toNat * 16 < 45000 ∧ !m.power.lockout then
      ({ m with power := { m.power with lockout := true } } : Mach).coldReset false
    else m)

/-- R485. The rail has returned; with PWR_OK high the module boots. -/
def execUndervoltageRecovery (rep : BootReport) (s : State) : Host.Outcome State Fault Refusal :=
  s.run (bootOk rep) (fun m =>
    if m.power.lockout then
      let m1 : Mach := { m with power := { m.power with lockout := false } }
      if m1.power.pwrOk then m1.boot rep else m1
    else m)

/-! ## The end of a compute-domain reset (R461) -/

/-- A compute domain that comes back while FORCE_RETAIN_N is asserted enters Retain (R465). -/
def Mach.retainForced (m : Mach) : Mach := if m.ready && m.power.forced && decide (m.pwr = 1) then m.powerState 4 else m

/-- R461. The controllers leave self-refresh and apply the region table of R276; with BIST the map is built again. -/
def Mach.computeResetDone (m : Mach) (r : BootReport) : Mach :=
  if !m.power.computeReset then m
  else
    let b := m.power.bist
    let m1 : Mach := { m.defaultRegions with power := { m.power with computeReset := false, bist := false, busyAt := m.ticks } }
    (if b then m1.bistMap r.bistFail else m1).retainForced


def execComputeResetDone (rep : BootReport) (s : State) : Host.Outcome State Fault Refusal :=
  s.run (bootOk rep) (fun m => m.computeResetDone rep)

end Sys2Proof.Machine
end

