-- ==== Sys2Proof/Machine/Firmware.lean ====
section
/-! DEFINITION. Firmware images and their check (R469, R470), the live update (R429, R432, R454) and the keeper's restart (R430). -/

namespace Sys2Proof.Machine

/-! ## The signature (R469): RSASSA-PSS with SHA-256, MGF1 and a salt of 32 bytes -/

/-- A number from bytes, highest first, and back. -/
def beNat (d : List Nat) : Nat := d.foldl (fun a b => 256 * a + b) 0
def beBytes (n v : Nat) : List Nat := (natBytes n v).reverse

/-- MGF1 of a seed: n blocks of 32 bytes. -/
def mgf1 (seed : List Nat) (n : Nat) : List Nat := ((upTo n).map (fun i => sha256 (seed ++ beBytes 4 i))).flatten

/-- The signature verifies over a message under a modulus of 3,072 bits and exponent 65,537. -/
def pssOk (modulus sig msg : List Nat) : Bool :=
  let n := beNat modulus
  let s := beNat sig
  let em := beBytes 384 (powMod n 17 s 65537)
  let h := (em.drop 351).take 32
  let db := xorBytes (em.take 351) (mgf1 h 11)
  let db' := (db.headD 0 % 128) :: db.drop 1
  let salt := db'.drop 319
  decide (s < n) && decide (em.getD 383 0 = 0xBC) && decide (em.headD 0 < 128) &&
    decide (db'.take 319 = List.replicate 318 0 ++ [1]) &&
    decide (sha256 (List.replicate 8 0 ++ sha256 msg ++ salt) = h)

/-- The first `n` bytes from `off` of an image. -/
def part (d : List Nat) (off n : Nat) : List Nat := (d.drop off).take n

/-- VERSION and body of an image whose every check but the rollback check passes. -/
def imageParts (d : List Nat) : Option (Nat × List Nat) :=
  let len := bytesNat (part d 8 4)
  let key := d.getD 12 0
  let body := part d 512 len
  if d.length = 512 + len + 384 ∧ part d 0 4 = [0x4F, 0x54, 0x46, 0x31] ∧ key ≤ 1 ∧ part d 13 3 = [0, 0, 0] ∧
      part d 432 80 = List.replicate 80 0 ∧ bytesNat (sha256 (part d 16 384)) = Config.romDigest key ∧
      sha256 body = part d 400 32 ∧ pssOk (part d 16 384) (part d (512 + len) 384) (part d 0 512) = true then
    some (bytesNat (part d 4 4), body)
  else none

/-! ## The update (R429, R432) -/

def Mach.fwState (m : Mach) : Nat := m.live keepPage Reg.KEEP.FW_STATE
def Mach.setFwState (m : Mach) (v : Nat) : Mach := m.setLive keepPage Reg.KEEP.FW_STATE v

/-- The image slot that is not in use is B. -/
def Mach.idleSlot (m : Mach) : Bool := decide (m.live keepPage Reg.KEEP.FW_ACTIVE = 0)

/-- A write of FW.CMD: 1 LOAD, 2 ACTIVATE, 3 ABORT; one that does not fit FW.STATE is refused. ACTIVATE writes BOOT_SELECT
(R472). -/
def Mach.fwCommand (m : Mach) (w : RegWrite) : Mach :=
  let c := fld w.bits 1 0
  let st := m.fwState
  if c = 0 then m
  else if c = 1 ∧ (st = 0 ∨ st = 2 ∨ st = 4 ∨ st = 5) then m.setFwState 1
  else if c = 2 ∧ st = 2 then
    (m.setFwState 3).flashWrite (.bootSelect m.idleSlot)
  else if c = 3 ∧ st = 1 ∧ !m.inRecovery then m.setFwState 0
  else m.cfgReject keepPage 1

def Mach.fwRegister (m : Mach) (w : RegWrite) : Mach := m.ownedLive keepPage 0x930 w (fun m => m.fwCommand w)

/-- R429. -/
def execFwLoad (w : RegWrite) (s : State) : Host.Outcome State Fault Refusal :=
  s.run (decide (fld w.bits 1 0 = 1)) (fun m => m.fwRegister w)

/-- R429. -/
def execFwActivate (w : RegWrite) (s : State) : Host.Outcome State Fault Refusal :=
  s.run (decide (fld w.bits 1 0 = 2)) (fun m => m.fwRegister w)

/-- R432. -/
def execFwAbort (w : RegWrite) (s : State) : Host.Outcome State Fault Refusal :=
  s.run (decide (fld w.bits 1 0 = 3)) (fun m => m.fwRegister w)

/-- A checked image goes into the idle slot. -/
def Mach.imageLoaded (m : Mach) (i : FwImage) : Mach :=
  let f := m.power.flash
  let f' := if m.idleSlot then { f with imgB := i } else { f with imgA := i }
  (({ m with power := { m.power with flash := f' } } : Mach).setFwState 2).raise keepPage 17

def Mach.imageRefused (m : Mach) (version : Nat) : Mach :=
  let i : FwImage := { ok := false, version := version, digest := [], patch := 0 }
  ((m.imageFailed i).setFwState 4).raise keepPage 18

/-- The check of an image given by its bytes (R469, R470). -/
def Mach.checkBytes (m : Mach) (d : List Nat) : Mach :=
  let low := m.power.flash.minVersion
  match imageParts d with
  | none => m.imageRefused low
  | some (v, body) =>
    if v < low then m.imageRefused v
    else
      let b := body.map (BitVec.ofNat 8)
      m.imageLoaded { ok := true, version := v, digest := shaBytes b, patch := Config.fwPatch b }

/-- The check of the image at FW.ADDR. -/
def Mach.checkImage (m : Mach) : Mach :=
  let a := m.live keepPage Reg.KEEP.FW_ADDR
  let n := m.live keepPage Reg.KEEP.FW_LEN
  if m.memHeld a n then m
  else
    let r := m.locRead (.mem a) n
    if r.1.any (fun b => b.2) then r.2.imageRefused m.power.flash.minVersion else r.2.checkBytes (r.1.map (fun b => b.1.toNat))

/-- The check in RECOVERY of the FW.LEN bytes at FW.ADDR. No memory has been trained by then, and the spec does not say what they are:
free values, log 80. -/
def Mach.checkInRecovery (m : Mach) : Mach :=
  (m.checkBytes ((upTo (m.live keepPage Reg.KEEP.FW_LEN)).map (fun i => m.junk i 8))).stir

/-- R429. -/
def execFwVerifyDone (s : State) : Host.Outcome State Fault Refusal :=
  s.run true (fun m =>
    if !m.keeperRuns || decide (m.fwState ≠ 1) then m
    else if m.inRecovery then m.checkInRecovery else m.checkImage)

/-- The end of a handover (R429); out of RECOVERY the boot goes on at step 2 (R454). -/
def Mach.handoverEnds (m : Mach) (ok : Bool) : Mach :=
  if !m.keeperRuns || decide (m.fwState ≠ 3) then m
  else if m.inRecovery then
    match m.power.boot with
    | none => m
    | some r => ({ (m.setFwState 0) with power := { m.power with boot := none } } : Mach).bootLoad r
  else if ok then ((m.setLive keepPage Reg.KEEP.FW_ACTIVE (b2n m.idleSlot)).setFwState 0).raise keepPage 19
  else (m.setFwState 5).raise keepPage 20

/-- R429, R454. Requests that were held are answered. -/
def Mach.handover (m : Mach) (ok : Bool) : Mach := (m.handoverEnds ok).mgmtRelease

def execFwHandover (selfTestOk : Bool) (s : State) : Host.Outcome State Fault Refusal := s.run true (fun m => m.handover selfTestOk)

/-! ## Restart (R417, R430) -/

/-- The PLACEMENT record as the commits of ROUTERCTL and PORTCTL have left it (R299); a keeper that restarts writes it
afterwards. -/
def Mach.writePlacement (m : Mach) : Mach :=
  if m.power.restarting then { m with power := { m.power with placeDue := true } }
  else
    let r : Placement := { dimX := m.dimX, dimY := m.dimY, myX := m.myX, myY := m.myY
                           ports := (upTo 4).map (fun p => decide (m.act (portPage p) Reg.PORT.PORTCTL_ENABLE = 1)) }
    ({ m with power := { m.power with placeDue := false } } : Mach).flashWrite (.placement r)

/-- The keeper goes on in a module that is ready, with the image that passed: SEC shows the boot state and the identity again, what
became due while it restarted is written, and the pins are read. -/
def Mach.keeperGoesOn (m : Mach) (b : Bool) : Mach :=
  let m1 := (((m.setLive keepPage Reg.KEEP.FW_ACTIVE (b2n b)).rebuildIdentity).setLive secPage Reg.SEC.BOOT_STATE 0xA).writeSparing
  (if m1.power.placeDue then m1.writePlacement else m1).readTray

/-- R430. The keeper has restarted from ROM and checks the firmware again, as in step 2 (R454). One that restarted in RECOVERY boots on with
an image that passes. DEDUCED, log 78. -/
def Mach.keeperResumes (m : Mach) : Mach :=
  if !m.runs || !m.power.restarting then m
  else
    let m1 : Mach := { m with power := { m.power with restarting := false, wdogAt := m.ticks } }
    match m1.ready, m1.power.boot with
    | false, some r => m1.bootLoad r
    | _, _ =>
      match m1.readRecords.chooseImage with
      | (none, m2) => m2.setLive secPage Reg.SEC.BOOT_STATE 0xB
      | (some b, m2) => m2.keeperGoesOn b

def execKeeperRestartDone (s : State) : Host.Outcome State Fault Refusal := s.run true (fun m => m.keeperResumes)

end Sys2Proof.Machine
end

