-- ==== Sys2Proof/Machine/SlotImage.lean ====
section
/-! DEFINITION. The words of a slot as the window shows them (R245), and the image of all slots (R426). -/

namespace Sys2Proof.Machine

/-! ## Words of a slot (R245) -/

/-- The four words of a window entry. -/
def Slot.words (s : Slot) : List Nat :=
  [s.fmt + b2n s.enable * 2 ^ 4 + b2n s.exact * 2 ^ 5 + s.hm1 * 2 ^ 6 + s.headroom * 2 ^ 12 + b2n s.gate * 2 ^ 16 +
     b2n s.lrfold * 2 ^ 17 + s.lr * 2 ^ 32,
   s.scale + histMax s.hist * 2 ^ 32,
   s.zrun + s.flushFrac * 2 ^ 32 + s.hist.length * 2 ^ 48 + b2n s.nonfinite * 2 ^ 56 + b2n s.sat * 2 ^ 57 + b2n s.silent * 2 ^ 58 +
     b2n s.poison * 2 ^ 59,
   s.amaxStep + b2n s.pend.any * 2 ^ 32]

/-! ## The image (R426) -/

/-- Bytes of one slot. -/
def Slot.image (s : Slot) : Bytes :=
  (s.words.map (toBytes 8)).flatten ++ ((upTo 64).map (fun i => match s.hist[i]? with
    | some x => toBytes 4 x
    | none => toBytes 4 0)).flatten ++ List.replicate 32 0

/-- A value that a history can hold. -/
def histOk (code : Nat) : Bool := decide (code < 0x7F800000)

/-- A slot as 320 bytes of an image give it; none when a reserved field is set or no slot can hold what they say. -/
def slotOf (d : Bytes) : Option Slot :=
  let w := wordsOf 4 d
  let n := wfld w 2 55 48
  let h := (upTo 64).map (fun i => ofBytes ((d.drop (32 + 4 * i)).take 4))
  let s : Slot := { fmt := wfld w 0 3 0, enable := wbit w 0 4, exact := wbit w 0 5, hm1 := wfld w 0 11 6, headroom := wfld w 0 15 12
                    gate := wbit w 0 16, lrfold := wbit w 0 17, lr := wfld w 0 63 32, scale := wfld w 1 31 0
                    hist := h.take n, zrun := wfld w 2 31 0, flushFrac := wfld w 2 47 32
                    nonfinite := wbit w 2 56, sat := wbit w 2 57, silent := wbit w 2 58, poison := wbit w 2 59
                    amaxStep := wfld w 3 31 0, writes := 0, zeros := 0, flushZeros := 0, pend := .empty }
  if wfld w 0 31 18 = 0 ∧ wfld w 2 63 60 = 0 ∧ wfld w 3 63 33 = 0 ∧ n ≤ 64 ∧ (h.drop n).all (fun x => decide (x = 0)) = true ∧
      (h.take n).all histOk = true ∧ histOk (wfld w 3 31 0) = true ∧ (d.drop 288).all (fun b => decide (b = 0)) = true ∧
      s.entryOk = true then some s
  else none

/-- Bytes of the image. -/
def imageBytes : Nat := 64 + 65536 * 320

/-- Arm a save or a restore (R426, R431). -/
def Mach.armImage (m : Mach) (w : RegWrite) : Mach :=
  let c := fld w.bits 1 0
  if c = 1 ∨ c = 2 then m.setLive rasPage Reg.RAS.SLOTIMG_STATE c else m

def Mach.imageRegister (m : Mach) (w : RegWrite) : Mach := m.ownedLive rasPage 0x948 w (fun m => m.armImage w)

/-- R426. -/
def execSlotimgSave (w : RegWrite) (s : State) : Host.Outcome State Fault Refusal :=
  s.run (decide (fld w.bits 1 0 = 1)) (fun m => m.imageRegister w)

/-- R426. -/
def execSlotimgRestore (w : RegWrite) (s : State) : Host.Outcome State Fault Refusal :=
  s.run (decide (fld w.bits 1 0 = 2)) (fun m => m.imageRegister w)

/-- A slot at the beginning of a step, with what it collects empty. -/
def Slot.fresh (s : Slot) : Slot :=
  { s with nonfinite := false, sat := false, poison := false, amaxStep := 0, writes := 0, zeros := 0, flushZeros := 0,
           pend := .empty }

/-- Every listed slot through a function; entries that become the default are dropped. -/
def mapSlots (f : Nat → Slot → Slot) (l : SMap Slot) : SMap Slot :=
  l.filterMap (fun e => if f e.1 e.2 = Slot.reset then none else some (e.1, f e.1 e.2))

/-- The advance with the image that is armed for it: a save takes the slots after the rule, a restore in place of the rule. -/
def Mach.advanceImage (m : Mach) : Mach :=
  let st := m.live rasPage Reg.RAS.SLOTIMG_STATE
  let addr := m.live rasPage Reg.RAS.SLOTIMG_ADDR
  let keep := fun (m : Mach) (busy : Nat) (l : SMap Slot) (sk : Bool) =>
    ({ m with ras := { m.ras with imgBusy := busy, imgAddr := addr, imgSlots := l, imgSkipped := sk
                                  imgRes := m.live scalePage Reg.SCALE.GATE_RESBANK } } : Mach).setLive rasPage Reg.RAS.SLOTIMG_STATE 0
  if st = 2 then
    let m1 : Mach := { m with train := { m.train with slots := mapSlots (fun _ s => s.fresh) m.train.slots } }
    (keep m1 2 m.train.slots m.stepSkipped).closeStep
  else
    let m1 := m.advanceScales
    if st = 1 then keep m1 1 m1.train.slots false else m1

/-- Write the image, slot by slot. -/
def Mach.writeImage (m : Mach) : Mach :=
  let r := m.ras
  let put := fun (m : Mach) (off : Nat) (d : Bytes) => m.locWrite (.mem (r.imgAddr + off)) (d.map (fun b => (b, false)))
  (upTo 65536).foldl (fun m n => put m (64 + 320 * n) (SMap.get r.imgSlots slotDefault n).image)
    (put m 0 (toBytes 64 r.imgRes))

/-- The slots that an image gives; none when it fails. -/
def imageSlots (d : Bytes) : Option (SMap Slot) :=
  if (natBits (ofBytes (d.take 64)) 511 1) ≠ 0 then none
  else (upTo 65536).foldl (fun l n => match l, slotOf ((d.drop (64 + 320 * n)).take 320) with
    | some l, some s => some (SMap.set l slotDefault n s)
    | _, _ => none) (some [])

/-- A slot's state from elsewhere, with what it has collected in the new step. -/
def Slot.onto (now s : Slot) : Slot :=
  { s with nonfinite := s.nonfinite || now.nonfinite, sat := s.sat || now.sat, poison := s.poison || now.poison
           amaxStep := max s.amaxStep now.amaxStep
           writes := now.writes, zeros := now.zeros, flushZeros := now.flushZeros, pend := now.pend }

/-- Slots from elsewhere with what the present ones have collected. -/
def mergeSlots (now l : SMap Slot) : SMap Slot :=
  let all := now.foldl (fun l e => if (SMap.find? l e.1).isSome then l else SMap.insert l e.1 Slot.reset) l
  mapSlots (fun n s => (SMap.get now slotDefault n).onto s) all

/-- A restore ends: the image replaces the state, or the rule runs on what the slots were (R426). -/
def Mach.readImage (m : Mach) : Mach :=
  let r := m.ras
  let d := m.locRead (.mem r.imgAddr) imageBytes
  let bytes := d.1.map (·.1)
  let good := if r.imgAddr % 64 = 0 ∧ !d.1.any (·.2) then imageSlots bytes else none
  match good with
  | some l =>
    let m1 : Mach := { d.2 with train := { d.2.train with slots := mergeSlots d.2.train.slots l } }
    m1.setLive scalePage Reg.SCALE.GATE_RESBANK (ofBytes (bytes.take 1) % 2)
  | none => (d.2.runRule r.imgSlots r.imgSkipped (mergeSlots d.2.train.slots)).setLive rasPage Reg.RAS.SLOTIMG_STATE 3

/-- R426. The transfer waits while memory is held. -/
def Mach.imageDone (m : Mach) : Mach :=
  let r := m.ras
  let ended := fun (m : Mach) => ({ m with ras := { m.ras with imgBusy := 0, imgSlots := [] } } : Mach)
  if r.imgBusy = 0 ∨ m.memHeld r.imgAddr imageBytes then m
  else if r.imgBusy = 2 then ended m.readImage
  else if r.imgAddr % 64 ≠ 0 then ended (m.setLive rasPage Reg.RAS.SLOTIMG_STATE 3)
  else ended m.writeImage

/-- The advance. A transfer still under way ends first: the spec bounds its time and not its pace. DESIGN CHOICE, log 47. -/
def Mach.stepAdvance (m : Mach) : Mach := m.imageDone.advanceImage

def execSlotimgDone (s : State) : Host.Outcome State Fault Refusal := s.run true (fun m => m.imageDone)

end Sys2Proof.Machine
end

