-- ==== Sys2Proof/Machine/Commit.lean ====
section
/-! DEFINITION. Commits (R31 to R37): the register COMMIT, the check, and what takes effect at the commit point of each page. -/

namespace Sys2Proof.Machine

/-! ## The register and the check (R33, R35) -/

/-- A region or scratch commit that was due is not any more once nothing is pending (R35). -/
def Mach.undue (m : Mach) (p : Page) : Mach :=
  if (m.hdr p).pending then m
  else match p.blk with
    | .region => ({ m with chan := { m.chan with remap := false, early := 0 } } : Mach).settleHeld
    | .pool => ({ m with chan := { m.chan with scratchDue := SMap.set m.chan.scratchDue (fun _ => false) p.idx false } } : Mach).settleHeld
    | _ => m

/-- A write of COMMIT by the page's owner. -/
def Mach.commitRegister (m : Mach) (p : Page) (w : RegWrite) : Mach :=
  m.owned w.src p (fun m => (m.commitWrite p w).undue p)

/-- R33. -/
def execCommitGo (pg : Page) (w : RegWrite) (s : State) : Host.Outcome State Fault Refusal :=
  s.run (pg.ok && bit w.bits 0) (fun m => m.commitRegister pg w)

/-- R35. -/
def execCommitAbort (pg : Page) (w : RegWrite) (s : State) : Host.Outcome State Fault Refusal :=
  s.run (pg.ok && bit w.bits 4) (fun m => m.commitRegister pg w)

/-- The check of a GO ends; an accepted GO of a COMB page keeps the loaded map (R33, R202). -/
def Mach.checkDone (m : Mach) (p : Page) : Mach :=
  let h := m.hdr p
  if !h.checking then m
  else
    let target := if h.scheduled then h.goTarget.toNat else m.now
    let code := goCode h (m.stagedReserved p) (m.consistent p h.scheduled target)
    let m1 := m.endCheck p code
    if code = 0 ∧ p.blk = .comb then m1.captureMap p.idx else m1

def execCommitCheckDone (pg : Page) (s : State) : Host.Outcome State Fault Refusal := s.run pg.ok (fun m => m.checkDone pg)

/-- R32, R35. A write to the staged area. -/
def execStagedWrite (pg : Page) (off : BitVec 12) (w : RegWrite) (s : State) : Host.Outcome State Fault Refusal :=
  s.run (pg.ok && decide (0x100 ≤ off.toNat ∧ off.toNat < 0x500 ∧ off.toNat % 8 = 0))
    (fun m => m.owned w.src pg (fun m => m.stage pg off.toNat w))

/-! ## Commit points (R30, R34, R466) -/

/-- The block of a page is at its commit point. -/
def Mach.atCommitPoint (m : Mach) (p : Page) : Bool :=
  let st := m.live pwrPage Reg.PWR.STATE
  if computeBlock p.blk && (m.power.computeReset || decide (st = 3 ∨ st = 5)) then false
  else match p.blk with
    | .cell => (m.mxOf p.idx).running.isNone
    | .solv => (m.svOf p.idx).running.isNone
    | .comb | .field => decide (m.fab.lastJob = some m.ticks)
    | .upd => decide (m.live p Reg.UPD.STATE ≠ 2)
    | .coll => (m.collOf p.idx).running.isEmpty
    | _ => true

/-- The point that a check unit taps exists (R407). -/
def Mach.pointThere (m : Mach) (n : Nat) : Bool :=
  let p : Page := ⟨.chk, n⟩
  let i := m.act p Reg.CHK.POINT_INDEX
  match m.act p Reg.CHK.POINT_KIND with
  | 0 => m.liveQueues.any (fun q => decide (q.key % 1024 = i))
  | 1 => if i < 160 then (m.tcell i).isSome else (m.scell (i - 160)).isSome
  | 3 => decide ((m.ringOf i).state ≠ .disabled)
  | _ => true

/-- POINT or FORMAT of a staged set differs from the one in force (R411). -/
def Mach.chkChanges (m : Mach) (p : Page) : Bool :=
  decide (m.reg p 0x100 ≠ m.reg p 0x500 ∨ m.reg p 0x120 ≠ m.reg p 0x520)

/-- Images of contexts whose VSAVE slot is no longer valid are never restored (R138). -/
def Mach.dropImages (m : Mach) (u : Nat) : Mach :=
  let x := m.unit u
  m.setUnit u { x with vImage := SMap.keep (fun c => decide (m.act (unitPage u) Reg.CELL.VSAVE_VALID c = 1)) x.vImage }

/-- The module leaves test mode: ponds of units that serve nothing are cleared (R457). -/
def Mach.leaveTest (m : Mach) : Mach :=
  let idle := fun (k : Nat) => decide (k < 204 * 2 ^ 24) && !m.inService (k / 2 ^ 24)
  { m with mem := SMap.keep (fun k => !idle k) m.mem, poison := SMap.keep (fun k => !idle (8 * k)) m.poison }

/-- Another comb has a map to put in force at this job barrier. -/
def Mach.mapsDue (m : Mach) : Bool :=
  (upTo 20).any (fun c => (m.hdr (combPage c)).pending && !((m.hdr (combPage c)).scheduled && decide (m.now < (m.hdr (combPage c)).goTarget.toNat)) &&
    m.atCommitPoint (combPage c))

/-- What a commit does beyond the copy. `was` is the state before it. -/
def Mach.committed (m was : Mach) (p : Page) : Mach :=
  match p.blk with
  | .cell => m.dropImages p.idx
  | .solv => m.dropImages (180 + p.idx)
  | .comb =>
    let m1 := m.applyMap p.idx
    if m1.mapsDue then m1 else m1.settleQueues
  | .chk => if was.chkChanges p then m.chkRestart p.idx (m.pointThere p.idx) else m
  | .port => (m.portCommit p.idx).writePlacement
  | .cal => m.calCommit p.idx
  | .router => m.epochCommit.writePlacement
  | .time => m.rootCommit
  | .scale => m.stepAdvance
  | .keep => if was.testMode && !m.testMode then m.leaveTest else m
  | .pool | .upd | .field | .coll | .lake | .basin | .dig | .host | .region | .barr | .ring | .ras | .sec | .pwr | .clk => m

/-- R34. A pending commit whose time has come takes effect at the commit point; one whose COMMIT_TIME the count has stepped past
applies at once (R329). A commit of REGION or POOL becomes due, and applies once its hold has ended (R261, R275). -/
def Mach.commitApply (m : Mach) (p : Page) : Mach :=
  let h := m.hdr p
  if !h.pending || (h.scheduled && decide (m.now < h.goTarget.toNat)) || !m.atCommitPoint p then m
  else match p.blk with
    | .region => { m with chan := { m.chan with remap := true, early := if m.chan.remap then m.chan.early else m.chan.held.length } }
    | .pool => { m with chan := { m.chan with scratchDue := SMap.set m.chan.scratchDue (fun _ => false) p.idx true } }
    | _ => ((m.copyStaged p).commitTaken p).committed m p

def execCommitApply (pg : Page) (s : State) : Host.Outcome State Fault Refusal := s.run pg.ok (fun m => m.commitApply pg)

/-- A time tick is a commit point of every page but those that wait for a job barrier, as long as the block holds no item of its
own work unfinished: each pending commit whose time has come applies (R34). -/
def Mach.applyDue (m : Mach) : Mach :=
  (m.hdrs.filterMap (fun e => if e.2.pending then pageAt e.1 else none)).foldl (fun m p => m.commitApply p) m

/-- One time tick (R5, R326, R34). An error of an SRAM word or register that has arisen counts as read by the tick after it: the
accesses of the commands say what they read, and nothing says when. DESIGN CHOICE, log 44. -/
def Mach.tick (m : Mach) : Mach :=
  if m.power.on then (m.countTick.errorsFound (fun _ => true)).applyDue else m.countTick

/-! ## OWNER and EVENT (R38, R40) -/

/-- R38. -/
def execOwnerWrite (pg : Page) (w : RegWrite) (s : State) : Host.Outcome State Fault Refusal :=
  s.run pg.ok (fun m => m.ownerWrite pg w)

/-- R40. -/
def execEventClear (pg : Page) (w : RegWrite) (s : State) : Host.Outcome State Fault Refusal :=
  s.run pg.ok (fun m => m.owned w.src pg (fun m => m.eventClear pg w))

end Sys2Proof.Machine
end

