-- ==== Sys2Proof/Machine/Barrier.lean ====
section
/-! DEFINITION. Barrier releases, release messages and the destruction of objects (R348 to R352). -/

namespace Sys2Proof.Machine

/-- The wait of a context for a generation of an object, with the register of its result. -/
def waitsFor (w : Wait) (obj : Nat) (gen : Option Nat) : Option Nat :=
  match w with
  | .bar o g gd => if o = obj ∧ (gen.isNone ∨ gen = some g) then some gd else none
  | _ => none

/-- A context whose entry ends: gD receives the code and the context goes on, or halts if a HALT waited (R120, R348). -/
def Mach.endEntry (m : Mach) (u c gd code : Nat) : Mach :=
  let halt := (m.ctx u c).haltAtRelease
  let m1 := (m.writeBack u c (BitVec.ofNat 5 gd) (w64 code)).wake u c
  if halt then m1.setCtx u c { m1.ctx u c with state := .halted, haltAtRelease := false } else m1

/-- End every entry of contexts that wait for an object: for one generation, or for all. -/
def Mach.endEntries (m : Mach) (obj : Nat) (gen : Option Nat) (code : Nat) : Mach :=
  (m.core.ctxs).foldl (fun m e =>
    if e.2.state = .waiting then
      match waitsFor e.2.wait obj gen with
      | some gd => m.endEntry (e.1 / 16) (e.1 % 16) gd code
      | none => m
    else m) m

/-- The release of generation g on this module (R348, R350, R351). -/
def Mach.barGo (m : Mach) (o : Nat) : Mach :=
  let b := m.bar o
  let g := b.gen
  let m1 := (m.setBar o { b with gen := g + 1, arr0 := b.arr1, arr1 := 0, kids0 := b.kids1, kids1 := [], complete := false, release := none }).bump
    barrPage Reg.BARR.BAR_RELEASES
  let m2 := if b.job then
      ({ m1 with fab := { m1.fab with lastJob := some m1.ticks } } : Mach).spareSwitch
    else m1
  ((m2.endEntries o (some g) 0).collReleased o g).barCheck o

/-- R350. -/
def Mach.barrierRelease (m : Mach) (o : Nat) : Mach :=
  let b := m.bar o
  match b.release with
  | some t => if b.valid ∧ t ≤ m.now then m.barGo o else m
  | none => m

def execBarrierRelease (obj : BitVec 12) (s : State) : Host.Outcome State Fault Refusal :=
  s.run true (fun m => m.barrierRelease obj.toNat)

/-- A release that comes late (R350). -/
def Mach.lateRelease (m : Mach) : Mach :=
  let m1 := m.bump barrPage Reg.BARR.BAR_LATE_REL
  if m1.msPassed m1.fab.lateAt then
    let m2 := m1.raise barrPage 18
    { m2 with fab := { m2.fab with lateAt := some m2.ticks } }
  else m1

/-- R350. A release message: it is passed on, and releases at its instant, or on arrival when that has gone by. -/
def Mach.releaseMessage (m : Mach) (a : BarMsg) : Mach :=
  let o := a.obj.toNat
  let b := m.bar o
  if !b.valid then m.barOrphan
  else if !b.complete || b.release.isSome || decide (a.parity ≠ decide (b.gen % 2 = 1)) then m
  else
    let m1 := m.barRelease o a.tRel.toNat
    if a.tRel.toNat < m.now then (m1.lateRelease).barGo o else m1

def execBarrierReleaseMessage (msg : BarMsg) (s : State) : Host.Outcome State Fault Refusal :=
  s.run true (fun m => m.releaseMessage msg)

/-- The object is destroyed (R352, R382). -/
def Mach.barDestroy (m : Mach) (o : Nat) : Mach :=
  ((m.setBar o BarObj.reset).endEntries o none 4).collAborted o

/-- A write of the window: DESTROY, or an idle object's fields (R352). -/
def Mach.barWindow (m : Mach) (off : Nat) (w : RegWrite) : Mach :=
  if (off - 0xA00) % 32 = 0 ∧ bit w.bits 3 then m.barDestroy (m.barAt off) else m.barWrite off w

def execBarrierWindowWrite (off : BitVec 12) (w : RegWrite) (s : State) : Host.Outcome State Fault Refusal :=
  s.run (barOff off.toNat) (fun m => m.ownedLive barrPage off.toNat w (fun m => m.barWindow off.toNat w))

/-- R352. A write of DESTROY = 1. -/
def execBarrierDestroy (off : BitVec 12) (w : RegWrite) (s : State) : Host.Outcome State Fault Refusal :=
  s.run (barOff off.toNat && decide ((off.toNat - 0xA00) % 32 = 0) && bit w.bits 3)
    (fun m => m.ownedLive barrPage off.toNat w (fun m => m.barWindow off.toNat w))

end Sys2Proof.Machine
end

