-- ==== Sys2Proof/Machine/Deliver.lean ====
section
/-! DEFINITION. Delivery of a packet to its endpoint (R309, R312 to R316, R322, R444). -/

namespace Sys2Proof.Machine

/-- How an endpoint answers a packet: it takes it, refuses it with a NAK code, lets it wait, or drops it unacknowledged. -/
inductive Handed where
  | taken (m : Mach)
  | nak (code : Nat) (m : Mach)
  | wait (m : Mach)
  | lost (m : Mach)

/-- What a SEND or a packet of a collective writes cannot be written now (R85). -/
def Mach.targetHeld (m : Mach) (pk : Packet) : Bool :=
  if pk.kind.toNat = 0 then
    (match m.coLoc none (pk.word 0) with
     | some l => m.locBarred l (pk.word 1 % 2 ^ 32)
     | none => false)
  else if pk.kind.toNat = 1 then m.collHeld pk.index.toNat pk
  else false

/-- The hold of what a packet would write is counted where an array guards it (R85). -/
def Mach.targetHazard (m : Mach) (pk : Packet) : Mach :=
  if pk.kind.toNat = 0 then m.hazards false ((m.coLoc none (pk.word 0)).toList.map (fun l => (l, pk.word 1 % 2 ^ 32)))
  else if pk.kind.toNat = 1 then m.collHazard pk.index.toNat pk
  else m

/-- The message that a packet to a barrier object carries (R349): `Mach.barSend` lays it out so. -/
def pktMsg (pk : Packet) : BarMsg :=
  { obj := pk.index.setWidth 12, srcX := pk.srcX, srcY := pk.srcY, parity := (pk.word 0).testBit 0, count := pk.word 1,
    tRel := BitVec.ofNat 64 (pk.word 1) }

/-- A packet reaches its barrier object: an arrival or a release message. -/
def Mach.toBarrier (m : Mach) (pk : Packet) : Mach :=
  if (pk.word 0).testBit 1 then m.releaseMessage (pktMsg pk) else m.barArrival (pktMsg pk)

/-- An endpoint of the compute domain takes a packet at an instant: a ring, a collective engine, the barrier unit. -/
def Mach.toCompute (m : Mach) (pk : Packet) (t : Nat) : Handed :=
  let st := m.live pwrPage Reg.PWR.STATE
  if m.power.computeReset then .nak 1 m
  else if m.retiredDomain then .nak 2 m
  else if st = 3 then
    (if m.power.forced ∨ m.act pwrPage Reg.PWR.PWRCTL_AUTOWAKE = 0 then .nak 1 m else .wait m.wakeBegin)
  else if st = 5 ∨ m.targetHeld pk then .wait (m.targetHazard pk)
  else
    let m1 := m.endIdle
    if pk.kind.toNat = 0 then
      (match m1.ringRecv pk t with
       | (some c, m2) => .nak c m2
       | (none, m2) => .taken m2)
    else if pk.kind.toNat = 1 then
      (if 4 ≤ pk.index.toNat then .nak 3 m1
       else match m1.collDeliver pk.index.toNat pk t with
         | (true, m2) => .taken m2
         | (false, m2) => .lost m2)
    else if 4096 ≤ pk.index.toNat then .nak 3 m1
    else .taken (m1.toBarrier pk)

/-- Hand a packet to its endpoint. The keeper refuses while it restarts, and holds packets during a handover (R429, R430). -/
def Mach.handOver (m : Mach) (pk : Packet) (t : Nat) : Handed :=
  if pk.kind.toNat ≤ 2 then m.toCompute pk t
  else if pk.kind.toNat = 3 then
    (if m.power.restarting then .nak 1 m else if m.live keepPage Reg.KEEP.FW_STATE = 3 then .wait m else .taken m)
  else .taken m

/-- CUM passes what has been delivered, but no packet that is held, showing payloads to the check units in SEQ order (R312, R403). -/
def Mach.advanceCum (m : Mach) : Nat → FlowRx → FlowRx × Mach
  | 0, r => (r, m)
  | n + 1, r =>
    let q := seqAdd r.cum 1
    if q ∈ r.got ∧ !r.hold.any (fun p => decide (p.seq.toNat = q)) then
      let m1 := match r.taps.find? (fun t => decide (t.1 = q)) with
        | some t => if r.key.mflow then m else m.tapFlow r.key.x r.key.y r.key.tc t.2
        | none => m
      m1.advanceCum n { r with cum := q, got := r.got.erase q, taps := r.taps.filter (fun t => decide (t.1 ≠ q)) }
    else (r, m)

/-- A packet counts as delivered: taken, or refused with a NAK (R316). -/
def Mach.acknowledge (m : Mach) (pk : Packet) (taken : Bool) : Mach :=
  let r := m.flowRx pk.rxKey
  let q := pk.seq.toNat
  let r1 := { r with got := r.got.filter (fun x => decide (x ≠ q)) ++ [q],
                     taps := if taken then r.taps ++ [(q, pk.payload)] else r.taps }
  let a := m.advanceCum 1025 r1
  a.2.setFlowRx a.1

/-- The refusal of a packet (R316). -/
def Mach.sendNak (m : Mach) (pk : Packet) (code : Nat) : Mach :=
  let r := m.flowRx pk.rxKey
  (m.bump routerPage Reg.ROUTER.NAK_SENT).control r.key.x r.key.y 1 r.key.tc r.key.mflow r.key.axis r.key.dir r.cum r.sack
    pk.seq.toNat code

/-- One packet handed over in its turn, with its acknowledgement; `again` puts one that has to wait back. -/
def Mach.handOne (m : Mach) (pk : Packet) (t : Nat) (again : Mach → Mach) : Mach × Bool :=
  match m.handOver pk t with
  | .taken m1 =>
    let m2 := m1.acknowledge pk true
    (m2.ackFlow (m2.flowRx pk.rxKey), true)
  | .nak c m1 => ((m1.acknowledge pk false).sendNak pk c, true)
  | .wait m1 => (again m1, false)
  | .lost m1 => (m1, false)

/-- Held TC2 packets whose turn has come (R309): the first that cannot be handed over stays held. -/
def Mach.releaseHeld (m : Mach) (k : RxKey) : Nat → Mach
  | 0 => m
  | n + 1 =>
    let r := m.flowRx k
    match r.hold.find? (fun p => decide (p.seq.toNat = seqAdd r.cum 1)) with
    | none => m
    | some p =>
      let m1 := m.setFlowRx { r with hold := r.hold.erase p, got := r.got.filter (fun x => decide (x ≠ p.seq.toNat)) }
      let h := m1.handOne p m.now id
      if h.2 then h.1.releaseHeld k n else h.1.setFlowRx r

/-- Bytes in the TC2 hold buffer of the module. -/
def Mach.holdBytes (m : Mach) : Nat := (m.fab.rx.map (fun r => (r.hold.map (fun p => p.bytes)).sum)).sum

/-- A new packet within the window (R309). -/
def Mach.acceptPacket (m : Mach) (e : ArrEnt) : Mach :=
  let pk := e.pk
  let r := m.flowRx pk.rxKey
  if pk.tc = 2 ∧ pk.seq.toNat ≠ seqAdd r.cum 1 then
    if 262144 < m.holdBytes + pk.bytes then m
    else
      let m1 := m.setFlowRx { r with hold := r.hold ++ [pk], got := r.got ++ [pk.seq.toNat] }
      m1.ackFlow (m1.flowRx pk.rxKey)
  else
    let h := m.handOne pk (e.at?.getD m.now) (fun m => { m with fab := { m.fab with arrived := m.fab.arrived ++ [e] } })
    if h.2 ∧ pk.tc = 2 then h.1.releaseHeld pk.rxKey 1024 else h.1

/-- R309. A packet at its destination, or held there for its turn. Fabric control has commands of its own; a time packet belongs to
no flow (R330). -/
def Mach.deliver (m : Mach) (pk : Packet) : Mach :=
  match m.fab.arrived.find? (fun e => decide (e.pk = pk)) with
  | none => if pk ∈ (m.flowRx pk.rxKey).hold then m.releaseHeld pk.rxKey 1024 else m
  | some e =>
    let early : Bool := match e.at? with
      | some t => decide (m.now < t)
      | none => false
    if pk.kind = 4 ∨ early = true then m
    else
      let m1 : Mach := { m with fab := { m.fab with arrived := m.fab.arrived.erase e } }
      let r := m1.flowRx pk.rxKey
      let q := pk.seq.toNat
      if m1.tooOld pk then m1.bump routerPage Reg.ROUTER.LIFETIME_DROP
      else if pk.crc ≠ pk.crcNow then m1.crcDrop
      else if pk.kind = 5 then m1
      else if !seqAfter q r.cum || decide (q ∈ r.got) then (m1.bump routerPage Reg.ROUTER.E2E_DUP).ackFlow r
      else if 1024 < (q + 2 ^ 32 - r.cum) % 2 ^ 32 then m1.bump routerPage Reg.ROUTER.E2E_DUP
      else m1.acceptPacket e

def execPacketDeliver (pk : Packet) (s : State) : Host.Outcome State Fault Refusal := s.run true (fun m => m.deliver pk)

end Sys2Proof.Machine
end

