-- ==== Sys2Proof/Machine/Digest.lean ====
section
/-! DEFINITION. The digest engines (R398 to R402, R410). -/

namespace Sys2Proof.Machine

/-- Hash of a leaf, a node, a trailer: SHA-256 with its tag (R398, R402). -/
def hashLeaf (bytes : List Nat) : List Nat := sha256 (0 :: bytes)
def hashNode (l r : List Nat) : List Nat := sha256 (1 :: (l ++ r))
def hashTrailer (runDig root : List Nat) : List Nat := sha256 (2 :: (runDig ++ root))

/-- One level up: pairs from left to right, an odd last node unchanged. -/
def hashLevel : List (List Nat) → List (List Nat)
  | a :: b :: rest => hashNode a b :: hashLevel rest
  | l => l

/-- Levels until one node is left. -/
def hashRoot : Nat → List (List Nat) → List Nat
  | _, [] => []
  | _, [x] => x
  | 0, x :: _ => x
  | k + 1, l => hashRoot k (hashLevel l)

/-- Leaves of a window: at least one (R398). -/
def leafCount (len : Nat) : Nat := max 1 (ceilDiv len 65536)

/-- The digest of a window's bytes (R398). -/
def treeDigest (bytes : List Nat) : List Nat :=
  let n := leafCount bytes.length
  hashRoot n ((upTo n).map (fun i => hashLeaf ((bytes.drop (65536 * i)).take 65536)))

/-- 32 bytes in four registers, lowest first, and back. -/
def Mach.putDigest (m : Mach) (p : Page) (f : Fld) (d : List Nat) : Mach :=
  (upTo 4).foldl (fun m i => m.setLive p f (bytesNat ((d.drop (8 * i)).take 8)) i) m

def Mach.getDigest (m : Mach) (p : Page) (f : Fld) : List Nat := ((upTo 4).map (fun i => natBytes 8 (m.live p f i))).flatten

/-- A state in which the engine is at rest (R410). -/
def Mach.digRests (m : Mach) (e : Nat) : Bool :=
  let s := m.live (digPage e) Reg.DIG.STATE
  decide (s ≠ 1 ∧ s ≠ 2)

/-- R399. OPEN. An empty window has no byte to wait for. -/
def Mach.digOpen (m : Mach) (e : Nat) : Mach :=
  let p := digPage e
  let len := m.live p Reg.DIG.LEN
  if !m.digRests e then m.cfgReject p 1
  else if m.live p Reg.DIG.BASE % 64 ≠ 0 ∨ 2 ^ 40 < len then m.cfgReject p 1
  else if m.live p Reg.DIG.MODE = 1 then
    (m.setDig e { DigSt.reset with runAt := bytesNat (m.getDigest p Reg.DIG.RUNDIG) }).setLive p Reg.DIG.STATE 2
  else
    let m1 := m.setDig e { DigSt.reset with hashed := if len = 0 then [0] else [] }
    (if len = 0 then m1.bump p Reg.DIG.LEAVES else m1).setLive p Reg.DIG.STATE 1

/-- Leaves that are read back: those not hashed, and those marked (R399). -/
def Mach.digUnread (m : Mach) (e : Nat) : List Nat :=
  let d := m.digOf e
  (upTo (leafCount (m.live (digPage e) Reg.DIG.LEN))).filter (fun i => decide (i ∉ d.hashed ∨ i ∈ d.rescan))

/-- R399. CLOSE. -/
def Mach.digClose (m : Mach) (e : Nat) : Mach :=
  let p := digPage e
  if m.live p Reg.DIG.STATE = 1 then
    let m1 := m.bump p Reg.DIG.RESCANS (m.digUnread e).length
    (m1.setDig e { m1.digOf e with runAt := bytesNat (m1.getDigest p Reg.DIG.RUNDIG) }).setLive p Reg.DIG.STATE 2
  else m

/-- R400. ABORT. -/
def Mach.digAbort (m : Mach) (e : Nat) : Mach :=
  if m.digRests e then m
  else ((m.setDig e DigSt.reset).setLive (digPage e) Reg.DIG.STATE 6).raise (digPage e) 19

/-- The run digest (R402). -/
def Mach.runDigest (m : Mach) (e : Nat) : List Nat :=
  let p := digPage e
  sha256 (m.getDigest p Reg.DIG.PROG ++ m.getDigest p Reg.DIG.WSET ++ m.getDigest p Reg.DIG.INPUT ++
    natBytes 16 m.seed ++ natBytes 8 (m.live p Reg.DIG.STEP))

/-- R402. COMPOSE. -/
def Mach.digCompose (m : Mach) (e : Nat) : Mach :=
  let p := digPage e
  if m.live p Reg.DIG.STATE = 2 then m else m.putDigest p Reg.DIG.RUNDIG (m.runDigest e)

/-- The reads that end the hashing: the window for a scan, the leaves left over for a snooped window. -/
def Mach.digReads (m : Mach) (e : Nat) : List (Nat × Nat) :=
  let len := m.live (digPage e) Reg.DIG.LEN
  if m.live (digPage e) Reg.DIG.MODE = 1 then [(0, len)]
  else (m.digUnread e).map (fun i => ((leafRange len i).1, (leafRange len i).2 - (leafRange len i).1))

/-- A root that is not tied to any state of the window (R400). -/
def Mach.looseRoot (m : Mach) (e : Nat) : Mach :=
  ((upTo 4).foldl (fun m i => m.setLive (digPage e) Reg.DIG.ROOT (m.junk i 64) i) m).stir

/-- R400. The hashing ends. -/
def Mach.digFinish (m : Mach) (e : Nat) : Mach :=
  let p := digPage e
  let base := m.live p Reg.DIG.BASE
  let len := m.live p Reg.DIG.LEN
  let reads := m.digReads e
  let d := m.digOf e
  let rd := reads.foldl (fun (x : Bool × Mach) r => let y := x.2.locRead (.mem (base + r.1)) r.2; (x.1 || y.1.any (·.2), y.2)) (d.poisoned, m)
  let bad := rd.1
  let leaves := if m.live p Reg.DIG.MODE = 1 then leafCount len else reads.length
  let bytes := (reads.map (fun r => r.2)).sum
  let m1 := rd.2
  let m2 := ((m1.bump p Reg.DIG.LEAVES leaves).bump p Reg.DIG.BYTES_HASHED bytes).setDig e DigSt.reset
  if bad then (m2.setLive p Reg.DIG.STATE 4).raise p 17
  else if d.raced then ((m2.looseRoot e).setLive p Reg.DIG.STATE 5).raise p 18
  else
    let root := treeDigest ((m.memPeek base len).map (fun b => b.1.toNat))
    let m3 := ((m2.putDigest p Reg.DIG.ROOT root).setLive p Reg.DIG.STATE 3).raise p 16
    if m.live p Reg.DIG.TRAILER = 1 then
      m3.locWrite (.mem (base + len)) ((hashTrailer (natBytes 32 d.runAt) root).map (fun b => (BitVec.ofNat 8 b, false)))
    else m3

/-- The hashing of a window can end: its engine is at work and no read of it is held. -/
def Mach.digEnds (m : Mach) (e : Nat) : Bool :=
  let p := digPage e
  decide (m.live p Reg.DIG.STATE = 2) && m.computeUp &&
    !m.memHeld (m.live p Reg.DIG.BASE) (m.live p Reg.DIG.LEN + 32)

/-- Writes of the control register at 0x918. -/
def Mach.digControl (m : Mach) (e : Nat) (w : RegWrite) (b : Nat) (f : Mach → Mach) : Mach :=
  m.ownedLive (digPage e) 0x918 w (fun m => if bit w.bits b then f m else m)

/-- R399. -/
def execDigOpen (e : DigId) (w : RegWrite) (s : State) : Host.Outcome State Fault Refusal :=
  s.run true (fun m => m.digControl e.val w 0 (fun m => m.digOpen e.val))

/-- R399. -/
def execDigClose (e : DigId) (w : RegWrite) (s : State) : Host.Outcome State Fault Refusal :=
  s.run true (fun m => m.digControl e.val w 1 (fun m => m.digClose e.val))

/-- R400. -/
def execDigAbort (e : DigId) (w : RegWrite) (s : State) : Host.Outcome State Fault Refusal :=
  s.run true (fun m => m.digControl e.val w 2 (fun m => m.digAbort e.val))

/-- R402. -/
def execDigCompose (e : DigId) (w : RegWrite) (s : State) : Host.Outcome State Fault Refusal :=
  s.run true (fun m => m.digControl e.val w 3 (fun m => m.digCompose e.val))

/-- R400. -/
def execDigestDone (e : DigId) (s : State) : Host.Outcome State Fault Refusal :=
  s.run true (fun m => if m.digEnds e.val then m.digFinish e.val else m)

end Sys2Proof.Machine
end

