-- ==== Sys2Proof/Machine/Fence.lean ====
section
/-! DEFINITION. Fences (R265). A fence that has to wait stalls its context: the command leaves the state as it is, and the
context goes on once every covered access has been performed. -/

namespace Sys2Proof.Machine

/-- The scopes of R265, each holding the one before it. -/
inductive Scope where
  | cell | comb | die | group
deriving DecidableEq, Repr

/-- A range at a location lies within a scope of a unit: the target of a memory address is its home slice (R258). -/
def Mach.inScope (m : Mach) (u : Nat) (s : Scope) (l : Loc × Nat) : Bool :=
  match s, l.1 with
  | .cell, .pond v _ => decide (v = u)
  | .cell, _ => false
  | .comb, .pond v _ => decide (v = u) || ((m.combOf v).isSome && decide (m.combOf v = m.combOf u))
  | .comb, .scratch .. => (locSlices l.1 l.2).any (fun t => decide (m.combOf u = some t))
  | .comb, .mem _ => (locSlices l.1 l.2).any (fun t => decide (m.combOf u = some t))
  | _, _ => true

/-- A descriptor of the context has a target within the scope. -/
def Mach.fenceCovers (m : Mach) (u : Nat) (s : Scope) (w : List Nat) : Bool :=
  (m.dmLocs u w).any (m.inScope u s)

/-- Everything that a fence covers has been performed. -/
def Mach.fenceDone (m : Mach) (u c : Nat) (s : Scope) : Bool :=
  (m.unit u).held.all (fun h => decide (h.ctx ≠ c)) &&
    (m.dmaQueue u).all (fun i => decide (i.ctx ≠ c) || !m.fenceCovers u s i.words) &&
    (decide (s ≠ .group) || decide ((m.ctx u c).co.out = 0))

/-- A fence. -/
def Mach.fence (m : Mach) (u c : Nat) (s : Scope) : Mach := if m.fenceDone u c s then m.advance u c else m

/-- R265. FENCE.L. -/
def execFenceL (u : UnitId) (c : CtxId) (_gd _ga _gb : RegNo) (s : State) : Host.Outcome State Fault Refusal :=
  s.issue u c (fun m => m.fence u.val c.val .cell)

/-- R265. FENCE.C. -/
def execFenceC (u : UnitId) (c : CtxId) (_gd _ga _gb : RegNo) (s : State) : Host.Outcome State Fault Refusal :=
  s.issue u c (fun m => m.fence u.val c.val .comb)

/-- R265. FENCE.D. -/
def execFenceD (u : UnitId) (c : CtxId) (_gd _ga _gb : RegNo) (s : State) : Host.Outcome State Fault Refusal :=
  s.issue u c (fun m => m.fence u.val c.val .die)

/-- R265. FENCE.G. -/
def execFenceG (u : UnitId) (c : CtxId) (_gd _ga _gb : RegNo) (s : State) : Host.Outcome State Fault Refusal :=
  s.issue u c (fun m => m.fence u.val c.val .group)

end Sys2Proof.Machine
end

