-- ==== Sys2Proof/Machine/VecMem.lean ====
section
/-! DEFINITION. Vector memory (R130). -/

namespace Sys2Proof.Machine

/-- Bit address of element i of field f: B + i × S + f × e (R130); a 4-bit element is half a byte (R46). -/
def laneBit (base stride : Nat) (contig : Bool) (w n i f : Nat) : Nat :=
  if contig then (8 * base + (i * n + f) * w) % 2 ^ 67 else 8 * ((base + i * stride) % 2 ^ 64) + f * w

/-- An element that R130 allows: inside the pond and aligned to its size. -/
def laneAddrOk (u w b : Nat) : Bool :=
  decide ((w < 8 ∨ b / 8 % (w / 8) = 0) ∧ (b + w + 7) / 8 ≤ pondSize u)

/-- Write what a reduction still has to write (R132). -/
def Mach.redWrite (m : Mach) (u : Nat) (r : VReduce) : Mach :=
  match r.out with
  | some o => (m.store u r.ctx o.dst o.data o.bad).addFlags u r.ctx o.flags
  | none => m

/-- One vector memory instruction: n fields from register vd, base and stride. -/
structure VMem where
  n : Nat
  vd : Nat
  base : Nat
  stride : Nat
  contig : Bool
  fmt : Nat

def VMem.bit (v : VMem) (i f : Nat) : Nat := laneBit v.base v.stride v.contig (fmtWidth v.fmt) v.n i f

/-- The enabled lanes of a context, whether or not it owns the file now. -/
def Mach.memLanes (m : Mach) (u c : Nat) (v : VMem) (pm : Nat) : List Nat :=
  (upTo (m.activeLanes u c v.fmt)).filter (fun i => predBit pm (m.predOf u c pm) (predIndex (fmtPaired v.fmt) i))

/-- Cycles that a vector memory instruction occupies the unit (R133): by the unit's width where the elements are contiguous, else
one per element and field. The table gives 128 bytes a cycle for a tensor cell; a solver cell moves its own VLEN a cycle. DEDUCED,
log 11. -/
def Mach.memBusy (m : Mach) (u c : Nat) (v : VMem) : Nat :=
  let n := v.n * m.activeLanes u c v.fmt
  if v.contig then ceilDiv (n * fmtWidth v.fmt) (vlen u) else n

/-- The faults below 0x04: ILLEGAL, then ACCESS. -/
def Mach.memFault (m : Mach) (u c : Nat) (v : VMem) (pm : Nat) : Option Nat :=
  if !(fmtMem u v.fmt || fmtReserved v.fmt) || decide (31 < v.vd + v.n - 1) then some 0x01
  else if fmtReserved v.fmt then none
  else if (m.memLanes u c v pm).all (fun i =>
      (upTo v.n).all (fun f => laneAddrOk u (fmtWidth v.fmt) (v.bit i f))) then none
  else some 0x02

/-- A row that an enabled lane touches is being copied into a spare row: the instruction is held at its issue (R418). -/
def Mach.lanesHeld (m : Mach) (u c : Nat) (v : VMem) (pm : Nat) : Bool :=
  !m.ras.repairs.isEmpty && (m.memLanes u c v pm).any (fun i => (upTo v.n).any (fun f =>
    m.rowHeld (pondKey u (v.bit i f / 8)) ((v.bit i f + fmtWidth v.fmt + 7) / 8 - v.bit i f / 8)))

/-- The results of earlier reductions of the unit are in memory before a later vector instruction that reads or writes memory acts: the
unit takes instructions in issue order (R133). -/
def Mach.redSettle (m : Mach) (u : Nat) : Mach :=
  if (m.unit u).reduce.all (fun r => r.out.isNone) then m
  else
    let m1 := (m.unit u).reduce.foldl (fun m r => m.redWrite u r) m
    m1.setUnit u { m1.unit u with reduce := (m1.unit u).reduce.map (fun r => { r with out := none }) }

/-- Load every enabled lane (R130); a poisoned element marks its lane (R134). -/
def Mach.vecLoad (m : Mach) (u c : Nat) (v : VMem) (pm : Nat) : Mach :=
  let w := fmtWidth v.fmt
  let src := m.ownView u c
  let on := m.memLanes u c v pm
  ((upTo v.n).foldl (fun m f =>
    m.putLanes u (v.vd + f) w (on.map (fun i =>
      let b := v.bit i f
      (⟨i, elemRead (fun a => src.rdByte (pondKey u a)) b w,
        src.anyMarked (pondKey u (b / 8)) ((b + w + 7) / 8 - b / 8)⟩ : Lane)))) m).advance u c

/-- Store every enabled lane (R130); a marked lane is written poisoned (R134). -/
def Mach.vecStore (m : Mach) (u c : Nat) (v : VMem) (pm : Nat) : Mach :=
  let w := fmtWidth v.fmt
  let src := m.ownView u c
  let es := ((m.memLanes u c v pm).map (fun i => (upTo v.n).map (fun f =>
    (⟨v.bit i f, w, laneOf (m.vreg u (v.vd + f)) w i, laneMark (m.vmark u (v.vd + f)) w i⟩ : ElemWrite)))).flatten
  ((elemWrites (fun a => src.rdByte (pondKey u a)) es).foldl (fun m r => m.store u c r.1 r.2.1 r.2.2) m).advance u c

/-- The operands of a vector memory instruction. -/
def Mach.vmem (m : Mach) (u c n : Nat) (vd ga gs : RegNo) (fmt : BitVec 4) : VMem :=
  ⟨n, vd.toNat, (m.g u c ga).toNat, (m.g u c gs).toNat, decide (gs = 0), fmt.toNat⟩

def Mach.vecLoadIssue (m : Mach) (u c n : Nat) (vd ga gs : RegNo) (pm : BitVec 3) (fmt : BitVec 4) : Mach :=
  let v := m.vmem u c n vd ga gs fmt
  if m.lanesHeld u c v pm.toNat then m
  else m.vecIssue u c (m.memFault u c v pm.toNat) none (fmtReserved v.fmt) (m.memBusy u c v)
    (fun m => (m.redSettle u).vecLoad u c v pm.toNat)

def Mach.vecStoreIssue (m : Mach) (u c n : Nat) (vd ga gs : RegNo) (pm : BitVec 3) (fmt : BitVec 4) : Mach :=
  let v := m.vmem u c n vd ga gs fmt
  if m.lanesHeld u c v pm.toNat then m
  else m.vecIssue u c (m.memFault u c v pm.toNat) none (fmtReserved v.fmt) (m.memBusy u c v)
    (fun m => (m.redSettle u).rfDelivered u v.vd (fmtWidth v.fmt) false (fun m => m.vecStore u c v pm.toNat))

/-- R130. VLD. -/
def execVld (u : UnitId) (c : CtxId) (vd ga gs : RegNo) (pm : BitVec 3) (fmt : BitVec 4) (s : State) :
    Host.Outcome State Fault Refusal :=
  s.issue u c (fun m => m.vecLoadIssue u.val c.val 1 vd ga gs pm fmt)

/-- R130. VLD2. -/
def execVld2 (u : UnitId) (c : CtxId) (vd ga gs : RegNo) (pm : BitVec 3) (fmt : BitVec 4) (s : State) :
    Host.Outcome State Fault Refusal :=
  s.issue u c (fun m => m.vecLoadIssue u.val c.val 2 vd ga gs pm fmt)

/-- R130. VLD3. -/
def execVld3 (u : UnitId) (c : CtxId) (vd ga gs : RegNo) (pm : BitVec 3) (fmt : BitVec 4) (s : State) :
    Host.Outcome State Fault Refusal :=
  s.issue u c (fun m => m.vecLoadIssue u.val c.val 3 vd ga gs pm fmt)

/-- R130. VLD4. -/
def execVld4 (u : UnitId) (c : CtxId) (vd ga gs : RegNo) (pm : BitVec 3) (fmt : BitVec 4) (s : State) :
    Host.Outcome State Fault Refusal :=
  s.issue u c (fun m => m.vecLoadIssue u.val c.val 4 vd ga gs pm fmt)

/-- R130. VST. -/
def execVst (u : UnitId) (c : CtxId) (vd ga gs : RegNo) (pm : BitVec 3) (fmt : BitVec 4) (s : State) :
    Host.Outcome State Fault Refusal :=
  s.issueVec u c (fun m => m.vecStoreIssue u.val c.val 1 vd ga gs pm fmt)

/-- R130. VST2. -/
def execVst2 (u : UnitId) (c : CtxId) (vd ga gs : RegNo) (pm : BitVec 3) (fmt : BitVec 4) (s : State) :
    Host.Outcome State Fault Refusal :=
  s.issueVec u c (fun m => m.vecStoreIssue u.val c.val 2 vd ga gs pm fmt)

/-- R130. VST3. -/
def execVst3 (u : UnitId) (c : CtxId) (vd ga gs : RegNo) (pm : BitVec 3) (fmt : BitVec 4) (s : State) :
    Host.Outcome State Fault Refusal :=
  s.issueVec u c (fun m => m.vecStoreIssue u.val c.val 3 vd ga gs pm fmt)

/-- R130. VST4. -/
def execVst4 (u : UnitId) (c : CtxId) (vd ga gs : RegNo) (pm : BitVec 3) (fmt : BitVec 4) (s : State) :
    Host.Outcome State Fault Refusal :=
  s.issueVec u c (fun m => m.vecStoreIssue u.val c.val 4 vd ga gs pm fmt)

end Sys2Proof.Machine
end

