-- ==== Sys2Proof/Machine/Reduce.lean ====
section
/-! DEFINITION. VREDSUM and VTOPK (R132): issue, refusal, completion. -/

namespace Sys2Proof.Machine

/-- Size of a VREDSUM root, by the widened format (R132). -/
def rootBytes (wfmt : Nat) : Nat := if wfmt = 1 then 4 else 8

/-- Bytes that a reduction's result takes, and what its address is aligned to. -/
def reduceSize (u : Nat) (topk : Bool) (fmt k : Nat) : Nat × Nat :=
  if topk then (16 * k, 16) else (rootBytes (widened (isSolver u) fmt), rootBytes (widened (isSolver u) fmt))

/-- The first failing code of R132, in the order of R81; 0 when none. TKMODE belongs to VTOPK: its reserved code 3 is refused there, and
VREDSUM, which has no use for the field, ignores it. DESIGN CHOICE, log 68. -/
def reduceCode (u : Nat) (topk : Bool) (w : List Nat) : Nat :=
  let fmt := wfld w 0 25 22
  let n := wfld w 1 31 0
  let src := wfld w 0 21 0
  let dst := wfld w 2 21 0
  let e := fmtWidth fmt
  let out := reduceSize u topk fmt (wfld w 0 34 29 + 1)
  if n = 0 then 0x01
  else if pondSize u < src + ceilDiv (n * e) 8 ∨ pondSize u < dst + out.1 ∨ (8 ≤ e ∧ src % (e / 8) ≠ 0) ∨ dst % out.2 ≠ 0
    then 0x07
  else if wfld w 0 63 35 ≠ 0 ∨ wfld w 1 63 32 ≠ 0 ∨ wfld w 2 63 42 ≠ 0 ∨ wordAt w 3 ≠ 0 ∨
      (topk ∧ wfld w 0 28 27 = 3) then 0x08
  else 0

/-- What an accepted descriptor asks for. -/
structure RedDesc where
  topk : Bool
  src : Nat
  fmt : Nat
  lsr : Bool
  tkMode : Nat
  k : Nat
  n : Nat
  dst : Nat
  tensor : Nat

def redDesc (topk : Bool) (w : List Nat) : RedDesc :=
  { topk := topk, src := wfld w 0 21 0, fmt := wfld w 0 25 22, lsr := wbit w 0 26, tkMode := wfld w 0 28 27, k := wfld w 0 34 29 + 1,
    n := wfld w 1 31 0, dst := wfld w 2 21 0, tensor := wfld w 2 41 22 }

/-- The result of a reduction on the pond as it stands, with poison where an element carries it, and its flags. Poisoned elements raise
none. -/
def Mach.reduceOut (m : Mach) (u c : Nat) (r : RedDesc) : RedOut :=
  let src := m.ownView u c
  let w := fmtWidth r.fmt
  let codes := (upTo r.n).map (fun i => src.elemAt (pondKey u r.src) w i)
  let good := (List.zipWith (fun i x => (src.elemBad (pondKey u r.src) w i, x)) (upTo r.n) codes).filterMap
    (fun e => if e.1 then none else some e.2)
  let bad := decide (good.length < codes.length)
  if r.topk then
    let es := topK r.fmt r.tkMode r.k (List.zipWith (fun i x => ⟨topRead (m.denorm u) r.fmt x, i⟩) (upTo r.n) codes)
    let bytes := (es.map (fun e => toBytes 8 e.code ++ toBytes 4 e.pos ++ toBytes 4 0)).flatten
    { dst := r.dst, data := if bad then (upTo (16 * r.k)).map (fun i => BitVec.ofNat 8 (m.junk i 8)) else bytes, bad := bad,
      flags := topFlags (m.denorm u) r.fmt good }
  else
    let wf := widened (isSolver u) r.fmt
    let widen := widenElem (isSolver u) (m.denorm u) r.fmt
    let root := canonical wf (nodeRnd (r.lsr && decide (wf ≠ 0)) m.seed r.tensor (m.srStep u)) (codes.map widen)
    { dst := r.dst, data := toBytes (rootBytes wf) (if bad then m.junk 0 64 else root.code), bad := bad,
      flags := if bad then good.foldl (fun f x => f ||| (widen x).flags) 0 else root.flags }

/-- An accepted reduction reads its source at its issue, behind the results of those before it, since the vector unit takes
instructions in issue order (R133); it writes its result when it completes, and its context waits until then. DEDUCED, log 95. -/
def Mach.reduceStart (m : Mach) (u c : Nat) (gd : RegNo) (r : RedDesc) : Mach :=
  let m0 := m.redSettle u
  let o := m0.reduceOut u c r
  let m1 := m0.stir.spend (unitPage u) Reg.CELL.VEC_BUSY_CYC (ceilDiv (r.n * fmtWidth r.fmt) 1024 + 64)
  (m1.setUnit u { m1.unit u with reduce := (m1.unit u).reduce ++ [⟨c, gd.toNat, true, false, some o⟩] }).sleep u c .reduce

/-- Issue of a reduction that is not in progress yet (R132, R492): bits [15:4] must be zero and the format allowed; a refused
descriptor gives its code at once. -/
def Mach.reduceFirst (m : Mach) (u c : Nat) (topk : Bool) (gd ga : RegNo) (rest : BitVec 12) : Mach :=
  if rest ≠ 0 then m.fault u c 0x01
  else
    m.withDesc u c (m.g u c ga) 32 32 (fun w =>
      let fmt := wfld w 0 25 22
      m.vecIssue u c (illegalUnless (fmtData u fmt || fmtReserved fmt)) none (fmtReserved fmt) 0 (fun m =>
        let code := reduceCode u topk w
        if code ≠ 0 then m.writeBack u c gd (w64 code) else m.reduceStart u c gd (redDesc topk w)))

/-- Issue (R132). A context that was halted in the wait executes the instruction again, without a further effect (R120): it
waits on, or takes the result of the reduction that has completed meanwhile. -/
def Mach.reduceIssue (m : Mach) (u c : Nat) (topk : Bool) (gd ga : RegNo) (rest : BitVec 12) : Mach :=
  match (m.unit u).reduce.find? (fun r => decide (r.ctx = c) && r.linked) with
  | none => m.reduceFirst u c topk gd ga rest
  | some r =>
    if r.done then
      (m.setUnit u { m.unit u with reduce := (m.unit u).reduce.erase r }).writeBack u c (BitVec.ofNat 5 r.gd) 0
    else m.sleep u c .reduce

/-- R132. VREDSUM. -/
def execVredsum (u : UnitId) (c : CtxId) (gd ga : RegNo) (rest : BitVec 12) (s : State) : Host.Outcome State Fault Refusal :=
  s.issue u c (fun m => m.reduceIssue u.val c.val false gd ga rest)

/-- R132. VTOPK. -/
def execVtopk (u : UnitId) (c : CtxId) (gd ga : RegNo) (rest : BitVec 12) (s : State) : Host.Outcome State Fault Refusal :=
  s.issue u c (fun m => m.reduceIssue u.val c.val true gd ga rest)

/-- The oldest reduction of context c that is still in progress, replaced by f of it. -/
def firstInFlight (c : Nat) (f : VReduce → List VReduce) : List VReduce → List VReduce
  | [] => []
  | r :: l => if r.ctx = c ∧ r.done = false then f r ++ l else r :: firstInFlight c f l

/-- R132. The oldest reduction of a context that is still in progress completes: its result is at DST and its flags are set, gd receives
0 and the context is ready. -/
def Mach.reduceDone (m : Mach) (u c : Nat) : Mach :=
  match (m.unit u).inFlight.find? (fun r => decide (r.ctx = c)) with
  | none => m
  | some r =>
    let m := m.redWrite u r
    let x := m.unit u
    let waits := decide ((m.ctx u c).state = .waiting ∧ (m.ctx u c).wait = .reduce)
    let rest := firstInFlight c (fun r => if r.linked && !waits then [{ r with out := none, done := true }] else []) x.reduce
    let left := rest.filter (fun e => !e.done)
    let m1 := m.setUnit u { x with reduce := rest, vLast := m.ticks, vDown := x.vDown || (x.vPend && left.isEmpty),
                                   vPend := x.vPend && !left.isEmpty }
    if r.linked && waits then (m1.writeBack u c (BitVec.ofNat 5 r.gd) 0).wake u c else m1

/-- R132. -/
def execVreduceDone (u : UnitId) (c : CtxId) (s : State) : Host.Outcome State Fault Refusal :=
  s.run true (fun m => m.reduceDone u.val c.val)

end Sys2Proof.Machine
end

