-- ==== Sys2Proof/Machine/Update.lean ====
section
/-! DEFINITION. Update engines (R229 to R234, R246). -/

namespace Sys2Proof.Machine

/-- STATE codes of R246 in which a list is held. -/
def Mach.updHeld (m : Mach) (s : Nat) : Bool :=
  decide (m.live (updPage s) Reg.UPD.STATE = 1 ∨ m.live (updPage s) Reg.UPD.STATE = 2)

/-- A write of ARM (R229): the engine takes the list, and keeps the job seed of that moment (R31, R397). -/
def Mach.updArm (m : Mach) (s : Nat) (w : RegWrite) : Mach :=
  if !bit w.bits 0 then m
  else if m.updHeld s then m.raise (updPage s) 18
  else
    ({ m with train := { m.train with upd := SMap.insert m.train.upd s { slots := [], seed := m.seed, late := false } } } : Mach).setLive
      (updPage s) Reg.UPD.STATE 1

/-- A write of a LIST field (R229). -/
def Mach.updList (m : Mach) (s off : Nat) (w : RegWrite) : Mach :=
  if m.updHeld s then m.raise (updPage s) 18 else m.putHeld (updPage s) off w

/-! ## Descriptors (R230, R234) -/

def upAlg (w : List Nat) : Nat := wfld w 0 1 0
def upWFmt (w : List Nat) : Nat := wfld w 0 5 2
def upMFmt (w : List Nat) : Nat := wfld w 0 9 6
def upGFmt (w : List Nat) : Nat := wfld w 0 13 10
def upTensor (w : List Nat) : Nat := wfld w 0 33 14
def upGSlot (w : List Nat) : Nat := wfld w 1 15 0
def upMSlot (w : List Nat) : Nat := wfld w 1 31 16
def upVSlot (w : List Nat) : Nat := wfld w 1 47 32
def upTag (w : List Nat) : Nat := wfld w 1 63 48
def upCount (w : List Nat) : Nat := wfld w 2 23 0
def upOffset (w : List Nat) : Nat := wfld w 2 63 24
def upWAddr (w : List Nat) : Nat := wfld w 4 31 0
def upGAddr (w : List Nat) : Nat := wfld w 4 63 32
def upMAddr (w : List Nat) : Nat := wfld w 5 31 0
def upVAddr (w : List Nat) : Nat := wfld w 5 63 32

/-- The operand ranges that the ALG uses: address and bytes. -/
def upRanges (w : List Nat) : List (Nat × Nat) :=
  let n := upCount w
  [(upWAddr w, packedBytes 2 n), (upGAddr w, packedBytes (upGFmt w) n)] ++
    (if 1 ≤ upAlg w then [(upMAddr w, packedBytes (upMFmt w) n)] else []) ++
    (if upAlg w = 2 then [(upVAddr w, packedBytes (upMFmt w) n)] else [])

/-- The slot of a number as the run keeps it. -/
def UpdRun.slot (r : UpdRun) (n : Nat) : Slot := SMap.get r.slots slotDefault n

/-- Bytes of pool scratch in force. -/
def Mach.updScratch (m : Mach) (s : Nat) : Nat := m.act ⟨.pool, s⟩ Reg.POOL.SCRATCH_MIB * 2 ^ 20

/-- The first failing check of R234; 0 when none. -/
def updCode (scratch : Nat) (r : UpdRun) (w : List Nat) : Nat :=
  let g := upGFmt w
  if upAlg w = 3 ∨ upWFmt w ≠ 2 ∨ (upMFmt w ≠ 2 ∧ upMFmt w ≠ 6) ∨ (g ≠ 2 ∧ g ≠ 4 ∧ g ≠ 5 ∧ g ≠ 6) then 0x01
  else if !(r.slot (upGSlot w)).enable || !(r.slot (upGSlot w)).lrfold ||
      (decide (1 ≤ upAlg w) && !(r.slot (upMSlot w)).enable) || (decide (upAlg w = 2) && !(r.slot (upVSlot w)).enable)
    then 0x02
  else if upCount w = 0 ∨ [upWAddr w, upGAddr w, upMAddr w, upVAddr w].any (fun a => decide (a % 64 ≠ 0)) ∨
      (upRanges w).any (fun x => decide (scratch < x.1 + x.2)) then 0x03
  else if wfld w 0 63 34 ≠ 0 then 0x04
  else 0

/-! ## One element (R231) -/

/-- Round to FP32 by RNE. -/
def r32 (v : Num × BitVec 8) : Num := f32Val (toF32 v.1)

/-- Square root of a value with a sticky bit beyond 60 further bits, so that one rounding of it is correct. -/
def Num.sqrtSticky (v : Num) : Num :=
  match v with
  | .nan _ => .nan false
  | .inf neg => if neg then .nan false else .inf false
  | .fin neg n d e =>
    if n = 0 then v
    else if neg then .nan false
    else
      let e' := if e % 2 = 0 then e else e - 1
      let n' := if e % 2 = 0 then n else 2 * n
      let r := natSqrt (n' * 2 ^ 160 / d)
      let sticky := if r * r * d = n' * 2 ^ 160 then 0 else 1
      .fin false (2 * r + sticky) 1 (e' / 2 - 81)

def add32 (a b : Num) : Num := r32 (Num.add a b)
def sub32 (a b : Num) : Num := r32 (Num.sub a b)
def mul32 (a b : Num) : Num := r32 (Num.mul a b)
def div32 (a b : Num) : Num := r32 (Num.div a b)
def fma32 (a b c : Num) : Num := r32 (Num.fma a b c)
def sqrt32 (a : Num) : Num := r32 (Num.sqrtSticky a, 0)

/-- The working values of an element: new w before its rounding, m, v, and whether all of them are finite. -/
structure UpdElem where
  w : Num
  m : Num
  v : Num
  okW : Bool
  okM : Bool
  okV : Bool
deriving DecidableEq, Repr

/-- The rule of R231, in the order written. -/
def updElem (d : List Nat) (lr gg w m v : Num) : UpdElem :=
  let b1 := f32Val (wfld d 6 31 0)
  let b2 := f32Val (wfld d 6 63 32)
  let eps := f32Val (wfld d 7 31 0)
  let wd := f32Val (wfld d 7 63 32)
  let one : Num := .fin false 1 1 0
  let m' := if upAlg d = 1 then fma32 b1 m gg
    else if upAlg d = 2 then add32 (mul32 b1 m) (mul32 (sub32 one b1) gg) else m
  let v' := if upAlg d = 2 then add32 (mul32 b2 v) (mul32 (sub32 one b2) (mul32 gg gg)) else v
  let den := add32 (sqrt32 (mul32 v' (f32Val (wfld d 3 63 32)))) (mul32 lr eps)
  let u := if upAlg d = 0 then gg
    else if upAlg d = 1 then m'
    else mul32 lr (div32 (mul32 m' (f32Val (wfld d 3 31 0))) den)
  let dd := fma32 (mul32 lr wd) w u
  let w' := (Num.sub w dd).1
  { w := w', m := m', v := v', okW := gg.finite && (decide (upAlg d ≠ 2) || den.finite) && u.finite && dd.finite && w'.finite,
    okM := m'.finite, okV := v'.finite }

/-- What one element writes: codes with their marks for the weight and the moments, and what the moments' slots see; none
when a working value is not finite (R234). A poisoned operand poisons what is computed from it (R68). -/
structure UpdOut where
  w : Nat × Bool
  m : SlotElem
  v : SlotElem
deriving DecidableEq, Repr

/-- The random bits of element i for the j-th write (R232). -/
def updRnd (r : UpdRun) (step : Nat) (d : List Nat) (j i : Nat) : Rnd :=
  .sr (springR r.seed (springStream 6 (upTensor d) step) (j * 2 ^ 40 + upOffset d + i))

/-- An element of the descriptor's shard. -/
def Mach.updOne (m : Mach) (s : Nat) (r : UpdRun) (step : Nat) (d : List Nat) (i : Nat) : Option UpdOut :=
  let key := fun a => scratchKey s a
  let mb := fmtWidth (upMFmt d)
  let gSlot := r.slot (upGSlot d)
  let mSlot := r.slot (upMSlot d)
  let vSlot := r.slot (upVSlot d)
  let a := upAlg d
  let bw := m.elemBad (key (upWAddr d)) 16 i
  let bg := m.elemBad (key (upGAddr d)) (fmtWidth (upGFmt d)) i
  let bm := decide (1 ≤ a) && (m.elemBad (key (upMAddr d)) mb i || bg)
  let bv := decide (a = 2) && (m.elemBad (key (upVAddr d)) mb i || bg)
  let w := decode 2 (m.elemAt (key (upWAddr d)) 16 i)
  let gg := (Num.mul (decode (upGFmt d) (m.elemAt (key (upGAddr d)) (fmtWidth (upGFmt d)) i)) (f32Val gSlot.scale)).1
  let mo := fun addr (sl : Slot) => (Num.mul (decode (upMFmt d) (m.elemAt (key addr) mb i)) (f32Val sl.scale)).1
  let x := updElem d (f32Val gSlot.lr) gg w (mo (upMAddr d) mSlot) (mo (upVAddr d) vSlot)
  let badW := bw || bg || bm || bv
  if (badW || x.okW) && (bm || decide (a = 0) || x.okM) && (bv || decide (a ≠ 2) || x.okV) then
    let cw := encodeNum 2 (updRnd r step d 0 i) true false x.w
    let cm := mSlot.convertInto (upMFmt d) (updRnd r step d 1 i) true false x.m
    let cv := vSlot.convertInto (upMFmt d) (updRnd r step d 2 i) true false x.v
    some { w := (if badW then m.junk (3 * i) 16 else cw.code, badW)
           m := ⟨cm.1, if bm then ⟨m.junk (3 * i + 1) mb, 0⟩ else cm.2, bm⟩
           v := ⟨cv.1, if bv then ⟨m.junk (3 * i + 2) mb, 0⟩ else cv.2, bv⟩ }
  else none

/-- A descriptor runs over its elements. -/
def Mach.updRun (m : Mach) (s : Nat) (r : UpdRun) (d : List Nat) : Mach :=
  let p := updPage s
  let step := m.live p Reg.UPD.LIST_STEP
  let mb := fmtWidth (upMFmt d)
  let outs := (upTo (upCount d)).map (fun i => (i, m.updOne s r step d i))
  let done := outs.filterMap (fun e => e.2.map (fun x => (e.1, x)))
  let lost := upCount d - done.length
  let m1 := m.putElems (scratchKey s (upWAddr d)) (done.map (fun e => ⟨16 * e.1, 16, e.2.w.1, e.2.w.2⟩))
  let m2 := if 1 ≤ upAlg d then
      (m1.putElems (scratchKey s (upMAddr d)) (done.map (fun e => ⟨mb * e.1, mb, e.2.m.coded.code, e.2.m.bad⟩))).report
        (upMSlot d) (upMFmt d) (done.map (fun e => e.2.m))
    else m1
  let m3 := if upAlg d = 2 then
      (m2.putElems (scratchKey s (upVAddr d)) (done.map (fun e => ⟨mb * e.1, mb, e.2.v.coded.code, e.2.v.bad⟩))).report
        (upVSlot d) (upMFmt d) (done.map (fun e => e.2.v))
    else m2
  let m4 := if lost = 0 then m3 else (m3.bump p Reg.UPD.ELEM_NONFINITE lost).raise p 17
  ((m4.bump p Reg.UPD.DESC_DONE).stir).spend p Reg.UPD.UPD_BUSY_CYC (ceilDiv (upCount d) 16 + 64)

/-- A refused descriptor (R234). -/
def Mach.updRefuse (m : Mach) (s code tag : Nat) : Mach :=
  let p := updPage s
  ((((m.bump p Reg.UPD.DESC_REFUSED).setLive p Reg.UPD.LAST_REFUSE_CODE code).setLive p
    Reg.UPD.LAST_REFUSE_TAG tag).raise p 16)

/-- The descriptor at an address of pool scratch: run or refused. The spec names no code for a descriptor that itself lies
outside the scratch or is poisoned: RANGE, with no TAG. Its read takes the injections of the slice's detectors (R414). -/
def Mach.updDesc (m0 : Mach) (s : Nat) (r : UpdRun) (a : Nat) : Mach :=
  let k := scratchKey s a
  let inj := m0.poolInject s (a / 64)
  let m := inj.2
  if a % 64 ≠ 0 ∨ m.updScratch s < a + 64 ∨ inj.1 ∨ m.anyMarked k 64 then m.updRefuse s 0x03 0
  else
    let d := wordsOf 8 (m.rdBytes 64 k)
    let code := updCode (m.updScratch s) r d
    if code ≠ 0 then m.updRefuse s code (upTag d) else m.updRun s r d

/-- R234. The running list ends: its descriptors in order. One that the slice holds, since a scratch commit is due, waits (R261), as does
one while a row of the scratch is being copied (R418). -/
def Mach.updDone (m : Mach) (s : Nat) : Mach :=
  let p := updPage s
  match SMap.find? m.train.upd s with
  | none => m
  | some r =>
    if m.live p Reg.UPD.STATE = 2 ∧ !(r.late && m.sliceDue s) ∧ !m.rowHeld (scratchKey s 0) (m.updScratch s) then
      let a := m.live p Reg.UPD.LIST_ADDR
      let m1 := (upTo (m.live p Reg.UPD.LIST_COUNT)).foldl (fun m k => m.updDesc s r (a + 64 * k)) m
      let m2 : Mach := { m1 with train := { m1.train with upd := SMap.erase m1.train.upd s } }
      m2.setLive p Reg.UPD.STATE 3
    else m

/-- R229. A write of ARM. -/
def execUpdArm (sl : SliceId) (w : RegWrite) (s : State) : Host.Outcome State Fault Refusal :=
  s.run true (fun m => m.ownedLive (updPage sl.val) 0x918 w (fun m => m.updArm sl.val w))

/-- R229. A write of LIST.ADDR, LIST.COUNT or LIST.STEP. -/
def execUpdListWrite (sl : SliceId) (off : BitVec 12) (w : RegWrite) (s : State) : Host.Outcome State Fault Refusal :=
  s.run (decide (off.toNat = 0x900 ∨ off.toNat = 0x908 ∨ off.toNat = 0x910))
    (fun m => m.ownedLive (updPage sl.val) off.toNat w (fun m => m.updList sl.val off.toNat w))

/-- R234. The list of an engine ends. -/
def execUpdListDone (sl : SliceId) (s : State) : Host.Outcome State Fault Refusal := s.run true (fun m => m.updDone sl.val)

end Sys2Proof.Machine
end

