-- ==== Sys2Proof/Machine/Registers.lean ====
section
/-! DEFINITION. Writes of BAR0 (R27, R36, R38 to R40): injections, and a write of any offset, which reaches the register's own
behaviour where it has one. -/

namespace Sys2Proof.Machine

/-! ## EVENT_INJECT (R27, R412, R414) -/

/-- The EVENT bits of a block that have a detector which takes its injection later. -/
def laterDetectors (b : Block) : List Nat :=
  match b with
  | .cell => [16, 28, 29, 30, 31]
  | .solv => [23, 28, 29, 30, 31]
  | .pool => [17, 18]
  | .lake | .basin => [16, 17]
  | .port => [21]
  | .router => [19]
  | .time => [19]
  | _ => []

/-- The bits of a write of EVENT_INJECT that wait for the next event of their detector. -/
def waitingBits (b : Block) (v : Word) : Word :=
  (laterDetectors b).foldl (fun x i => if bit v i then x ||| w64 (2 ^ i) else x) 0

/-- The reports that an injection makes at once: register parity, a thermal sensor and a droop sensor of field F0, and a
loss of lock of the root PLL in which no PLL loses lock (R475). -/
def Mach.injectNow (m : Mach) (b : Block) (v : Word) : Mach :=
  let rep := fun (m : Mach) (pg : Page) (bitNo det : Nat) (cls : FaultClass) =>
    (m.raise pg bitNo).report412 pg det 0 cls true false
  match b with
  | .ras =>
    let m1 := if bit v 22 then rep m rasPage 22 0x0C .transient else m
    let m2 := if bit v 23 then rep (m1.setTherm 0 1).throttle rasPage 23 0x0E .logged else m1
    if bit v 24 then rep (m2.setDroop 0 8).throttle rasPage 24 0x0F .logged else m2
  | .clk => if bit v 16 then rep m clkPage 16 0x11 .transient else m
  | _ => m

/-- A write of EVENT_INJECT. -/
def Mach.injectWrite (m : Mach) (p : Page) (w : RegWrite) : Mach :=
  let h := m.hdr p
  (m.setHdr p { h with inject := h.inject ||| waitingBits p.blk w.bits }).injectNow p.blk w.bits

/-- R27. -/
def execEventInject (pg : Page) (w : RegWrite) (s : State) : Host.Outcome State Fault Refusal :=
  s.run pg.ok (fun m => m.owned w.src pg (fun m => m.injectWrite pg w))

/-! ## Live registers (R36, R40) -/

/-- The bits of a register that hold W1C fields. -/
def clearBits (b : Block) (off : Nat) : Word :=
  (fieldsAt b off).foldl (fun w fi => if fi.1.acc = .w1c then w ||| mask fi.1.hi fi.1.lo else w) 0

/-- A register without behaviour of its own: RW and LV fields take the write, W1C bits clear. -/
def Mach.plainWrite (m : Mach) (p : Page) (off : Nat) (w : RegWrite) : Mach :=
  let m1 := m.putHeld p off w
  m1.setReg p off (m1.reg p off &&& ~~~(w.bits &&& clearBits p.blk off))

/-- The commands of a digest engine's control register, in bit order (R399). -/
def Mach.digCommands (m : Mach) (e : Nat) (v : Word) : Mach :=
  let m1 := if bit v 0 then m.digOpen e else m
  let m2 := if bit v 1 then m1.digClose e else m1
  let m3 := if bit v 2 then m2.digAbort e else m2
  if bit v 3 then m3.digCompose e else m3

/-- A live register of a core: FLAGS[c], CTX[c].PC and CTX[c].CMD, or a plain one. -/
def Mach.coreWrite (m : Mach) (u off : Nat) (w : RegWrite) : Mach :=
  let p := unitPage u
  if 0xA08 ≤ off ∧ off < 0xA88 then m.clearFlags u ((off - 0xA08) / 8) w.bits
  else if 0xB00 ≤ off ∧ off < 0xC00 then
    let c := (off - 0xB00) / 16
    if off % 16 = 0 then m.ctxPcWrite u c (w.merge ((m.ctx u c).pc.zeroExtend 64)) else m.ctxCmd u c w.bits
  else m.plainWrite p off w

/-- A live register with what its chapter says of a write. -/
def Mach.liveEffect (m : Mach) (p : Page) (off : Nat) (w : RegWrite) : Mach :=
  let i := p.idx
  let plain := m.plainWrite p off w
  let v := w.bits
  match p.blk with
  | .cell => m.coreWrite i off w
  | .solv => m.coreWrite (180 + i) off w
  | .comb => if off = 0x908 then (if bit v 0 then m.smloadGo i else m) else plain
  | .pool => if 0xA00 ≤ off then m.ordWrite i ((off - 0xA00) / 8) w else plain
  | .upd => if off = 0x918 then m.updArm i w else m.updList i off w
  | .coll => if off = 0x908 then m.gloadGo i v else plain
  | .chk => if bit v 0 then m.chkClear i else m
  | .dig => if off = 0x918 then m.digCommands i v else if m.digRests i then plain else m.cfgReject p 1
  | .cal => if calOff off then m.calWrite i off w else plain
  | .host =>
    let h : HostId := if i = 1 then 1 else 0
    if off = 0x908 then (if bit w.cover 0 then m.ifLevelWrite h w else m)
    else if off = 0xA08 then m.heartbeat h w
    else if off = 0xA18 then (if bit v 0 then m.kreset h else m)
    else plain
  | .router => if bankOff off then m.bankWrite off w else plain
  | .time =>
    if off = 0x928 then m.timeSet w
    else if off = 0x940 then (if bit v 0 then m.freezeArm else m)
    else plain
  | .barr => if barOff off then m.barWindow off w else plain
  | .scale => if 0xA00 ≤ off then m.slotWindowWrite off w else plain
  | .ring => if ringOff off then m.ringWindow off w else plain
  | .ras =>
    if off = 0x920 then (if bit w.cover 8 then m.logRead (fld v 15 8) else m)
    else if off = 0x948 then m.armImage w
    else plain
  | .keep => if off = 0x930 then m.fwCommand w else plain
  | .pwr => if off = 0x908 then m.powerRequest w else m.resetWrite w
  | .field | .lake | .basin | .port | .region | .sec | .clk => plain

/-- A write of an offset of the live area: a reserved offset and a reserved bit are refused with code 0x02, a register
whose fields are all RO ignores it (R40). -/
def Mach.liveArea (m : Mach) (p : Page) (off : Nat) (w : RegWrite) : Mach :=
  if (fieldsAt p.blk off).isEmpty then m.cfgReject p 2
  else
    let takes := heldBits p.blk off ||| commandBits p.blk off
    if takes = 0 ∧ clearBits p.blk off = 0 then m
    else if takes ≠ 0 ∧ setsReserved p.blk off w.bits then m.cfgReject p 2
    else m.liveEffect p off w

/-! ## A write of any offset -/

/-- A write of a header register by the page's owner; OWNER is not among them (R38). -/
def Mach.headerWrite (m : Mach) (p : Page) (off : Nat) (w : RegWrite) : Mach :=
  let h := m.hdr p
  if off = 0x020 then m.eventClear p w
  else if off = 0x028 then m.setHdr p { h with eventEn := w.merge h.eventEn }
  else if off = 0x030 then m.injectWrite p w
  else if off = 0x038 then (m.commitWrite p w).undue p
  else if off = 0x040 then m.setHdr p { h with commitTime := w.merge h.commitTime }
  else if off < 0x058 then m
  else m.cfgReject p 2

/-- A write of the register at an offset of a page by its owner. -/
def Mach.pageWrite (m : Mach) (p : Page) (off : Nat) (w : RegWrite) : Mach :=
  if off < 0x100 then m.headerWrite p off w
  else if off < 0x500 then m.stage p off w
  else if off < 0x900 then
    (if (fieldsAt p.blk (off - 0x400)).isEmpty then m.cfgReject p 2 else m)
  else m.liveArea p off w

/-- How an access of BAR0 covers its register, when it is aligned and of a size that BAR0 accepts (R39). -/
def lanesOf (addr bytes : Nat) : Option Lanes :=
  if bytes = 8 ∧ addr % 8 = 0 then some .full
  else if bytes = 4 ∧ addr % 8 = 0 then some .low
  else if bytes = 4 ∧ addr % 8 = 4 then some .high
  else none

/-- A write at a BAR0 offset (R30, R38 to R40). -/
def Mach.bar0Write (m : Mach) (src : Writer) (addr bytes : Nat) (val : Word) : Mach :=
  if !m.runs then m
  else match lanesOf addr bytes with
    | none => (match writerPort src with
      | some h => m.badAccess h
      | none => m)
    | some l =>
      match pageAt (addr / 0x1000) with
      | none => m
      | some p =>
        let w : RegWrite := { src := src, lanes := l, val := val }
        let off := addr % 0x1000 / 8 * 8
        if off = 0x010 then m.ownerWrite p w else m.owned src p (fun m => m.pageWrite p off w)

/-- R40. -/
def execRegisterWrite (src : Writer) (addr : BitVec 28) (bytes : Nat) (val : Word) (s : State) :
    Host.Outcome State Fault Refusal :=
  s.run true (fun m => m.bar0Write src addr.toNat bytes val)

end Sys2Proof.Machine
end

