-- ==== Sys2Proof/Machine/Scalar.lean ====
section
/-! DEFINITION. The scalar instructions (R124), scalar loads and stores (R115, R122, R264). -/

namespace Sys2Proof.Machine

/-- An ALU register instruction: gd ← f ga gb (R124). -/
def Mach.aluReg (m : Mach) (u c : Nat) (gd ga gb : RegNo) (f : Word → Word → Word) : Mach :=
  m.writeBack u c gd (f (m.g u c ga) (m.g u c gb))

/-- An ALU immediate instruction: gd ← f ga (R124). -/
def Mach.aluImm (m : Mach) (u c : Nat) (gd ga : RegNo) (f : Word → Word) : Mach :=
  m.writeBack u c gd (f (m.g u c ga))

/-- An immediate shift: imm[11:6] must be 0, or the instruction is illegal (R124). -/
def Mach.aluShift (m : Mach) (u c : Nat) (gd ga : RegNo) (imm : BitVec 12) (f : Word → Nat → Word) : Mach :=
  if 64 ≤ imm.toNat then m.fault u c 0x01 else m.writeBack u c gd (f (m.g u c ga) imm.toNat)

/-- R124. ADD: gd ← ga + gb. -/
def aluAdd (a b : Word) : Word := a + b

/-- R124. SUB. -/
def aluSub (a b : Word) : Word := a - b

/-- R124. AND. -/
def aluAnd (a b : Word) : Word := a &&& b

/-- R124. OR. -/
def aluOr (a b : Word) : Word := a ||| b

/-- R124. XOR. -/
def aluXor (a b : Word) : Word := a ^^^ b

/-- R124. SLL by gb[5:0]. -/
def aluSll (a b : Word) : Word := a <<< (b.toNat % 64)

/-- R124. SRL by gb[5:0]. -/
def aluSrl (a b : Word) : Word := a >>> (b.toNat % 64)

/-- R124. SRA by gb[5:0]. -/
def aluSra (a b : Word) : Word := a.sshiftRight (b.toNat % 64)

/-- R124. SLT, signed. -/
def aluSlt (a b : Word) : Word := if a.slt b then 1 else 0

/-- R124. SLTU, unsigned. -/
def aluSltu (a b : Word) : Word := if a.ult b then 1 else 0

/-- R124. MUL: low 64 bits. -/
def aluMul (a b : Word) : Word := a * b

/-- R124. MULH: high 64 bits of the signed product. -/
def aluMulh (a b : Word) : Word := BitVec.ofInt 64 (a.toInt * b.toInt / 2 ^ 64)

/-- R124. MULHU: high 64 bits of the unsigned product. -/
def aluMulhu (a b : Word) : Word := BitVec.ofNat 64 (a.toNat * b.toNat / 2 ^ 64)

/-- R124. ADD: gd ← ga + gb. -/
def execAdd (u : UnitId) (c : CtxId) (gd ga gb : RegNo) (s : State) : Host.Outcome State Fault Refusal :=
  s.issue u c (fun m => m.aluReg u.val c.val gd ga gb aluAdd)

/-- R124. SUB. -/
def execSub (u : UnitId) (c : CtxId) (gd ga gb : RegNo) (s : State) : Host.Outcome State Fault Refusal :=
  s.issue u c (fun m => m.aluReg u.val c.val gd ga gb aluSub)

/-- R124. AND. -/
def execAnd (u : UnitId) (c : CtxId) (gd ga gb : RegNo) (s : State) : Host.Outcome State Fault Refusal :=
  s.issue u c (fun m => m.aluReg u.val c.val gd ga gb aluAnd)

/-- R124. OR. -/
def execOr (u : UnitId) (c : CtxId) (gd ga gb : RegNo) (s : State) : Host.Outcome State Fault Refusal :=
  s.issue u c (fun m => m.aluReg u.val c.val gd ga gb aluOr)

/-- R124. XOR. -/
def execXor (u : UnitId) (c : CtxId) (gd ga gb : RegNo) (s : State) : Host.Outcome State Fault Refusal :=
  s.issue u c (fun m => m.aluReg u.val c.val gd ga gb aluXor)

/-- R124. SLL by gb[5:0]. -/
def execSll (u : UnitId) (c : CtxId) (gd ga gb : RegNo) (s : State) : Host.Outcome State Fault Refusal :=
  s.issue u c (fun m => m.aluReg u.val c.val gd ga gb aluSll)

/-- R124. SRL by gb[5:0]. -/
def execSrl (u : UnitId) (c : CtxId) (gd ga gb : RegNo) (s : State) : Host.Outcome State Fault Refusal :=
  s.issue u c (fun m => m.aluReg u.val c.val gd ga gb aluSrl)

/-- R124. SRA by gb[5:0]. -/
def execSra (u : UnitId) (c : CtxId) (gd ga gb : RegNo) (s : State) : Host.Outcome State Fault Refusal :=
  s.issue u c (fun m => m.aluReg u.val c.val gd ga gb aluSra)

/-- R124. SLT, signed. -/
def execSlt (u : UnitId) (c : CtxId) (gd ga gb : RegNo) (s : State) : Host.Outcome State Fault Refusal :=
  s.issue u c (fun m => m.aluReg u.val c.val gd ga gb aluSlt)

/-- R124. SLTU, unsigned. -/
def execSltu (u : UnitId) (c : CtxId) (gd ga gb : RegNo) (s : State) : Host.Outcome State Fault Refusal :=
  s.issue u c (fun m => m.aluReg u.val c.val gd ga gb aluSltu)

/-- R124. MUL: low 64 bits. -/
def execMul (u : UnitId) (c : CtxId) (gd ga gb : RegNo) (s : State) : Host.Outcome State Fault Refusal :=
  s.issue u c (fun m => m.aluReg u.val c.val gd ga gb aluMul)

/-- R124. MULH: high 64 bits of the signed product. -/
def execMulh (u : UnitId) (c : CtxId) (gd ga gb : RegNo) (s : State) : Host.Outcome State Fault Refusal :=
  s.issue u c (fun m => m.aluReg u.val c.val gd ga gb aluMulh)

/-- R124. MULHU: high 64 bits of the unsigned product. -/
def execMulhu (u : UnitId) (c : CtxId) (gd ga gb : RegNo) (s : State) : Host.Outcome State Fault Refusal :=
  s.issue u c (fun m => m.aluReg u.val c.val gd ga gb aluMulhu)

/-- R124. ADDI: sign-extended. -/
def execAddi (u : UnitId) (c : CtxId) (gd ga : RegNo) (imm : BitVec 12) (s : State) :
    Host.Outcome State Fault Refusal :=
  s.issue u c (fun m => m.aluImm u.val c.val gd ga (fun a => a + sext12 imm))

/-- R124. ANDI: zero-extended. -/
def execAndi (u : UnitId) (c : CtxId) (gd ga : RegNo) (imm : BitVec 12) (s : State) :
    Host.Outcome State Fault Refusal :=
  s.issue u c (fun m => m.aluImm u.val c.val gd ga (fun a => a &&& zext12 imm))

/-- R124. ORI. -/
def execOri (u : UnitId) (c : CtxId) (gd ga : RegNo) (imm : BitVec 12) (s : State) :
    Host.Outcome State Fault Refusal :=
  s.issue u c (fun m => m.aluImm u.val c.val gd ga (fun a => a ||| zext12 imm))

/-- R124. XORI. -/
def execXori (u : UnitId) (c : CtxId) (gd ga : RegNo) (imm : BitVec 12) (s : State) :
    Host.Outcome State Fault Refusal :=
  s.issue u c (fun m => m.aluImm u.val c.val gd ga (fun a => a ^^^ zext12 imm))

/-- R124. SLTI, signed. -/
def execSlti (u : UnitId) (c : CtxId) (gd ga : RegNo) (imm : BitVec 12) (s : State) :
    Host.Outcome State Fault Refusal :=
  s.issue u c (fun m => m.aluImm u.val c.val gd ga (fun a => if a.slt (sext12 imm) then 1 else 0))

/-- R124. SLTIU: the sign-extended immediate read as unsigned. -/
def execSltiu (u : UnitId) (c : CtxId) (gd ga : RegNo) (imm : BitVec 12) (s : State) :
    Host.Outcome State Fault Refusal :=
  s.issue u c (fun m => m.aluImm u.val c.val gd ga (fun a => if a.ult (sext12 imm) then 1 else 0))

/-- R124. ORIU: the immediate shifted left by 12. -/
def execOriu (u : UnitId) (c : CtxId) (gd ga : RegNo) (imm : BitVec 12) (s : State) :
    Host.Outcome State Fault Refusal :=
  s.issue u c (fun m => m.aluImm u.val c.val gd ga (fun a => a ||| (zext12 imm <<< (12 : Nat))))

/-- R124. SLLI by imm[5:0]. -/
def execSlli (u : UnitId) (c : CtxId) (gd ga : RegNo) (imm : BitVec 12) (s : State) :
    Host.Outcome State Fault Refusal :=
  s.issue u c (fun m => m.aluShift u.val c.val gd ga imm (fun a k => a <<< k))

/-- R124. SRLI by imm[5:0]. -/
def execSrli (u : UnitId) (c : CtxId) (gd ga : RegNo) (imm : BitVec 12) (s : State) :
    Host.Outcome State Fault Refusal :=
  s.issue u c (fun m => m.aluShift u.val c.val gd ga imm (fun a k => a >>> k))

/-- R124. SRAI by imm[5:0]. -/
def execSrai (u : UnitId) (c : CtxId) (gd ga : RegNo) (imm : BitVec 12) (s : State) :
    Host.Outcome State Fault Refusal :=
  s.issue u c (fun m => m.aluShift u.val c.val gd ga imm (fun a k => a.sshiftRight k))

/-- Jump to ga + imm with bits [1:0] cleared, writing the return address (R124 JALR). The target is formed before gd is
written. -/
def Mach.jalr (m : Mach) (u c : Nat) (gd ga : RegNo) (imm : BitVec 12) : Mach :=
  let t := (m.g u c ga + sext12 imm) &&& ~~~3
  let ret := pcOf u ((m.ctx u c).pc.toNat + 4)
  (m.setG u c gd (ret.zeroExtend 64)).setPc u c t.toNat

/-- R124. JALR. -/
def execJalr (u : UnitId) (c : CtxId) (gd ga : RegNo) (imm : BitVec 12) (s : State) : Host.Outcome State Fault Refusal :=
  s.issue u c (fun m => m.jalr u.val c.val gd ga imm)

/-- The value of load upper: imm in [31:16], zero below, bit 31 copied upward (R124). -/
def loadUpperValue (imm : BitVec 16) : Word := ((imm.zeroExtend 32) <<< (16 : Nat)).signExtend 64

/-- R124. Load upper. -/
def execLoadUpper (u : UnitId) (c : CtxId) (gd : RegNo) (imm : BitVec 16) (s : State) :
    Host.Outcome State Fault Refusal :=
  s.issue u c (fun m => m.writeBack u.val c.val gd (loadUpperValue imm))

/-- Conditions of the branch group (R124); none for a reserved code. -/
def branchTaken (cond : BitVec 3) (a b : Word) : Option Bool :=
  match cond.toNat with
  | 0 => some (decide (a = b))
  | 1 => some (decide (a ≠ b))
  | 2 => some (a.slt b)
  | 3 => some (!a.slt b)
  | 4 => some (a.ult b)
  | 5 => some (!a.ult b)
  | _ => none

/-- A branch or jump target: PC + 4 · offset, modulo the pond (R114, R124). -/
def pcPlus (u : Nat) (pc : BitVec 24) (words : Int) : Nat :=
  (((pc.toNat : Int) + 4 * words) % (pondSize u : Nat)).toNat

/-- A branch (R124). -/
def Mach.branch (m : Mach) (u c : Nat) (ga gb : RegNo) (cond : BitVec 3) (off : BitVec 13) : Mach :=
  match branchTaken cond (m.g u c ga) (m.g u c gb) with
  | none => m.fault u c 0x01
  | some true => m.setPc u c (pcPlus u (m.ctx u c).pc off.toInt)
  | some false => m.advance u c

/-- R124. Branch. -/
def execBranch (u : UnitId) (c : CtxId) (ga gb : RegNo) (cond : BitVec 3) (off : BitVec 13) (s : State) :
    Host.Outcome State Fault Refusal :=
  s.issue u c (fun m => m.branch u.val c.val ga gb cond off)

/-- Jump and link (R124). -/
def Mach.jal (m : Mach) (u c : Nat) (gd : RegNo) (off : BitVec 21) : Mach :=
  let pc := (m.ctx u c).pc
  (m.setG u c gd ((pcOf u (pc.toNat + 4)).zeroExtend 64)).setPc u c (pcPlus u pc off.toInt)

/-- R124. Jump and link. -/
def execJumpAndLink (u : UnitId) (c : CtxId) (gd : RegNo) (off : BitVec 21) (s : State) :
    Host.Outcome State Fault Refusal :=
  s.issue u c (fun m => m.jal u.val c.val gd off)

/-- Bytes and signedness of a load's size code: B, BU, H, HU, W, WU, D (R124). -/
def loadSize (size : BitVec 3) : Option (Nat × Bool) :=
  match size.toNat with
  | 0 => some (1, true)
  | 1 => some (1, false)
  | 2 => some (2, true)
  | 3 => some (2, false)
  | 4 => some (4, true)
  | 5 => some (4, false)
  | 6 => some (8, false)
  | _ => none

/-- Bytes of a store's size code: B, H, W, D; the codes of the unsigned loads are reserved in stores (R124). -/
def storeSize (size : BitVec 3) : Option Nat :=
  match size.toNat with
  | 0 => some 1
  | 2 => some 2
  | 4 => some 4
  | 6 => some 8
  | _ => none

/-- The byte address of a scalar access: ga plus the sign-extended byte offset (R123). -/
def scalarAddr (g : Word) (off : BitVec 13) : Nat := (g + off.signExtend 64).toNat

/-- A scalar access that R115 allows: naturally aligned and inside the pond. -/
def scalarOk (u a n : Nat) : Bool := decide (a % n = 0 ∧ a + n ≤ pondSize u)

/-- Extend n bytes to 64 bits. -/
def extendLoad (n : Nat) (signed : Bool) (v : Nat) : Word :=
  if signed then BitVec.ofInt 64 (sextNat (8 * n) v) else w64 v

/-- A scalar load (R115, R122, R264); held while a row that it reads is being copied (R418). -/
def Mach.load (m : Mach) (u c : Nat) (gd ga : RegNo) (size : BitVec 3) (off : BitVec 13) : Mach :=
  match loadSize size with
  | none => m.fault u c 0x01
  | some (n, sg) =>
    let a := scalarAddr (m.g u c ga) off
    if !scalarOk u a n then m.fault u c 0x02
    else if m.rowHeld (pondKey u a) n then m
    else
      let v := m.ownView u c
      if v.anyMarked (pondKey u a) n then m.fault u c 0x03
      else m.writeBack u c gd (extendLoad n sg (v.rdNum (pondKey u a) n))

/-- R115. Scalar load. -/
def execLoad (u : UnitId) (c : CtxId) (gd ga : RegNo) (size : BitVec 3) (off : BitVec 13) (s : State) :
    Host.Outcome State Fault Refusal :=
  s.issue u c (fun m => m.load u.val c.val gd ga size off)

/-- A scalar store (R115, R264); held while a row that it writes is being copied (R418). -/
def Mach.scalarStore (m : Mach) (u c : Nat) (gs ga : RegNo) (size : BitVec 3) (off : BitVec 13) : Mach :=
  match storeSize size with
  | none => m.fault u c 0x01
  | some n =>
    let a := scalarAddr (m.g u c ga) off
    if !scalarOk u a n then m.fault u c 0x02
    else if m.rowHeld (pondKey u a) n then m
    else (m.store u c a (toBytes n (m.g u c gs).toNat) false).advance u c

/-- R264. Scalar store. -/
def execStore (u : UnitId) (c : CtxId) (gs ga : RegNo) (size : BitVec 3) (off : BitVec 13) (s : State) :
    Host.Outcome State Fault Refusal :=
  s.issue u c (fun m => m.scalarStore u.val c.val gs ga size off)

end Sys2Proof.Machine
end

