-- ==== Sys2Proof/Machine/Vector.lean ====
section
/-! DEFINITION. Vector arithmetic, conversion, selection, configuration and VRAND (R126 to R131, R134, R136). -/

namespace Sys2Proof.Machine

/-! ## One lane -/

/-- The integer that a code of an integer format stands for. -/
def intVal (fmt code : Nat) : Int := if fmt = 10 then (code % 256 : Nat) else sextNat (fmtWidth fmt) code

/-- How one lane's result follows from its operands a, b and the old d: exactly, in integers and in values. -/
structure LaneFn where
  onInt : Int → Int → Int → Int
  onNum : Num → Num → Num → Num × BitVec 8
  /-- the operands that the operation reads -/
  useB : Bool
  useD : Bool

/-- One lane (R128): the exact result rounded once into FMT, or an integer under SAT (R59). -/
def laneCalc (fn : LaneFn) (fmt : Nat) (denorm sat : Bool) (a b d : Nat) : Coded :=
  if fmtIsInt fmt then
    let r := intRange fmt
    packInt (fmtWidth fmt) r.1 r.2 sat (fn.onInt (intVal fmt a) (intVal fmt b) (intVal fmt d))
  else
    let x := readNum denorm fmt a
    let y := readNum denorm fmt b
    let z := readNum denorm fmt d
    let r := fn.onNum x.1 y.1 z.1
    let e := encodeNum fmt .rne denorm sat r.1
    let used := [x] ++ (if fn.useB then [y] else []) ++ (if fn.useD then [z] else [])
    ⟨e.code, used.foldl (fun f v => f ||| v.2) (r.2 ||| e.flags) ||| snanFlag (used.map (·.1))⟩

/-- A lane-wise instruction on va, vb and the old vd (R126, R128, R134). -/
def Mach.laneWise (m : Mach) (u c : Nat) (fn : LaneFn) (sat : Bool) (vd va vb : RegNo) (pm : BitVec 3) (fmt : Nat) : Mach :=
  let w := fmtWidth fmt
  let res := (m.enabled u c fmt pm.toNat).map (fun i =>
    let bad := laneMark (m.vmark u va.toNat) w i || (fn.useB && laneMark (m.vmark u vb.toNat) w i) ||
      (fn.useD && laneMark (m.vmark u vd.toNat) w i)
    let r := laneCalc fn fmt (m.denorm u) sat (laneOf (m.vreg u va.toNat) w i) (laneOf (m.vreg u vb.toNat) w i)
      (laneOf (m.vreg u vd.toNat) w i)
    if bad then (⟨i, m.junk i w, true⟩, 0) else ((⟨i, r.code, false⟩ : Lane), r.flags))
  let fl := res.foldl (fun f r => f ||| r.2) 0
  (((m.putLanes u vd.toNat w (res.map (·.1))).addFlags u c fl).stir).advance u c

/-- A vector arithmetic instruction: its legality, then the lanes. -/
def Mach.vecArith (m : Mach) (u c : Nat) (fn : LaneFn) (sat : Bool) (vd va vb : RegNo) (pm : BitVec 3) (fmt : BitVec 4) :
    Mach :=
  m.vecIssue u c (illegalUnless (fmtArith u fmt.toNat || fmtReserved fmt.toNat)) none (fmtReserved fmt.toNat) 1
    (fun m => m.rfDelivered u va.toNat (fmtWidth fmt.toNat) (vd = va) (fun m => m.laneWise u c fn sat vd va vb pm fmt.toNat))

def fnAdd : LaneFn := ⟨fun a b _ => a + b, fun a b _ => Num.add a b, true, false⟩
def fnSub : LaneFn := ⟨fun a b _ => a - b, fun a b _ => Num.sub a b, true, false⟩
def fnMul : LaneFn := ⟨fun a b _ => a * b, fun a b _ => Num.mul a b, true, false⟩
def fnFma : LaneFn := ⟨fun a b d => a * b + d, fun a b d => Num.fma a b d, true, true⟩
def fnMin : LaneFn := ⟨fun a b _ => min a b, fun a b _ => Num.min a b, true, false⟩
def fnMax : LaneFn := ⟨fun a b _ => max a b, fun a b _ => Num.max a b, true, false⟩
def fnAbs : LaneFn := ⟨fun a _ _ => a.natAbs, fun a _ _ => (a.abs, 0), false, false⟩

/-- R128. VADD: va + vb. -/
def execVadd (u : UnitId) (c : CtxId) (sat : Bool) (vd va vb : RegNo) (pm : BitVec 3) (fmt : BitVec 4) (s : State) :
    Host.Outcome State Fault Refusal :=
  s.issueVec u c (fun m => m.vecArith u.val c.val fnAdd sat vd va vb pm fmt)

/-- R128. VSUB: va − vb. -/
def execVsub (u : UnitId) (c : CtxId) (sat : Bool) (vd va vb : RegNo) (pm : BitVec 3) (fmt : BitVec 4) (s : State) :
    Host.Outcome State Fault Refusal :=
  s.issueVec u c (fun m => m.vecArith u.val c.val fnSub sat vd va vb pm fmt)

/-- R128. VMUL: va × vb. -/
def execVmul (u : UnitId) (c : CtxId) (sat : Bool) (vd va vb : RegNo) (pm : BitVec 3) (fmt : BitVec 4) (s : State) :
    Host.Outcome State Fault Refusal :=
  s.issueVec u c (fun m => m.vecArith u.val c.val fnMul sat vd va vb pm fmt)

/-- R128. VFMA: va × vb + vd with one rounding. -/
def execVfma (u : UnitId) (c : CtxId) (sat : Bool) (vd va vb : RegNo) (pm : BitVec 3) (fmt : BitVec 4) (s : State) :
    Host.Outcome State Fault Refusal :=
  s.issueVec u c (fun m => m.vecArith u.val c.val fnFma sat vd va vb pm fmt)

/-- R64. VMIN: minimumNumber. -/
def execVmin (u : UnitId) (c : CtxId) (sat : Bool) (vd va vb : RegNo) (pm : BitVec 3) (fmt : BitVec 4) (s : State) :
    Host.Outcome State Fault Refusal :=
  s.issueVec u c (fun m => m.vecArith u.val c.val fnMin sat vd va vb pm fmt)

/-- R64. VMAX: maximumNumber. -/
def execVmax (u : UnitId) (c : CtxId) (sat : Bool) (vd va vb : RegNo) (pm : BitVec 3) (fmt : BitVec 4) (s : State) :
    Host.Outcome State Fault Refusal :=
  s.issueVec u c (fun m => m.vecArith u.val c.val fnMax sat vd va vb pm fmt)

/-- R127. VABS: the magnitude of va; vb is ignored. -/
def execVabs (u : UnitId) (c : CtxId) (sat : Bool) (vd va vb : RegNo) (pm : BitVec 3) (fmt : BitVec 4) (s : State) :
    Host.Outcome State Fault Refusal :=
  s.issueVec u c (fun m => m.vecArith u.val c.val fnAbs sat vd va vb pm fmt)

/-! ## Complex products (R129) -/

/-- The exact parts of (ar + i·ai) × (br + i·bi), or × its conjugate, with the flags of forming them. -/
def complexParts (conj : Bool) (ar ai br bi : Num) : (Num × BitVec 8) × (Num × BitVec 8) :=
  let p := Num.mul ar br
  let q := Num.mul ai bi
  let x := Num.mul ar bi
  let y := Num.mul ai br
  let re := if conj then Num.add p.1 q.1 else Num.sub p.1 q.1
  let im := if conj then Num.sub y.1 x.1 else Num.add x.1 y.1
  ((re.1, re.2 ||| p.2 ||| q.2), (im.1, im.2 ||| x.2 ||| y.2))

/-- One pair of lanes: both codes and the flags. -/
def complexCalc (conj : Bool) (fmt : Nat) (denorm sat : Bool) (ar ai br bi : Nat) : Coded × Coded :=
  let rd := fun v => readNum denorm fmt v
  let p := complexParts conj (rd ar).1 (rd ai).1 (rd br).1 (rd bi).1
  let fl := (rd ar).2 ||| (rd ai).2 ||| (rd br).2 ||| (rd bi).2 ||| snanFlag [(rd ar).1, (rd ai).1, (rd br).1, (rd bi).1]
  let e := encodeNum fmt .rne denorm sat p.1.1
  let f := encodeNum fmt .rne denorm sat p.2.1
  (⟨e.code, e.flags ||| p.1.2 ||| fl⟩, ⟨f.code, f.flags ||| p.2.2 ||| fl⟩)

/-- R129, R126: pairs of lanes below the active count; a masked-off lane keeps its contents. -/
def Mach.complexWise (m : Mach) (u c : Nat) (conj sat : Bool) (vd va vb : RegNo) (pm : BitVec 3) (fmt : Nat) : Mach :=
  let w := fmtWidth fmt
  let on := m.enabled u c fmt pm.toNat
  let lane := fun v i => laneOf (m.vreg u v) w i
  let res := (upTo (m.activeLanes u c fmt / 2)).map (fun j =>
    let i := 2 * j
    let bad := [va.toNat, vb.toNat].any (fun v => laneMark (m.vmark u v) w i || laneMark (m.vmark u v) w (i + 1))
    let r := complexCalc conj fmt (m.denorm u) sat (lane va.toNat i) (lane va.toNat (i + 1)) (lane vb.toNat i)
      (lane vb.toNat (i + 1))
    let ls : List (Lane × BitVec 8) :=
      if bad then [(⟨i, m.junk i w, true⟩, 0), (⟨i + 1, m.junk (i + 1) w, true⟩, 0)]
      else [(⟨i, r.1.code, false⟩, r.1.flags), (⟨i + 1, r.2.code, false⟩, r.2.flags)]
    ls.filter (fun l => decide (l.1.i ∈ on)))
  let ls := res.flatten
  (((m.putLanes u vd.toNat w (ls.map (·.1))).addFlags u c (ls.foldl (fun f l => f ||| l.2) 0)).stir).advance u c

def Mach.vecComplex (m : Mach) (u c : Nat) (conj sat : Bool) (vd va vb : RegNo) (pm : BitVec 3) (fmt : BitVec 4) : Mach :=
  m.vecIssue u c (illegalUnless (fmtComplex u fmt.toNat || fmtReserved fmt.toNat)) none (fmtReserved fmt.toNat) 2
    (fun m => m.rfDelivered u va.toNat (fmtWidth fmt.toNat) (vd = va) (fun m => m.complexWise u c conj sat vd va vb pm fmt.toNat))

/-- R129. VCMUL. -/
def execVcmul (u : UnitId) (c : CtxId) (sat : Bool) (vd va vb : RegNo) (pm : BitVec 3) (fmt : BitVec 4) (s : State) :
    Host.Outcome State Fault Refusal :=
  s.issueVec u c (fun m => m.vecComplex u.val c.val false sat vd va vb pm fmt)

/-- R129. VCMULC: va × conj(vb). -/
def execVcmulc (u : UnitId) (c : CtxId) (sat : Bool) (vd va vb : RegNo) (pm : BitVec 3) (fmt : BitVec 4) (s : State) :
    Host.Outcome State Fault Refusal :=
  s.issueVec u c (fun m => m.vecComplex u.val c.val true sat vd va vb pm fmt)

/-! ## Comparisons (R65, R134) and selection (R126) -/

/-- The comparison of one lane; poisoned lanes give 0 (R134). -/
def Mach.compareWise (m : Mach) (u c : Nat) (test : Num → Num → Bool) (pd : Nat) (va vb : RegNo) (pm : BitVec 3)
    (fmt : Nat) : Mach :=
  let w := fmtWidth fmt
  let on := m.enabled u c fmt pm.toNat
  let val := fun v i => readNum (m.denorm u) fmt (laneOf (m.vreg u v) w i)
  let bad := fun i => laneMark (m.vmark u va.toNat) w i || laneMark (m.vmark u vb.toNat) w i
  let p := on.foldl (fun (p : BitVec 256) i =>
    putBits p i 1 (b2n (!bad i && test (val va.toNat i).1 (val vb.toNat i).1))) (m.pred u pd)
  let fl := on.foldl (fun f i => if bad i then f else
    f ||| (val va.toNat i).2 ||| (val vb.toNat i).2 ||| snanFlag [(val va.toNat i).1, (val vb.toNat i).1]) 0
  ((m.setPred u pd p).addFlags u c fl).advance u c

def Mach.vecCompare (m : Mach) (u c : Nat) (test : Num → Num → Bool) (vd va vb : RegNo) (pm : BitVec 3)
    (fmt : BitVec 4) : Mach :=
  m.vecIssue u c (illegalUnless (decide (vd.toNat < 8) && (fmtArith u fmt.toNat || fmtReserved fmt.toNat))) none
    (fmtReserved fmt.toNat) 1
    (fun m => m.rfDelivered u va.toNat (fmtWidth fmt.toNat) false (fun m => m.compareWise u c test vd.toNat va vb pm fmt.toNat))

/-- R134. VCMPEQ. -/
def execVcmpeq (u : UnitId) (c : CtxId) (_sat : Bool) (vd va vb : RegNo) (pm : BitVec 3) (fmt : BitVec 4) (s : State) :
    Host.Outcome State Fault Refusal :=
  s.issueVec u c (fun m => m.vecCompare u.val c.val Num.eqv vd va vb pm fmt)

/-- R134. VCMPLT. -/
def execVcmplt (u : UnitId) (c : CtxId) (_sat : Bool) (vd va vb : RegNo) (pm : BitVec 3) (fmt : BitVec 4) (s : State) :
    Host.Outcome State Fault Refusal :=
  s.issueVec u c (fun m => m.vecCompare u.val c.val Num.lt vd va vb pm fmt)

/-- VSEL writes every active lane: va where the selector's bit is 1, vb where it is 0 (R126, R127). -/
def Mach.selectWise (m : Mach) (u c : Nat) (vd va vb : RegNo) (pm : BitVec 3) (fmt : Nat) : Mach :=
  let w := fmtWidth fmt
  let ls := (upTo (m.activeLanes u c fmt)).map (fun i =>
    let v := if predBit pm.toNat (m.pred u pm.toNat) i then va.toNat else vb.toNat
    (⟨i, laneOf (m.vreg u v) w i,
      laneMark (m.vmark u va.toNat) w i || laneMark (m.vmark u vb.toNat) w i⟩ : Lane))
  (m.putLanes u vd.toNat w ls).advance u c

/-- R126. VSEL. -/
def execVsel (u : UnitId) (c : CtxId) (_sat : Bool) (vd va vb : RegNo) (pm : BitVec 3) (fmt : BitVec 4) (s : State) :
    Host.Outcome State Fault Refusal :=
  s.issueVec u c (fun m => m.vecIssue u.val c.val
    (illegalUnless (fmtArith u.val fmt.toNat || fmtReserved fmt.toNat)) none (fmtReserved fmt.toNat) 1
    (fun m => m.rfDelivered u.val va.toNat (fmtWidth fmt.toNat) (vd = va) (fun m => m.selectWise u.val c.val vd va vb pm fmt.toNat)))

/-! ## Conversion (R131) -/

/-- Read the source of a conversion: DENORM does not govern a widening into FP64 (R51). -/
def cvtRead (denorm : Bool) (src dst code : Nat) : Num × BitVec 8 :=
  if dst = 0 then (decode src code, 0) else readNum denorm src code

/-- The rounding of lane i: RNE, or SR with USE 0x2 (R109, R131); into FP64 RNE only (R55). -/
def Mach.cvtRnd (m : Mach) (u c dst : Nat) (rnd : Bool) (i : Nat) : Rnd :=
  if rnd && decide (dst ≠ 0) then
    .sr (springR m.seed (springStream 2 (m.ctx u c).srTensor.toNat (m.srStep u)) ((m.ctx u c).srEbase.toNat + i))
  else .rne

/-- One converted lane: what the slot is presented with, the code and its flags, poison. -/
def Mach.cvtLane (m : Mach) (u c : Nat) (src dst : Nat) (rnd sat : Bool) (va i : Nat) : SlotElem :=
  let w := fmtWidth src
  let x := cvtRead (m.denorm u) src dst (laneOf (m.vreg u va) w i)
  let bad := laneMark (m.vmark u va) w i
  let r := if (m.ctx u c).srBind then
      (m.slot ((m.ctx u c).srTensor.toNat % 2 ^ 16)).convertInto dst (m.cvtRnd u c dst rnd i) (m.denorm u) sat x.1
    else (x.1, encodeNum dst (m.cvtRnd u c dst rnd i) (m.denorm u) sat x.1)
  if bad then ⟨r.1, ⟨m.junk i (fmtWidth dst), 0⟩, true⟩
  else ⟨r.1, ⟨r.2.code, r.2.flags ||| x.2 ||| snanFlag [x.1]⟩, false⟩

/-- VCVT (R131, R126, R67, R68). -/
def Mach.convertWise (m : Mach) (u c : Nat) (sat : Bool) (vd va vb : RegNo) (pm : BitVec 3) (dst : Nat) : Mach :=
  let src := vb.toNat / 2
  let rnd := decide (vb.toNat % 2 = 1)
  let x := m.ctx u c
  let n := x.srTensor.toNat % 2 ^ 16
  if x.srBind && !scaleOk (m.slot n).scale then (m.raise (unitPage u) 21).advance u c
  else
    let act := min (m.activeLanes u c src) (m.activeLanes u c dst)
    let on := (upTo act).filter (fun i =>
      predBit pm.toNat (m.pred u pm.toNat) (predIndex (fmtPaired src && fmtPaired dst) i))
    let es := on.map (fun i => m.cvtLane u c src dst rnd sat va.toNat i)
    let ls := List.zipWith (fun i e => (⟨i, e.coded.code, e.bad⟩ : Lane)) on es
    let fl := es.foldl (fun f e => f ||| e.coded.flags) 0
    let m1 := ((m.putLanes u vd.toNat (fmtWidth dst) ls).addFlags u c fl).stir
    let m2 := if x.srBind then m1.report n dst es else m1
    let y := m2.ctx u c
    (m2.setCtx u c { y with srEbase := y.srEbase + w64 y.vl }).advance u c

/-- R131. VCVT: the source format stands in bits [15:12] and RND in bit [11]. -/
def execVcvt (u : UnitId) (c : CtxId) (sat : Bool) (vd va vb : RegNo) (pm : BitVec 3) (fmt : BitVec 4) (s : State) :
    Host.Outcome State Fault Refusal :=
  s.issueVec u c (fun m => m.vecIssue u.val c.val
    (illegalUnless ((fmtData u.val fmt.toNat || fmtReserved fmt.toNat) &&
      (fmtData u.val (vb.toNat / 2) || fmtReserved (vb.toNat / 2)))) none
    (fmtReserved fmt.toNat || fmtReserved (vb.toNat / 2)) 1
    (fun m => m.rfDelivered u.val va.toNat (fmtWidth (vb.toNat / 2)) (vd = va)
      (fun m => m.convertWise u.val c.val sat vd va vb pm fmt.toNat)))

/-! ## Configuration (R126, R131) -/

/-- VSETVL: VL = min(ga, VLMAX(FMT)). -/
def Mach.setVl (m : Mach) (u c : Nat) (d ga : RegNo) (fmt : Nat) : Mach :=
  let n := min (m.g u c ga).toNat (vlMax u fmt)
  (m.setCtx u c { m.ctx u c with vl := n }).writeBack u c d (w64 n)

/-- R126. VSETVL. -/
def execVsetvl (u : UnitId) (c : CtxId) (d ga _gb : RegNo) (fmt : BitVec 4) (s : State) : Host.Outcome State Fault Refusal :=
  s.issue u c (fun m => m.vecIssue u.val c.val
    (illegalUnless (fmtData u.val fmt.toNat || fmtReserved fmt.toNat)) none (fmtReserved fmt.toNat) 0
    (fun m => m.setVl u.val c.val d ga fmt.toNat))

/-- VSETSR (R131). -/
def Mach.setSr (m : Mach) (u c : Nat) (a b : Word) : Mach :=
  (m.setCtx u c { m.ctx u c with srTensor := a.truncate 20, srBind := bit a 20, srEbase := b }).advance u c

/-- R131. VSETSR: BIND = 1 with a nonzero TENSOR[19:16] is illegal. The operation names no format in its effect, so FMT, bits [7:4] of
the word, is ignored, a reserved code too. DESIGN CHOICE, log 68. -/
def execVsetsr (u : UnitId) (c : CtxId) (_d ga gb : RegNo) (_fmt : BitVec 4) (s : State) : Host.Outcome State Fault Refusal :=
  s.issue u c (fun m =>
    let a := m.g u.val c.val ga
    m.vecIssue u.val c.val (illegalUnless (!(bit a 20 && decide (fld a 19 16 ≠ 0)))) none false 0
      (fun m => m.setSr u.val c.val a (m.g u.val c.val gb)))

/-- VBCAST: the low bits of ga to every active lane (R131). -/
def Mach.broadcast (m : Mach) (u c : Nat) (d ga : RegNo) (fmt : Nat) : Mach :=
  let w := fmtWidth fmt
  (m.putLanes u d.toNat w ((upTo (m.activeLanes u c fmt)).map (fun i =>
    (⟨i, (m.g u c ga).toNat % 2 ^ w, false⟩ : Lane)))).advance u c

/-- R131. VBCAST. -/
def execVbcast (u : UnitId) (c : CtxId) (d ga _gb : RegNo) (fmt : BitVec 4) (s : State) : Host.Outcome State Fault Refusal :=
  s.issue u c (fun m => m.vecIssue u.val c.val
    (illegalUnless (fmtData u.val fmt.toNat || fmtReserved fmt.toNat)) none (fmtReserved fmt.toNat) 1
    (fun m => m.broadcast u.val c.val d ga fmt.toNat))

/-! ## VRAND (R136) -/

/-- Fill vd with spring blocks of the stream in ga from INDEX = gb. -/
def Mach.vrand (m : Mach) (u c : Nat) (gd : RegNo) (stream index : Nat) : Mach :=
  (m.putLanes u gd.toNat 128 ((upTo (vlen u / 128)).map (fun j =>
    (⟨j, springBlock m.seed stream (index + j), false⟩ : Lane)))).advance u c

/-- R136. VRAND: a USE other than 0x8 faults. It is counted with the fewest cycles of the table: 2, in a solver cell 4 (R133, R139,
log 11). -/
def execVrand (u : UnitId) (c : CtxId) (gd ga gb : RegNo) (s : State) : Host.Outcome State Fault Refusal :=
  s.issue u c (fun m =>
    let a := m.g u.val c.val ga
    m.vecIssue u.val c.val none (if fld a 63 60 = 8 then none else some 0x05) false (if isSolver u.val then 4 else 2)
      (fun m => m.vrand u.val c.val gd a.toNat (m.g u.val c.val gb).toNat))

end Sys2Proof.Machine
end

