-- ==== Sys2Proof/Machine/Dispatch.lean ====
section
/-! DEFINITION. One arm per command: each calls its own meaning. -/

namespace Sys2Proof.Machine

/-- The effect of a command on everything but the queue. -/
def exec (i : Instr) (s : State) : Host.Outcome State Fault Refusal :=
  match i with
  | .stagedWrite pg off w => Sys2Proof.Machine.execStagedWrite pg off w s
  | .commitGo pg w => Sys2Proof.Machine.execCommitGo pg w s
  | .commitCheckDone pg => Sys2Proof.Machine.execCommitCheckDone pg s
  | .commitAbort pg w => Sys2Proof.Machine.execCommitAbort pg w s
  | .commitApply pg => Sys2Proof.Machine.execCommitApply pg s
  | .ownerWrite pg w => Sys2Proof.Machine.execOwnerWrite pg w s
  | .eventClear pg w => Sys2Proof.Machine.execEventClear pg w s
  | .eventInject pg w => Sys2Proof.Machine.execEventInject pg w s
  | .registerWrite src addr bytes val => Sys2Proof.Machine.execRegisterWrite src addr bytes val s
  | .add u c gd ga gb => Sys2Proof.Machine.execAdd u c gd ga gb s
  | .sub u c gd ga gb => Sys2Proof.Machine.execSub u c gd ga gb s
  | .and u c gd ga gb => Sys2Proof.Machine.execAnd u c gd ga gb s
  | .or u c gd ga gb => Sys2Proof.Machine.execOr u c gd ga gb s
  | .xor u c gd ga gb => Sys2Proof.Machine.execXor u c gd ga gb s
  | .sll u c gd ga gb => Sys2Proof.Machine.execSll u c gd ga gb s
  | .srl u c gd ga gb => Sys2Proof.Machine.execSrl u c gd ga gb s
  | .sra u c gd ga gb => Sys2Proof.Machine.execSra u c gd ga gb s
  | .slt u c gd ga gb => Sys2Proof.Machine.execSlt u c gd ga gb s
  | .sltu u c gd ga gb => Sys2Proof.Machine.execSltu u c gd ga gb s
  | .mul u c gd ga gb => Sys2Proof.Machine.execMul u c gd ga gb s
  | .mulh u c gd ga gb => Sys2Proof.Machine.execMulh u c gd ga gb s
  | .mulhu u c gd ga gb => Sys2Proof.Machine.execMulhu u c gd ga gb s
  | .addi u c gd ga imm => Sys2Proof.Machine.execAddi u c gd ga imm s
  | .andi u c gd ga imm => Sys2Proof.Machine.execAndi u c gd ga imm s
  | .ori u c gd ga imm => Sys2Proof.Machine.execOri u c gd ga imm s
  | .xori u c gd ga imm => Sys2Proof.Machine.execXori u c gd ga imm s
  | .slli u c gd ga imm => Sys2Proof.Machine.execSlli u c gd ga imm s
  | .srli u c gd ga imm => Sys2Proof.Machine.execSrli u c gd ga imm s
  | .srai u c gd ga imm => Sys2Proof.Machine.execSrai u c gd ga imm s
  | .slti u c gd ga imm => Sys2Proof.Machine.execSlti u c gd ga imm s
  | .sltiu u c gd ga imm => Sys2Proof.Machine.execSltiu u c gd ga imm s
  | .jalr u c gd ga imm => Sys2Proof.Machine.execJalr u c gd ga imm s
  | .oriu u c gd ga imm => Sys2Proof.Machine.execOriu u c gd ga imm s
  | .loadUpper u c gd imm => Sys2Proof.Machine.execLoadUpper u c gd imm s
  | .load u c gd ga size off => Sys2Proof.Machine.execLoad u c gd ga size off s
  | .store u c gs ga size off => Sys2Proof.Machine.execStore u c gs ga size off s
  | .branch u c ga gb cond off => Sys2Proof.Machine.execBranch u c ga gb cond off s
  | .jumpAndLink u c gd off => Sys2Proof.Machine.execJumpAndLink u c gd off s
  | .yield u c gd ga gb => Sys2Proof.Machine.execYield u c gd ga gb s
  | .halt u c gd ga gb => Sys2Proof.Machine.execHalt u c gd ga gb s
  | .waitDma u c gd ga gb => Sys2Proof.Machine.execWaitDma u c gd ga gb s
  | .waitQin u c gd ga gb => Sys2Proof.Machine.execWaitQin u c gd ga gb s
  | .waitQout u c gd ga gb => Sys2Proof.Machine.execWaitQout u c gd ga gb s
  | .waitBar u c gd ga gb => Sys2Proof.Machine.execWaitBar u c gd ga gb s
  | .waitTime u c gd ga gb => Sys2Proof.Machine.execWaitTime u c gd ga gb s
  | .waitTimeExpire u c => Sys2Proof.Machine.execWaitTimeExpire u c s
  | .fenceL u c gd ga gb => Sys2Proof.Machine.execFenceL u c gd ga gb s
  | .fenceC u c gd ga gb => Sys2Proof.Machine.execFenceC u c gd ga gb s
  | .fenceD u c gd ga gb => Sys2Proof.Machine.execFenceD u c gd ga gb s
  | .fenceG u c gd ga gb => Sys2Proof.Machine.execFenceG u c gd ga gb s
  | .flagrd u c gd ga gb => Sys2Proof.Machine.execFlagrd u c gd ga gb s
  | .flagclr u c gd ga gb => Sys2Proof.Machine.execFlagclr u c gd ga gb s
  | .timerd u c gd ga gb => Sys2Proof.Machine.execTimerd u c gd ga gb s
  | .vpdn u c gd ga gb => Sys2Proof.Machine.execVpdn u c gd ga gb s
  | .vrand u c gd ga gb => Sys2Proof.Machine.execVrand u c gd ga gb s
  | .vadd u c sat vd va vb pm fmt => Sys2Proof.Machine.execVadd u c sat vd va vb pm fmt s
  | .vsub u c sat vd va vb pm fmt => Sys2Proof.Machine.execVsub u c sat vd va vb pm fmt s
  | .vmul u c sat vd va vb pm fmt => Sys2Proof.Machine.execVmul u c sat vd va vb pm fmt s
  | .vfma u c sat vd va vb pm fmt => Sys2Proof.Machine.execVfma u c sat vd va vb pm fmt s
  | .vmin u c sat vd va vb pm fmt => Sys2Proof.Machine.execVmin u c sat vd va vb pm fmt s
  | .vmax u c sat vd va vb pm fmt => Sys2Proof.Machine.execVmax u c sat vd va vb pm fmt s
  | .vabs u c sat vd va vb pm fmt => Sys2Proof.Machine.execVabs u c sat vd va vb pm fmt s
  | .vcmul u c sat vd va vb pm fmt => Sys2Proof.Machine.execVcmul u c sat vd va vb pm fmt s
  | .vcmulc u c sat vd va vb pm fmt => Sys2Proof.Machine.execVcmulc u c sat vd va vb pm fmt s
  | .vcmpeq u c sat vd va vb pm fmt => Sys2Proof.Machine.execVcmpeq u c sat vd va vb pm fmt s
  | .vcmplt u c sat vd va vb pm fmt => Sys2Proof.Machine.execVcmplt u c sat vd va vb pm fmt s
  | .vcvt u c sat vd va vb pm fmt => Sys2Proof.Machine.execVcvt u c sat vd va vb pm fmt s
  | .vsel u c sat vd va vb pm fmt => Sys2Proof.Machine.execVsel u c sat vd va vb pm fmt s
  | .vld u c vd ga gs pm fmt => Sys2Proof.Machine.execVld u c vd ga gs pm fmt s
  | .vst u c vd ga gs pm fmt => Sys2Proof.Machine.execVst u c vd ga gs pm fmt s
  | .vld2 u c vd ga gs pm fmt => Sys2Proof.Machine.execVld2 u c vd ga gs pm fmt s
  | .vld3 u c vd ga gs pm fmt => Sys2Proof.Machine.execVld3 u c vd ga gs pm fmt s
  | .vld4 u c vd ga gs pm fmt => Sys2Proof.Machine.execVld4 u c vd ga gs pm fmt s
  | .vst2 u c vd ga gs pm fmt => Sys2Proof.Machine.execVst2 u c vd ga gs pm fmt s
  | .vst3 u c vd ga gs pm fmt => Sys2Proof.Machine.execVst3 u c vd ga gs pm fmt s
  | .vst4 u c vd ga gs pm fmt => Sys2Proof.Machine.execVst4 u c vd ga gs pm fmt s
  | .vsetvl u c d ga gb fmt => Sys2Proof.Machine.execVsetvl u c d ga gb fmt s
  | .vsetsr u c d ga gb fmt => Sys2Proof.Machine.execVsetsr u c d ga gb fmt s
  | .vbcast u c d ga gb fmt => Sys2Proof.Machine.execVbcast u c d ga gb fmt s
  | .vredsum u c gd ga rest => Sys2Proof.Machine.execVredsum u c gd ga rest s
  | .vtopk u c gd ga rest => Sys2Proof.Machine.execVtopk u c gd ga rest s
  | .vreduceDone u c => Sys2Proof.Machine.execVreduceDone u c s
  | .vstateMoveDone u => Sys2Proof.Machine.execVstateMoveDone u s
  | .vectorIdlePowerDown u => Sys2Proof.Machine.execVectorIdlePowerDown u s
  | .vectorWakeDone u => Sys2Proof.Machine.execVectorWakeDone u s
  | .ctxStart u c w => Sys2Proof.Machine.execCtxStart u c w s
  | .ctxHalt u c w => Sys2Proof.Machine.execCtxHalt u c w s
  | .ctxReset u c w => Sys2Proof.Machine.execCtxReset u c w s
  | .ctxPcWrite u c w => Sys2Proof.Machine.execCtxPcWrite u c w s
  | .mxRun u c gd ga imm => Sys2Proof.Machine.execMxRun u c gd ga imm s
  | .mxWait u c gd ga imm => Sys2Proof.Machine.execMxWait u c gd ga imm s
  | .mxPoll u c gd ga imm => Sys2Proof.Machine.execMxPoll u c gd ga imm s
  | .mxDispatch u => Sys2Proof.Machine.execMxDispatch u s
  | .mxComplete u up => Sys2Proof.Machine.execMxComplete u up s
  | .svRun u c gd ga imm => Sys2Proof.Machine.execSvRun u c gd ga imm s
  | .svWait u c gd ga imm => Sys2Proof.Machine.execSvWait u c gd ga imm s
  | .svPoll u c gd ga imm => Sys2Proof.Machine.execSvPoll u c gd ga imm s
  | .solverDispatch n => Sys2Proof.Machine.execSolverDispatch n s
  | .solveIterationEnd n => Sys2Proof.Machine.execSolveIterationEnd n s
  | .solveComplete n => Sys2Proof.Machine.execSolveComplete n s
  | .descriptorExpire n => Sys2Proof.Machine.execDescriptorExpire n s
  | .backwardComplete n => Sys2Proof.Machine.execBackwardComplete n s
  | .dmRun u c gd ga imm => Sys2Proof.Machine.execDmRun u c gd ga imm s
  | .dmPoll u c gd ga imm => Sys2Proof.Machine.execDmPoll u c gd ga imm s
  | .dmaStart u pos => Sys2Proof.Machine.execDmaStart u pos s
  | .dmaComplete u pos collide => Sys2Proof.Machine.execDmaComplete u pos collide s
  | .dmaStarve u pos => Sys2Proof.Machine.execDmaStarve u pos s
  | .poolAccess req => Sys2Proof.Machine.execPoolAccess req s
  | .ordNextWrite sl g w => Sys2Proof.Machine.execOrdNextWrite sl g w s
  | .poolScratchApply sl => Sys2Proof.Machine.execPoolScratchApply sl s
  | .regionRemapApply => Sys2Proof.Machine.execRegionRemapApply s
  | .memoryBlockRead blk ecc => Sys2Proof.Machine.execMemoryBlockRead blk ecc s
  | .patrolScrub blk ecc => Sys2Proof.Machine.execPatrolScrub blk ecc s
  | .laneRetrainDone target => Sys2Proof.Machine.execLaneRetrainDone target s
  | .channelCopyDone target => Sys2Proof.Machine.execChannelCopyDone target s
  | .hostWindowAccess port req => Sys2Proof.Machine.execHostWindowAccess port req s
  | .quPslot u c gd ga imm => Sys2Proof.Machine.execQuPslot u c gd ga imm s
  | .quPush u c gd ga imm => Sys2Proof.Machine.execQuPush u c gd ga imm s
  | .quCslot u c gd ga imm => Sys2Proof.Machine.execQuCslot u c gd ga imm s
  | .quPop u c gd ga imm => Sys2Proof.Machine.execQuPop u c gd ga imm s
  | .quLevel u c gd ga imm => Sys2Proof.Machine.execQuLevel u c gd ga imm s
  | .moverStart q => Sys2Proof.Machine.execMoverStart q s
  | .moverDeliver q => Sys2Proof.Machine.execMoverDeliver q s
  | .smloadGo n w => Sys2Proof.Machine.execSmloadGo n w s
  | .smloadDone n => Sys2Proof.Machine.execSmloadDone n s
  | .scaleWindowWrite off w => Sys2Proof.Machine.execScaleWindowWrite off w s
  | .updArm sl w => Sys2Proof.Machine.execUpdArm sl w s
  | .updListWrite sl off w => Sys2Proof.Machine.execUpdListWrite sl off w s
  | .updListDone sl => Sys2Proof.Machine.execUpdListDone sl s
  | .coRun u c gd ga imm => Sys2Proof.Machine.execCoRun u c gd ga imm s
  | .coWait u c gd ga imm => Sys2Proof.Machine.execCoWait u c gd ga imm s
  | .coPoll u c gd ga imm => Sys2Proof.Machine.execCoPoll u c gd ga imm s
  | .coLwait u c gd ga imm => Sys2Proof.Machine.execCoLwait u c gd ga imm s
  | .coLrel u c gd ga imm => Sys2Proof.Machine.execCoLrel u c gd ga imm s
  | .collStart f => Sys2Proof.Machine.execCollStart f s
  | .collComplete f pos => Sys2Proof.Machine.execCollComplete f pos s
  | .gloadGo f w => Sys2Proof.Machine.execGloadGo f w s
  | .gloadDone f => Sys2Proof.Machine.execGloadDone f s
  | .portTrainDone p rep => Sys2Proof.Machine.execPortTrainDone p rep s
  | .portDown p replay => Sys2Proof.Machine.execPortDown p replay s
  | .linkRetrain p replays lane => Sys2Proof.Machine.execLinkRetrain p replays lane s
  | .packetInject pk occ => Sys2Proof.Machine.execPacketInject pk occ s
  | .packetArrive p vc pk occ bad => Sys2Proof.Machine.execPacketArrive p vc pk occ bad s
  | .packetForward p => Sys2Proof.Machine.execPacketForward p s
  | .packetDeliver pk => Sys2Proof.Machine.execPacketDeliver pk s
  | .ackReceive pk => Sys2Proof.Machine.execAckReceive pk s
  | .nakReceive pk => Sys2Proof.Machine.execNakReceive pk s
  | .resyncReceive pk => Sys2Proof.Machine.execResyncReceive pk s
  | .resyncAckReceive pk => Sys2Proof.Machine.execResyncAckReceive pk s
  | .e2eResend fl seq occ => Sys2Proof.Machine.execE2eResend fl seq occ s
  | .resyncTimeout fl => Sys2Proof.Machine.execResyncTimeout fl s
  | .epochDrainEnd => Sys2Proof.Machine.execEpochDrainEnd s
  | .bankWindowWrite off w => Sys2Proof.Machine.execBankWindowWrite off w s
  | .routerReset w => Sys2Proof.Machine.execRouterReset w s
  | .routerResetDone => Sys2Proof.Machine.execRouterResetDone s
  | .timeExchange p => Sys2Proof.Machine.execTimeExchange p s
  | .timePacketReceive p tp => Sys2Proof.Machine.execTimePacketReceive p tp s
  | .parentTimeout => Sys2Proof.Machine.execParentTimeout s
  | .rootHeartbeatTimeout => Sys2Proof.Machine.execRootHeartbeatTimeout s
  | .rootClaim => Sys2Proof.Machine.execRootClaim s
  | .holdLimitExpire => Sys2Proof.Machine.execHoldLimitExpire s
  | .portExcludeExpire p => Sys2Proof.Machine.execPortExcludeExpire p s
  | .timeSet w => Sys2Proof.Machine.execTimeSet w s
  | .ppsEdge => Sys2Proof.Machine.execPpsEdge s
  | .extrefLoss inp => Sys2Proof.Machine.execExtrefLoss inp s
  | .freezeArm w => Sys2Proof.Machine.execFreezeArm w s
  | .freezeSnapshot => Sys2Proof.Machine.execFreezeSnapshot s
  | .calWindowWrite p off w => Sys2Proof.Machine.execCalWindowWrite p off w s
  | .calSlotStart p slot busy => Sys2Proof.Machine.execCalSlotStart p slot busy s
  | .barrierArrival msg => Sys2Proof.Machine.execBarrierArrival msg s
  | .barrierReleaseMessage msg => Sys2Proof.Machine.execBarrierReleaseMessage msg s
  | .barrierRelease obj => Sys2Proof.Machine.execBarrierRelease obj s
  | .barrierWindowWrite off w => Sys2Proof.Machine.execBarrierWindowWrite off w s
  | .barrierDestroy off w => Sys2Proof.Machine.execBarrierDestroy off w s
  | .spareDone u => Sys2Proof.Machine.execSpareDone u s
  | .digOpen e w => Sys2Proof.Machine.execDigOpen e w s
  | .digClose e w => Sys2Proof.Machine.execDigClose e w s
  | .digAbort e w => Sys2Proof.Machine.execDigAbort e w s
  | .digCompose e w => Sys2Proof.Machine.execDigCompose e w s
  | .digestDone e => Sys2Proof.Machine.execDigestDone e s
  | .chkClear n w => Sys2Proof.Machine.execChkClear n w s
  | .regParity pg off => Sys2Proof.Machine.execRegParity pg off s
  | .slotimgSave w => Sys2Proof.Machine.execSlotimgSave w s
  | .slotimgRestore w => Sys2Proof.Machine.execSlotimgRestore w s
  | .fwLoad w => Sys2Proof.Machine.execFwLoad w s
  | .fwVerifyDone => Sys2Proof.Machine.execFwVerifyDone s
  | .fwActivate w => Sys2Proof.Machine.execFwActivate w s
  | .fwAbort w => Sys2Proof.Machine.execFwAbort w s
  | .fwHandover selfTestOk => Sys2Proof.Machine.execFwHandover selfTestOk s
  | .watchdogExpire => Sys2Proof.Machine.execWatchdogExpire s
  | .kreset port w => Sys2Proof.Machine.execKreset port w s
  | .keeperRestartDone => Sys2Proof.Machine.execKeeperRestartDone s
  | .heartbeat port w => Sys2Proof.Machine.execHeartbeat port w s
  | .hbEcho port => Sys2Proof.Machine.execHbEcho port s
  | .hbTimeout port => Sys2Proof.Machine.execHbTimeout port s
  | .doorbell port ring half bytes val => Sys2Proof.Machine.execDoorbell port ring half bytes val s
  | .msixUnmask port vec => Sys2Proof.Machine.execMsixUnmask port vec s
  | .ringWindowWrite off w => Sys2Proof.Machine.execRingWindowWrite off w s
  | .ringEnable off w => Sys2Proof.Machine.execRingEnable off w s
  | .ringDisable off w => Sys2Proof.Machine.execRingDisable off w s
  | .ringDrained ring => Sys2Proof.Machine.execRingDrained ring s
  | .ringDiscard off w => Sys2Proof.Machine.execRingDiscard off w s
  | .ringFetch ring d => Sys2Proof.Machine.execRingFetch ring d s
  | .ringNop ring tag => Sys2Proof.Machine.execRingNop ring tag s
  | .ringCopyIn ring tag d => Sys2Proof.Machine.execRingCopyIn ring tag d s
  | .ringCopyOut ring tag => Sys2Proof.Machine.execRingCopyOut ring tag s
  | .ringStart ring tag => Sys2Proof.Machine.execRingStart ring tag s
  | .ringHalt ring tag => Sys2Proof.Machine.execRingHalt ring tag s
  | .ringWaitstop ring tag => Sys2Proof.Machine.execRingWaitstop ring tag s
  | .ringDesc ring tag d => Sys2Proof.Machine.execRingDesc ring tag d s
  | .ringSend ring tag d => Sys2Proof.Machine.execRingSend ring tag d s
  | .kreqAttest ring tag => Sys2Proof.Machine.execKreqAttest ring tag s
  | .kreqSparingMap ring tag => Sys2Proof.Machine.execKreqSparingMap ring tag s
  | .kreqFaultLog ring tag => Sys2Proof.Machine.execKreqFaultLog ring tag s
  | .ringEntryComplete ring tag => Sys2Proof.Machine.execRingEntryComplete ring tag s
  | .coalTimer ring => Sys2Proof.Machine.execCoalTimer ring s
  | .iflevelWrite port w => Sys2Proof.Machine.execIflevelWrite port w s
  | .perstAssert port => Sys2Proof.Machine.execPerstAssert port s
  | .linkDownTimeout port => Sys2Proof.Machine.execLinkDownTimeout port s
  | .hostRecovered port => Sys2Proof.Machine.execHostRecovered port s
  | .powerOn rep => Sys2Proof.Machine.execPowerOn rep s
  | .powerOff => Sys2Proof.Machine.execPowerOff s
  | .undervoltage p => Sys2Proof.Machine.execUndervoltage p s
  | .computeReset w => Sys2Proof.Machine.execComputeReset w s
  | .computeResetBist w => Sys2Proof.Machine.execComputeResetBist w s
  | .computeResetDone rep => Sys2Proof.Machine.execComputeResetDone rep s
  | .pllUnlock pll => Sys2Proof.Machine.execPllUnlock pll s
  | .pllRelock pll => Sys2Proof.Machine.execPllRelock pll s
  | .idleEnter => Sys2Proof.Machine.execIdleEnter s
  | .retainRequest w => Sys2Proof.Machine.execRetainRequest w s
  | .wakeRequest w => Sys2Proof.Machine.execWakeRequest w s
  | .retainEnter => Sys2Proof.Machine.execRetainEnter s
  | .wakeDone => Sys2Proof.Machine.execWakeDone s
  | .forceRetainAssert => Sys2Proof.Machine.execForceRetainAssert s
  | .forceRetainDeassert => Sys2Proof.Machine.execForceRetainDeassert s
  | .powerCapMeasure p => Sys2Proof.Machine.execPowerCapMeasure p s
  | .thermal f tempC => Sys2Proof.Machine.execThermal f tempC s
  | .thermalTrip f tempC => Sys2Proof.Machine.execThermalTrip f tempC s
  | .droop f => Sys2Proof.Machine.execDroop f s
  | .droopRecovery f => Sys2Proof.Machine.execDroopRecovery f s
  | .trayIdChange id => Sys2Proof.Machine.execTrayIdChange id s
  | .smbusRead code => Sys2Proof.Machine.execSmbusRead code s
  | .mgmtDatagram src data => Sys2Proof.Machine.execMgmtDatagram src data s
  | .peerAnswers p => Sys2Proof.Machine.execPeerAnswers p s
  | .hostLinkDown port => Sys2Proof.Machine.execHostLinkDown port s
  | .hostLinkUp port speed width flit => Sys2Proof.Machine.execHostLinkUp port speed width flit s
  | .extrefReturn => Sys2Proof.Machine.execExtrefReturn s
  | .refreshHot stack above => Sys2Proof.Machine.execRefreshHot stack above s
  | .thermalRecovery f tempC => Sys2Proof.Machine.execThermalRecovery f tempC s
  | .pllRelockTimeout pll => Sys2Proof.Machine.execPllRelockTimeout pll s
  | .rowRepairDone key => Sys2Proof.Machine.execRowRepairDone key s
  | .slotimgDone => Sys2Proof.Machine.execSlotimgDone s
  | .idleEarlyWake => Sys2Proof.Machine.execIdleEarlyWake s
  | .initialResidualsDone n => Sys2Proof.Machine.execInitialResidualsDone n s
  | .undervoltageRecovery rep => Sys2Proof.Machine.execUndervoltageRecovery rep s

end Sys2Proof.Machine
end

