-- ==== Sys2Proof/Machine/Read.lean ====
section
/-! DEFINITION. Reads of BAR0 (R27, R39): what each register shows, computed where no register holds it. The command table
has no row for a read: a read changes nothing but HT.FRAC (R326) and what an access that is not accepted raises. -/

namespace Sys2Proof.Machine

/-! ## The header (R27) -/

/-- The number of the unit that a page belongs to, of the units that R12 counts: tensor and solver cells as UnitId numbers them, pool
slice s as 204 + s, the collective engine of Ff as 224 + f, comb c as 228 + c. -/
def pageUnit (p : Page) : Option Nat :=
  match p.blk with
  | .cell => some p.idx
  | .solv => some (180 + p.idx)
  | .pool => some (204 + p.idx)
  | .coll => some (224 + p.idx)
  | .comb => some (228 + p.idx)
  | _ => none

/-- STATUS.UNIT (R27, R453, R456, R457). A page that is no unit's reads in service. DEDUCED, log 41. -/
def Mach.unitCode (m : Mach) (p : Page) : Nat :=
  match pageUnit p with
  | none => 1
  | some u =>
    if !m.ready then 4
    else
      let reserve := if u < 180 then decide (u % 9 = 8) else decide (200 ≤ u)
      if m.spare.drone ∨ u ∈ m.spare.retired then (if m.testMode then 4 else 3)
      else if 204 ≤ u ∨ m.inService u then 1
      else if m.testMode then 4
      else if reserve then 2
      else 0

/-- What a unit has beside its arrays or its solve sequencer: a context that runs or is ready, a vector reduction or a move of
vector state, held stores, or DMA. -/
def Mach.unitBusy (m : Mach) (u : Nat) : Bool :=
  let x := m.unit u
  (upTo 16).any (fun c => decide ((m.ctx u c).state = .running ∨ (m.ctx u c).state = .ready)) || !x.inFlight.isEmpty ||
    x.vMove.isSome || !x.held.isEmpty || !(m.dmaQueue u).isEmpty

/-- A queue of the maps in force has a record under way in the mover of a comb, or one that it has still to start. -/
def Mach.moverBusy (m : Mach) (c : Nat) : Bool :=
  m.liveQueues.any (fun q => decide (m.partComb q.prod = c) && ((m.qst q.key).moving || decide (q.key ∈ m.queue.pushes)))

/-- A target of a lake stack or of the basin devices retrains or is copied. -/
def Mach.targetsBusy (m : Mach) (p : Page) : Bool :=
  m.chan.chans.any (fun e => decide (targetPage e.1 = p) && e.2.retrain) ||
    (decide (p.blk = .lake) && (upTo 32).any (fun i => decide (natBits (m.live p Reg.LAKE.CH_STATE) (2 * i + 1) (2 * i) = 1)))

/-- STATUS.BUSY: the block executes work: work is queued in it or in progress. A page that only routes, counts or holds
registers (FIELD, CHK, CAL, TIME, SCALE, SEC) has none of its own. DEDUCED, log 41. -/
def Mach.busyBit (m : Mach) (p : Page) : Bool :=
  match p.blk with
  | .cell => m.unitBusy p.idx || (m.mxOf p.idx).running.isSome || !(m.mxOf p.idx).queue.isEmpty
  | .solv => m.unitBusy (180 + p.idx) || (m.svOf p.idx).running.isSome || !(m.svOf p.idx).queue.isEmpty
  | .comb => (m.combMaps p.idx).loading.isSome || m.moverBusy p.idx
  | .pool => m.sliceBusy p.idx || !(m.orderBuf p.idx).isEmpty ||
      m.chan.held.any (fun r => decide (p.idx ∈ locSlices (.mem r.range.1) r.range.2))
  | .upd => decide (m.live p Reg.UPD.STATE = 2)
  | .coll => !(m.collOf p.idx).running.isEmpty || !(m.collOf p.idx).queue.isEmpty || (m.collOf p.idx).load.isSome
  | .lake | .basin => m.targetsBusy p
  | .dig => !m.digRests p.idx
  | .port => decide (m.live p Reg.PORT.STATE = 1) || !(SMap.get m.fab.outs outsDefault p.idx).isEmpty
  | .host => m.chan.held.any (fun r => match r with
      | .read (some h) _ _ => decide (h.val = p.idx)
      | _ => false)
  | .region => m.chan.remap
  | .router => !m.fab.offers.isEmpty || !m.fab.arrived.isEmpty || !m.fab.tc0.isEmpty || m.fab.outs.any (fun e => !e.2.isEmpty)
  | .barr => m.fab.bars.any (fun e => e.2.release.isSome)
  | .ring => m.rings.any (fun e => !e.2.started.isEmpty)
  | .ras => decide (m.ras.imgBusy ≠ 0) || !m.ras.repairs.isEmpty
  | .keep => decide (m.live p Reg.KEEP.FW_STATE = 1 ∨ m.live p Reg.KEEP.FW_STATE = 3)
  | .pwr => decide (m.live p Reg.PWR.STATE = 5) || m.power.bist
  | .clk => m.power.pllAt.any (fun e => e.2.isSome)
  | .field | .chk | .cal | .time | .scale | .sec => false

/-- COMMIT as it reads. -/
def Header.commit (h : Header) : Nat :=
  b2n h.pending * 2 ^ 2 + b2n h.rejected * 2 ^ 3 + b2n h.checking * 2 ^ 5 + h.reason.toNat * 2 ^ 8

/-- A header register. -/
def Mach.headerRead (m : Mach) (p : Page) (off : Nat) : Word :=
  let h := m.hdr p
  if off = 0x000 then w64 (p.blk.type * 2 ^ 48 + p.idx * 2 ^ 32 + p.blk.level * 2 ^ 24 + 2 ^ 16)
  else if off = 0x008 then w64 p.blk.caps
  else if off = 0x010 then w64 (b2n h.owner)
  else if off = 0x018 then w64 (m.unitCode p + b2n h.pending * 2 ^ 4 + b2n (m.busyBit p) * 2 ^ 5)
  else if off = 0x020 then h.event
  else if off = 0x028 then h.eventEn
  else if off = 0x038 then w64 h.commit
  else if off = 0x040 then h.commitTime
  else if off = 0x048 then h.configEpoch
  else if off = 0x050 then h.snapId
  else 0

/-! ## Live registers that are computed -/

/-- The queue that the window of a unit selects, when its consumer is on the unit (R216). -/
def Mach.windowQueue (m : Mach) (u : Nat) : Option LiveQueue :=
  m.liveQueues.find? (fun q => decide (q.key % 1024 = m.live (unitPage u) Reg.CELL.QWIN_Q) && decide (m.partUnit q.cons = some u))

/-- Registers of a core: the window of R216, contexts, held tiles, and the vector owner. -/
def Mach.coreRead (m : Mach) (u off : Nat) : Option Word :=
  let p := unitPage u
  let x := m.unit u
  if 0xA08 ≤ off ∧ off < 0xA88 then some ((m.ctx u ((off - 0xA08) / 8)).flags.zeroExtend 64)
  else if 0xB00 ≤ off ∧ off < 0xC00 then
    let c := m.ctx u ((off - 0xB00) / 16)
    some (if off % 16 = 0 then c.pc.zeroExtend 64 else w64 c.cmdWord)
  else if off = 0x9E0 ∧ u < 180 then
    let a := m.mxOf u
    let held := ((upTo 16).map (fun c => if (SMap.get a.tiles (fun _ => none) c).isSome then 2 ^ c else 0)).sum
    some (w64 (held + a.resident.getD 0 * 2 ^ 16 + b2n a.resident.isSome * 2 ^ 20))
  else if off = 0xC38 then some (w64 (x.vOwner.getD 0 + b2n x.vOwner.isSome * 2 ^ 4 + b2n x.vDown * 2 ^ 5))
  else if off = 0xD00 then some (w64 (m.live p Reg.CELL.QWIN_Q + b2n (m.windowQueue u).isSome * 2 ^ 16))
  else if 0xD08 ≤ off ∧ off < 0xD30 then
    some (match m.windowQueue u with
      | some q => w64 ((((m.qst q.key).window q.qr).getD ((off - 0xD08) / 8) 0))
      | none => 0)
  else if 0xE08 ≤ off ∧ off < 0xE30 then
    some (match m.windowQueue u with
      | some q => w64 ((SMap.get m.shadow.queues (fun _ => []) q.key).getD ((off - 0xE08) / 8) 0)
      | none => 0)
  else if 0xE30 ≤ off ∧ off < 0xE40 then some (SMap.get m.shadow.regs (fun _ => 0) (p.num * 0x1000 + off - 0x100))
  else none

/-- The group that the window of a collective engine selects (R386). -/
def Mach.groupRead (m : Mach) (f off : Nat) : Word :=
  let g := SMap.get (m.collOf f).groups (fun _ => GroupSt.reset) (m.live (collPage f) Reg.COLL.GWIN_SEL)
  let me : Rank := ⟨m.myX, m.myY, f⟩
  match g.rec? with
  | none => 0
  | some rs =>
    if off = 0x920 then w64 g.epoch
    else if off = 0x928 then w64 (rs.length + rs.findIdx (fun r => decide (r = me)) * 2 ^ 32)
    else w64 ((g.pend.map List.length).getD 0)

/-- Codes of RING.STATE (R437). -/
def RingState.code : RingState → Nat
  | .disabled => 0 | .active => 1 | .draining => 2 | .error => 3 | .orphaned => 4

/-- A word of a ring as its window shows it (R451). -/
def RingSt.word (x : RingSt) (k : Nat) : Word :=
  match k with
  | 0 => x.sqBase
  | 1 => x.cqBase
  | 2 => x.cfg
  | 4 => w64 (x.sqHead + x.sqTail * 2 ^ 32)
  | 5 => w64 (x.cqTail + x.cqHead * 2 ^ 32)
  | 6 => w64 (x.state.code + x.err % 2 ^ 8 * 2 ^ 8 + x.held.length % 2 ^ 32 * 2 ^ 16)
  | 7 => w64 x.done
  | _ => 0

/-- A word of a barrier object as its window shows it (R357). -/
def BarObj.word (b : BarObj) (k : Nat) : Word :=
  match k with
  | 0 => b.cfg
  | 1 => w64 (b.lead + b.gen % 2 ^ 16 * 2 ^ 32 + b2n b.release.isSome * 2 ^ 48)
  | 2 => b.arr0
  | _ => b.arr1

/-- What a live register shows when it is computed. -/
def Mach.shown (m : Mach) (p : Page) (off : Nat) : Option Word :=
  let i := p.idx
  match p.blk with
  | .cell => m.coreRead i off
  | .solv =>
    if off = 0x968 then some (w64 (svromNow + (match (m.svOf i).running with | some r => r.patch | none => m.fwActive.patch % 2 ^ 16) * 2 ^ 16))
    else if off = 0x978 then some (w64 (m.svOf i).queue.length)
    else m.coreRead (180 + i) off
  | .comb => if off = 0x918 then some (w64 (((m.mapOf i).map (·.mapId)).getD 0)) else none
  | .coll =>
    if off = 0x920 ∨ off = 0x928 ∨ off = 0x930 then some (m.groupRead i off)
    else if 0xA80 ≤ off ∧ off < 0xB00 then
      let v := (off - 0xA80) / 8
      some (w64 (if m.live p Reg.COLL.VIEW_CUR v = 0 then m.act p Reg.COLL.VIEW_BUF1 v else m.act p Reg.COLL.VIEW_BUF0 v))
    else none
  | .cal => if calOff off then some (m.calWord i (m.live p Reg.CAL.BANKWIN_SEL) (m.calOffset i off)) else none
  | .router => if bankOff off then some (m.bankWord (m.live p Reg.ROUTER.BANKWIN_SEL) off) else none
  | .time => if off = 0x900 then some m.time.ns else none
  | .barr => if barOff off then some ((m.bar (m.barAt off)).word ((off - 0xA00) % 32 / 8)) else none
  | .scale =>
    if 0xA00 ≤ off ∧ off < 0xE00 then
      some (w64 ((m.slot (m.windowSlot ((off - 0xA00) / 32))).words.getD ((off - 0xA00) % 32 / 8) 0))
    else none
  | .ring =>
    if ringOff off then let rk := m.windowRing off; some ((m.ringOf rk.1).word rk.2) else none
  | .ras =>
    if 0xA00 ≤ off ∧ off < 0xA20 then some (w64 ((m.logWords (m.live p Reg.RAS.LOGWIN_SEL)).getD ((off - 0xA00) / 8) 0)) else none
  | .keep =>
    if off = 0x918 then some (w64 (m.power.flash.imgA.version % 2 ^ 32 + m.power.flash.imgB.version % 2 ^ 32 * 2 ^ 32))
    else if off = 0x940 then some (setFld (m.reg p off) 5 5 (b2n m.alert))
    else none
  | .clk => if off = 0x908 then some (m.time.freqOffset.zeroExtend 64) else none
  | _ => none

/-! ## Any offset -/

/-- The register at an 8-byte offset of a page. Without power nothing is read (R462). -/
def Mach.pageRead (m : Mach) (p : Page) (off : Nat) : Word :=
  if !m.runs then 0
  else if off < 0x100 then m.headerRead p off
  else if off < 0x500 then (if (fieldsAt p.blk off).isEmpty then 0 else m.reg p off)
  else if off < 0x900 then (if (fieldsAt p.blk (off - 0x400)).isEmpty then 0 else m.reg p off)
  else if (fieldsAt p.blk off).isEmpty then 0
  else (m.shown p off).getD (m.reg p off)

/-- A read at a BAR0 offset by a port: the value, and the state after it (R30, R39, R326). -/
def Mach.bar0Read (m : Mach) (h : HostId) (addr bytes : Nat) : Word × Mach :=
  if !m.runs then (0, m)
  else match lanesOf addr bytes with
  | none => (0, m.badAccess h)
  | some l =>
    match pageAt (addr / 0x1000) with
    | none => (0, m)
    | some p =>
      let off := addr % 0x1000 / 8 * 8
      let v := m.pageRead p off
      let m1 := if p.blk = .time ∧ off = 0x900 then m.setLive p Reg.TIME.HT_FRAC m.time.frac.toNat else m
      (match l with
        | .full => v
        | .low => w64 (fld v 31 0)
        | .high => w64 (fld v 63 32), m1)

end Sys2Proof.Machine
end

