-- ==== Sys2Proof/WellFormed.lean ====
section
/-! DEFINITION. Well-formed commands: the operand names something that the module has, and a command that stands for a write of
one bit or code of a register writes that bit or code. Every meaning refuses the others by the name illFormed. -/

namespace Sys2Proof

open Machine

/-- The command can be given to the module. -/
def Instr.wf : Instr → Bool
  | .stagedWrite pg off _ => pg.ok && decide (0x100 ≤ off.toNat ∧ off.toNat < 0x500 ∧ off.toNat % 8 = 0)
  | .commitGo pg w => pg.ok && bit w.bits 0
  | .commitCheckDone pg => pg.ok
  | .commitAbort pg w => pg.ok && bit w.bits 4
  | .commitApply pg => pg.ok
  | .ownerWrite pg _ => pg.ok
  | .eventClear pg _ => pg.ok
  | .eventInject pg _ => pg.ok
  | .ctxStart _ _ w => bit w.bits 8
  | .ctxHalt _ _ w => bit w.bits 9
  | .ctxReset _ _ w => bit w.bits 10
  | .memoryBlockRead blk _ => memBlockOk blk
  | .patrolScrub blk _ => memBlockOk blk
  | .laneRetrainDone target => decide (target < 280)
  | .channelCopyDone target => decide (target < 280)
  | .hostWindowAccess _ r => windowIn r
  | .scaleWindowWrite off _ => decide (0xA00 ≤ off.toNat ∧ off.toNat < 0xE00 ∧ off.toNat % 8 = 0)
  | .updListWrite _ off _ => decide (off.toNat = 0x900 ∨ off.toNat = 0x908 ∨ off.toNat = 0x910)
  | .bankWindowWrite off _ => bankOff off.toNat
  | .routerReset w => bit w.bits 1
  | .calWindowWrite _ off _ => calOff off.toNat
  | .barrierWindowWrite off _ => barOff off.toNat
  | .barrierDestroy off w => barOff off.toNat && decide ((off.toNat - 0xA00) % 32 = 0) && bit w.bits 3
  | .regParity pg _ => pg.ok
  | .slotimgSave w => decide (fld w.bits 1 0 = 1)
  | .slotimgRestore w => decide (fld w.bits 1 0 = 2)
  | .fwLoad w => decide (fld w.bits 1 0 = 1)
  | .fwActivate w => decide (fld w.bits 1 0 = 2)
  | .fwAbort w => decide (fld w.bits 1 0 = 3)
  | .ringWindowWrite off _ => ringOff off.toNat
  | .ringEnable off w => ringOff off.toNat && decide (off.toNat % 64 = 16) && bit w.bits 6
  | .ringDisable off w => ringOff off.toNat && decide (off.toNat % 64 = 16) && bit w.cover 6 && !bit w.bits 6
  | .ringDiscard off w => ringOff off.toNat && decide (off.toNat % 64 = 24 ∧ fld w.bits 1 0 = 1)
  | .ringFetch _ d => d.ok && decide (d.bytes.length = 64)
  | .ringCopyIn _ _ d => d.ok
  | .ringDesc _ _ d => d.ok
  | .ringSend _ _ d => d.ok
  | .powerOn rep => bootOk rep
  | .computeReset w => bit w.bits 0
  | .computeResetBist w => bit w.bits 0 && bit w.bits 2
  | .computeResetDone rep => bootOk rep
  | .pllUnlock pll => decide (pll.toNat ≤ 20)
  | .pllRelock pll => decide (pll.toNat ≤ 20)
  | .retainRequest w => decide (fld w.bits 1 0 = 1)
  | .wakeRequest w => decide (fld w.bits 1 0 = 2)
  | .hostLinkUp _ speed width _ => decide (1 ≤ speed.toNat ∧ speed.toNat ≤ 6 ∧ (width = 1 ∨ width = 2 ∨ width = 4 ∨ width = 8))
  | .pllRelockTimeout pll => decide (pll.toNat ≤ 20)
  | .undervoltageRecovery rep => bootOk rep
  | .registerWrite .. | .add .. | .sub .. | .and .. | .or .. | .xor .. | .sll .. | .srl .. | .sra .. | .slt ..
  | .sltu .. | .mul .. | .mulh .. | .mulhu .. | .addi .. | .andi .. | .ori .. | .xori .. | .slli .. | .srli ..
  | .srai .. | .slti .. | .sltiu .. | .jalr .. | .oriu .. | .loadUpper .. | .load .. | .store .. | .branch ..
  | .jumpAndLink .. | .yield .. | .halt .. | .waitDma .. | .waitQin .. | .waitQout .. | .waitBar .. | .waitTime ..
  | .waitTimeExpire .. | .fenceL .. | .fenceC .. | .fenceD .. | .fenceG .. | .flagrd .. | .flagclr .. | .timerd ..
  | .vpdn .. | .vrand .. | .vadd .. | .vsub .. | .vmul .. | .vfma .. | .vmin .. | .vmax .. | .vabs .. | .vcmul ..
  | .vcmulc .. | .vcmpeq .. | .vcmplt .. | .vcvt .. | .vsel .. | .vld .. | .vst .. | .vld2 .. | .vld3 .. | .vld4 ..
  | .vst2 .. | .vst3 .. | .vst4 .. | .vsetvl .. | .vsetsr .. | .vbcast .. | .vredsum .. | .vtopk .. | .vreduceDone ..
  | .vstateMoveDone .. | .vectorIdlePowerDown .. | .vectorWakeDone .. | .ctxPcWrite .. | .mxRun .. | .mxWait ..
  | .mxPoll .. | .mxDispatch .. | .mxComplete .. | .svRun .. | .svWait .. | .svPoll .. | .solverDispatch ..
  | .solveIterationEnd .. | .solveComplete .. | .descriptorExpire .. | .backwardComplete .. | .dmRun .. | .dmPoll ..
  | .dmaStart .. | .dmaComplete .. | .dmaStarve .. | .poolAccess .. | .ordNextWrite .. | .poolScratchApply ..
  | .regionRemapApply | .quPslot .. | .quPush .. | .quCslot .. | .quPop .. | .quLevel .. | .moverStart ..
  | .moverDeliver .. | .smloadGo .. | .smloadDone .. | .updArm .. | .updListDone .. | .coRun .. | .coWait ..
  | .coPoll .. | .coLwait .. | .coLrel .. | .collStart .. | .collComplete .. | .gloadGo .. | .gloadDone ..
  | .portTrainDone .. | .portDown .. | .linkRetrain .. | .packetInject .. | .packetArrive .. | .packetForward ..
  | .packetDeliver .. | .ackReceive .. | .nakReceive .. | .resyncReceive .. | .resyncAckReceive .. | .e2eResend ..
  | .resyncTimeout .. | .epochDrainEnd | .routerResetDone | .timeExchange .. | .timePacketReceive .. | .parentTimeout
  | .rootHeartbeatTimeout | .rootClaim | .holdLimitExpire | .portExcludeExpire .. | .timeSet .. | .ppsEdge
  | .extrefLoss .. | .freezeArm .. | .freezeSnapshot | .calSlotStart .. | .barrierArrival ..
  | .barrierReleaseMessage .. | .barrierRelease .. | .spareDone .. | .digOpen .. | .digClose .. | .digAbort ..
  | .digCompose .. | .digestDone .. | .chkClear .. | .fwVerifyDone | .fwHandover .. | .watchdogExpire | .kreset ..
  | .keeperRestartDone | .heartbeat .. | .hbEcho .. | .hbTimeout .. | .doorbell .. | .msixUnmask .. | .ringDrained ..
  | .ringNop .. | .ringCopyOut .. | .ringStart .. | .ringHalt .. | .ringWaitstop ..
  | .kreqAttest .. | .kreqSparingMap .. | .kreqFaultLog .. | .ringEntryComplete .. | .coalTimer ..
  | .iflevelWrite .. | .perstAssert .. | .linkDownTimeout .. | .hostRecovered .. | .powerOff | .undervoltage ..
  | .idleEnter | .retainEnter | .wakeDone | .forceRetainAssert | .forceRetainDeassert | .powerCapMeasure ..
  | .thermal .. | .thermalTrip .. | .droop .. | .droopRecovery .. | .trayIdChange .. | .smbusRead ..
  | .mgmtDatagram .. | .peerAnswers .. | .hostLinkDown .. | .extrefReturn | .refreshHot .. | .thermalRecovery ..
  | .rowRepairDone .. | .slotimgDone | .idleEarlyWake | .initialResidualsDone .. => true

end Sys2Proof
end

