-- ==== Sys2Proof/Safety.lean ====
section
/-! DEFINITION. What counts as a safe state: commands that can be given wait in the queue, and the sparse memories have their
canonical form. Beside it the words in which claims say when a command has its own effect. -/

namespace Sys2Proof.Machine

/-- Every waiting command is well-formed. -/
def State.queueOk (s : State) : Bool := s.pending.all Instr.wf

/-- Memory and poison marks have the canonical form: keys strictly rising, no entry equal to what an unlisted key reads as. -/
def Mach.memoryWf (m : Mach) : Bool := SMap.wf m.mem memDefault && SMap.wf m.poison (fun _ => false)

/-- The registers, headers, memories, contexts, queues and engines are kept in the canonical form, each against what an unlisted
key of it reads as. -/
def Mach.canonical (m : Mach) : Bool :=
  m.memoryWf && SMap.wf m.hdrs hdrDefault && SMap.wf m.regs regDefault && SMap.wf m.core.ctxs ctxDefault &&
    SMap.wf m.core.units unitDefault && SMap.wf m.core.vregs (fun _ => 0) && SMap.wf m.core.preds (fun _ => 0) &&
    SMap.wf m.queue.combs combsDefault && SMap.wf m.queue.qs qstDefault && SMap.wf m.mx mxDefault && SMap.wf m.sv svDefault &&
    SMap.wf m.dma.queues queueDefault && SMap.wf m.dig digDefault && SMap.wf m.chk chkDefault && SMap.wf m.rings ringDefault &&
    SMap.wf m.coll collDefault

/-- A safe state. -/
def State.safe (s : State) : Bool := s.queueOk && s.m.canonical

end Sys2Proof.Machine

namespace Sys2Proof.Claim

open Sys2Proof.Machine

/-- The command answers a next state: the queue is as it was and the machine is t. -/
def Gives (i : Instr) (s : State) (t : Mach) : Prop := exec i s = .next { s with m := t }

/-- The command answers a next state whose machine has the property; the queue is as it was. -/
def Ends (i : Instr) (s : State) (p : Mach → Prop) : Prop := ∃ t, exec i s = .next { s with m := t } ∧ p t

/-- Context c of unit u runs, no injection waits at the detectors of the unit's pond and registers, no row of its pond is being repaired,
and its PC is a multiple of 4 at which the word is not poisoned. -/
def ready (m : Mach) (u : UnitId) (c : CtxId) : Bool :=
  m.unitRuns u && decide (m.running u = some c.val) && decide ((m.hdr (unitPage u)).inject &&& 0xF0000000 = 0) &&
    !m.rowHeld (pondKey u 0) 0x1000000 &&
    decide ((m.ctx u c).pc.toNat % 4 = 0) && !m.anyMarked (pondKey u (m.ctx u c).pc.toNat) 4

/-- No injection waits at the detectors of a pond or of a pool slice (R414). -/
def quiet (m : Mach) : Bool :=
  (upTo 204).all (fun u => decide ((m.hdr (unitPage u)).inject &&& 0x30000000 = 0)) &&
    (upTo 20).all (fun k => decide ((m.hdr (poolPage k)).inject &&& 0x60000 = 0))

/-- The module runs, and a write reaches a page and comes from its owner or the keeper (R38, R452, R453). -/
def owner (m : Mach) (w : RegWrite) (p : Page) : Bool :=
  m.runs &&
    (match writerPort w.src with
    | none => true
    | some h => (m.ready || writtenEarly p.blk) && decide (h = (m.hdr p).port))

/-- The write sets no bit outside the register's fields. -/
def clean (p : Page) (off : Nat) (w : RegWrite) : Bool := !setsReserved p.blk off w.bits

/-- A live register may be written: its owner writes and sets no reserved bit. -/
def live (m : Mach) (w : RegWrite) (p : Page) (off : Nat) : Bool := owner m w p && clean p off w

/-- The context keeps everything but its general registers and its PC. -/
def sameCtl (x y : Ctx) : Prop := { y with g := x.g, pc := x.pc } = x

/-- The machine differs at most in context c of unit u. -/
def onlyCtx (m t : Mach) (u : UnitId) (c : CtxId) : Prop := ∃ x, t = m.setCtx u c x

/-- Context c runs and owns the vector unit, which is awake, with no move under way, and its save slot is valid (R119, R135). -/
def vecReady (m : Mach) (u : UnitId) (c : CtxId) : Bool :=
  ready m u c && (m.vsave u c).isSome && !(m.unit u).vDown && (m.unit u).vMove.isNone &&
    decide ((m.unit u).vOwner = some c.val)

/-- The machine on which a vector instruction acts: the tick of the last one is noted (R135), and the cycles that it occupies
the unit are counted (R133). -/
def vecAt (m : Mach) (u : UnitId) (busy : Nat) : Mach :=
  (m.setUnit u { m.unit u with vLast := m.ticks }).bump (unitPage u) Reg.CELL.VEC_BUSY_CYC busy

/-- A counter has risen by n, modulo its width. -/
def counted (m t : Mach) (p : Page) (f : Fld) (n : Nat) : Prop := t.live p f = (m.live p f + n) % 2 ^ (f.hi + 1 - f.lo)

end Sys2Proof.Claim
end

