-- ==== Sys2Proof/Certificates/Slice0/Obligations.lean ====
section
/-! DEFINITION. What is claimed of the model, as propositions for the provers. -/

open Sys2Proof Sys2Proof.Machine Sys2Proof.Claim

/-! ## The machine -/

/-- One step runs the command at the front of the queue, on the state with the queue's rest.
Where the spec leaves a point open, the model's choice or reading stands: log entry 1. -/
def Obligations.StepRunsFrontCommand : Prop :=
  ∀ (i : Instr) (s : State), step { s with pending := i :: s.pending } = exec i s

/-- A step on an empty queue is one tick. While no commit is pending and no SRAM word waits to be found in error, hive time of a module
with power advances by 1 ns (R326), and no register, no byte of memory and no context changes; a module without power keeps all but its
count of ticks.
Where the spec leaves a point open, the model's choice or reading stands: log entry 6. -/
def Obligations.EmptyQueueTicks : Prop :=
  (∀ s : State, s.pending = [] → s.m.power.on = false → step s = .next { s with m := { s.m with ticks := s.m.ticks + 1 } }) ∧
  ∀ s : State, s.pending = [] → s.m.power.on = true → s.m.ras.errors = [] → (∀ e ∈ s.m.hdrs, e.2.pending = false) →
    ∃ t, step s = .next { s with m := t } ∧ t.ticks = s.m.ticks + 1 ∧ t.time.ns = s.m.time.ns + 1 ∧
    t.regs = s.m.regs ∧ t.hdrs = s.m.hdrs ∧ t.mem = s.m.mem ∧ t.poison = s.m.poison ∧ t.core = s.m.core ∧ t.queue = s.m.queue ∧
    t.power.on = s.m.power.on ∧ t.outbox = s.m.outbox

/-- A machine whose queue holds well-formed commands never stops: each step answers a next state, whose queue is the rest and
holds well-formed commands again.
Where the spec leaves a point open, the model's choice or reading stands: log entries 6, 9 and 90. -/
def Obligations.WellFormedQueueNeverStops : Prop :=
  ∀ s : State, s.queueOk = true → ∃ t, step s = .next t ∧ t.queueOk = true ∧ t.pending = s.pending.tail

/-- Every step keeps the canonical form of memory, registers, headers, contexts, queues and engines: equal contents stay equal data. -/
def Obligations.StepKeepsCanonical : Prop :=
  ∀ s t : State, s.m.canonical = true → step s = .next t → t.m.canonical = true

/-- The machine after reset has the canonical form and no command waits. -/
def Obligations.ResetIsSafe : Prop := State.reset.safe = true ∧ State.reset.pending = []

/-- The word of every instruction of a context, by R123 to R125, R72, R147, R205, R251 and R359, decodes to that instruction
with every operand.
Where the spec leaves a point open, the model's choice or reading stands: log entry 68. -/
def Obligations.InstructionWordsRoundTrip : Prop :=
  ∀ (i : Instr) (u : UnitId) (c : CtxId) (w : BitVec 32), encode i = some (u, c, w) → decodeWord u c w = some i

/-- Words written out from R123 and R124: ADD g1, g2, g3 is MAJOR 000001 with function 0; LOAD of 8 bytes is MAJOR 000100
with size 110; MX.RUN is MAJOR 101101 with FUNC 000; the all-zero word and a reserved function are no instruction. -/
def Obligations.InstructionWordsOfTheSpec : Prop :=
  ∀ (u : UnitId) (c : CtxId),
    decodeWord u c 0b000001_00001_00010_00011_00000000000#32 = some (.add u c 1 2 3) ∧
    decodeWord u c 0b000010_00001_00010_1001_000000000100#32 = some (.jalr u c 1 2 4) ∧
    decodeWord u c 0b000100_00101_00110_110_0000000001000#32 = some (.load u c 5 6 6 8) ∧
    decodeWord u c 0b000110_00001_00010_001_1111111111111#32 = some (.branch u c 1 2 1 0x1FFF) ∧
    decodeWord u c 0b001000_00100_00101_00000_00000010100#32 = some (.waitTime u c 4 5 0) ∧
    decodeWord u c 0b101101_000_00111_00000_0000000000010#32 = some (.mxRun u c 0 7 2) ∧
    decodeWord u c 0b110100_00001_00010_00011_010_0001_0000#32 = some (.vadd u c true 1 2 3 2 1) ∧
    decodeWord u c 0 = none ∧ decodeWord u c 0b000001_00001_00010_00011_00000001101#32 = none

/-- Reset: the module is without power, every context is HALTED with zero registers (R120), the memories list nothing, and
each page is owned by host A but for HOST[B] (R27).
Where the spec leaves a point open, the model's choice or reading stands: log entries 1, 2, 3 and 4. -/
def Obligations.ResetState : Prop :=
  State.reset.m.power.on = false ∧
  (∀ (u : UnitId) (c : CtxId), (State.reset.m.ctx u c).state = .halted) ∧
  (∀ (u : UnitId) (c : CtxId) (r : RegNo), State.reset.m.g u c r = 0) ∧
  (∀ k, State.reset.m.rdByte k = 0) ∧ SMap.wf State.reset.m.mem memDefault = true ∧
  (∀ p : Page, p.ok = true → ((State.reset.m.hdr p).owner = true ↔ p = ⟨.host, 1⟩)) ∧
  (∀ p : Page, (State.reset.m.hdr p).event = 0 ∧ (State.reset.m.hdr p).configEpoch = 0)

/-! ## Memory (R493) -/

/-- Bytes written are read back, and no other byte changes. The state is one whose memory list has its canonical form.
Writing bytes keeps memory and marks in their canonical form.
R493. A poisoned write marks every 8-byte word that it touches; a clean write clears the words that it covers whole and
leaves the others as they were. -/
def Obligations.MemoryWrites : Prop :=
  (∀ (m : Mach) (k : Nat) (d : Bytes) (bad : Bool), SMap.wf m.mem memDefault = true →
     (∀ i, i < d.length → (m.wrBytes k d bad).rdByte (k + i) = d.getD i 0) ∧
     (∀ a, (a < k ∨ k + d.length ≤ a) → (m.wrBytes k d bad).rdByte a = m.rdByte a)) ∧
  (∀ (m : Mach) (k : Nat) (d : Bytes) (bad : Bool), m.memoryWf = true → (m.wrBytes k d bad).memoryWf = true) ∧
  (∀ (m : Mach) (k : Nat) (d : Bytes) (a : Nat), m.memoryWf = true →
     ((k ≤ a ∧ a < k + d.length) → (m.wrBytes k d true).marked a = true) ∧
     ((k ≤ 8 * (a / 8) ∧ 8 * (a / 8) + 8 ≤ k + d.length) → (m.wrBytes k d false).marked a = false) ∧
     (¬ (k ≤ 8 * (a / 8) ∧ 8 * (a / 8) + 8 ≤ k + d.length) → (m.wrBytes k d false).marked a = m.marked a))

/-! ## Scalar instructions (R114, R115, R122, R124) -/

/-- R114. g0 reads as zero whatever is written; another register reads as it was written, and the others keep their values. -/
def Obligations.GeneralRegisters : Prop :=
  ∀ (x : Ctx) (r q : RegNo) (v : Word), SMap.wf x.g (fun _ => 0) = true →
    (x.setG 0 v = x) ∧ x.getG 0 = 0 ∧ (r ≠ 0 → (x.setG r v).getG r = v) ∧ (q ≠ r → (x.setG r v).getG q = x.getG q) ∧
    SMap.wf (x.setG r v).g (fun _ => 0) = true

/-- R124. The ALU register group: what each function writes to gd; the PC goes on to the next word, and nothing else of the
machine changes.
R124. The ALU immediate group but for JALR, and load upper. An immediate shift with imm[11:6] ≠ 0 is illegal: code 0x01. -/
def Obligations.AluResults : Prop :=
  (∀ (s : State) (u : UnitId) (c : CtxId) (gd ga gb : RegNo), ready s.m u c = true →
     let a := s.m.g u c ga
     let b := s.m.g u c gb
     let sh := b.toNat % 64
     let put := fun (v : Word) => (s.m.setG u c gd v).advance u c
     Gives (.add u c gd ga gb) s (put (a + b)) ∧ Gives (.sub u c gd ga gb) s (put (a - b)) ∧
     Gives (.and u c gd ga gb) s (put (a &&& b)) ∧ Gives (.or u c gd ga gb) s (put (a ||| b)) ∧
     Gives (.xor u c gd ga gb) s (put (a ^^^ b)) ∧ Gives (.sll u c gd ga gb) s (put (a <<< sh)) ∧
     Gives (.srl u c gd ga gb) s (put (a >>> sh)) ∧ Gives (.sra u c gd ga gb) s (put (a.sshiftRight sh)) ∧
     Gives (.slt u c gd ga gb) s (put (if a.toInt < b.toInt then 1 else 0)) ∧
     Gives (.sltu u c gd ga gb) s (put (if a.toNat < b.toNat then 1 else 0)) ∧
     Gives (.mul u c gd ga gb) s (put (BitVec.ofNat 64 (a.toNat * b.toNat))) ∧
     Gives (.mulh u c gd ga gb) s (put (BitVec.ofInt 64 ((a.toInt * b.toInt) / 2 ^ 64))) ∧
     Gives (.mulhu u c gd ga gb) s (put (BitVec.ofNat 64 ((a.toNat * b.toNat) / 2 ^ 64)))) ∧
  (∀ (s : State) (u : UnitId) (c : CtxId) (gd ga : RegNo) (imm : BitVec 12) (hi : BitVec 16), ready s.m u c = true →
     let a := s.m.g u c ga
     let sx : Word := BitVec.ofInt 64 imm.toInt
     let zx : Word := BitVec.ofNat 64 imm.toNat
     let put := fun (v : Word) => (s.m.setG u c gd v).advance u c
     let shift := fun (v : Word) => if imm.toNat < 64 then put v else s.m.fault u c 0x01
     Gives (.addi u c gd ga imm) s (put (a + sx)) ∧ Gives (.andi u c gd ga imm) s (put (a &&& zx)) ∧
     Gives (.ori u c gd ga imm) s (put (a ||| zx)) ∧ Gives (.xori u c gd ga imm) s (put (a ^^^ zx)) ∧
     Gives (.oriu u c gd ga imm) s (put (a ||| (zx <<< 12))) ∧
     Gives (.slti u c gd ga imm) s (put (if a.toInt < sx.toInt then 1 else 0)) ∧
     Gives (.sltiu u c gd ga imm) s (put (if a.toNat < sx.toNat then 1 else 0)) ∧
     Gives (.slli u c gd ga imm) s (shift (a <<< imm.toNat)) ∧ Gives (.srli u c gd ga imm) s (shift (a >>> imm.toNat)) ∧
     Gives (.srai u c gd ga imm) s (shift (a.sshiftRight imm.toNat)) ∧
     Gives (.loadUpper u c gd hi) s (put (BitVec.ofInt 64 ((hi ++ 0#16 : BitVec 32).toInt))))

/-- R124. JALR, jump and link, and branches: targets are taken modulo the pond, and JALR clears the target's low two bits.
A taken branch adds 4 times its offset; one whose condition fails goes on; a reserved condition is illegal. -/
def Obligations.JumpsAndBranches : Prop :=
  ∀ (s : State) (u : UnitId) (c : CtxId) (gd ga gb : RegNo) (imm : BitVec 12) (cond : BitVec 3) (off : BitVec 13)
    (far : BitVec 21), ready s.m u c = true →
    let a := s.m.g u c ga
    let b := s.m.g u c gb
    let pc := (s.m.ctx u c).pc.toNat
    let link : Word := (pcOf u (pc + 4)).zeroExtend 64
    let target := fun (k : Int) => (((pc : Int) + 4 * k) % (pondSize u : Int)).toNat
    let taken := [decide (a = b), decide (a ≠ b), decide (a.toInt < b.toInt), decide (b.toInt ≤ a.toInt),
      decide (a.toNat < b.toNat), decide (b.toNat ≤ a.toNat)][cond.toNat]?
    Gives (.jalr u c gd ga imm) s ((s.m.setG u c gd link).setPc u c ((a + BitVec.ofInt 64 imm.toInt).toNat / 4 * 4)) ∧
    Gives (.jumpAndLink u c gd far) s ((s.m.setG u c gd link).setPc u c (target far.toInt)) ∧
    Gives (.branch u c ga gb cond off) s
      (match taken with
      | some true => s.m.setPc u c (target off.toInt)
      | some false => s.m.advance u c
      | none => s.m.fault u c 0x01)

/-- R115, R122, R124. LOAD of a context that holds back no store: a reserved size is illegal (0x01), an address that is
misaligned or outside the pond faults with 0x02, a poisoned word with 0x03; else gd takes the bytes, lowest first, with the
sign or zeros above. -/
def Obligations.LoadResults : Prop :=
  ∀ (s : State) (u : UnitId) (c : CtxId) (gd ga : RegNo) (size : BitVec 3) (off : BitVec 13), ready s.m u c = true →
    (s.m.unit u).held = [] →
    let a := (s.m.g u c ga + BitVec.ofInt 64 off.toInt).toNat
    Gives (.load u c gd ga size off) s
      (match [(1, true), (1, false), (2, true), (2, false), (4, true), (4, false), (8, false)][size.toNat]? with
      | none => s.m.fault u c 0x01
      | some (n, sg) =>
        if a % n ≠ 0 ∨ pondSize u < a + n then s.m.fault u c 0x02
        else if s.m.anyMarked (pondKey u a) n then s.m.fault u c 0x03
        else
          let v := ofBytes (s.m.rdBytes n (pondKey u a))
          (s.m.setG u c gd (if sg ∧ 2 ^ (8 * n - 1) ≤ v then BitVec.ofInt 64 ((v : Int) - 2 ^ (8 * n))
            else BitVec.ofNat 64 v)).advance u c)

/-- R115, R124, R264. STORE outside the ranges that the arrays guard, with no store of the context held back and no stage map
in force: the low bytes of gs, lowest first, at the address; a reserved size or an address that R115 does not allow faults. -/
def Obligations.StoreResults : Prop :=
  ∀ (s : State) (u : UnitId) (c : CtxId) (gs ga : RegNo) (size : BitVec 3) (off : BitVec 13), ready s.m u c = true →
    (s.m.unit u).held = [] → s.m.queue.combs = [] → (s.m.mxOf u).running = none →
    let a := (s.m.g u c ga + BitVec.ofInt 64 off.toInt).toNat
    Gives (.store u c gs ga size off) s
      (match [some 1, none, some 2, none, some 4, none, some 8, none][size.toNat]? with
      | some (some n) =>
        if a % n ≠ 0 ∨ pondSize u < a + n then s.m.fault u c 0x02
        else (s.m.wrBytes (pondKey u a) (toBytes n (s.m.g u c gs).toNat) false).advance u c
      | _ => s.m.fault u c 0x01)

/-- The frame of STORE: an executed store that does not fault changes no register and no flag, and no byte outside the bytes
at ga + sext(offset) that it stores to. -/
def Obligations.StoreFrame : Prop :=
  ∀ (s t : State) (u : UnitId) (c : CtxId) (gs ga : RegNo) (size : BitVec 3) (off : BitVec 13), ready s.m u c = true →
    s.m.queue.combs = [] → exec (.store u c gs ga size off) s = .next t → (t.m.ctx u c).state = .running →
    (∀ r, t.m.g u c r = s.m.g u c r) ∧ (t.m.ctx u c).flags = (s.m.ctx u c).flags ∧ t.m.regs = s.m.regs ∧
    (∀ (v : UnitId) (d : CtxId), (v ≠ u ∨ d ≠ c) → t.m.ctx v d = s.m.ctx v d) ∧
    (∀ n, storeSize size = some n → ∀ k,
      (k < pondKey u (scalarAddr (s.m.g u c ga) off) ∨ pondKey u (scalarAddr (s.m.g u c ga) off) + n ≤ k) →
      t.m.rdByte k = s.m.rdByte k)

/-- The frame of the scalar instructions that write a register or the PC: no other context, no register but gd, no flag, no
page register and no byte of memory changes when they execute without a fault. -/
def Obligations.ScalarFrame : Prop :=
  ∀ (s t : State) (u : UnitId) (c : CtxId) (gd ga gb : RegNo) (imm : BitVec 12) (size : BitVec 3) (off : BitVec 13) (i : Instr),
    i ∈ [Instr.add u c gd ga gb, .sub u c gd ga gb, .and u c gd ga gb, .or u c gd ga gb, .xor u c gd ga gb, .sll u c gd ga gb,
      .srl u c gd ga gb, .sra u c gd ga gb, .slt u c gd ga gb, .sltu u c gd ga gb, .mul u c gd ga gb, .mulh u c gd ga gb,
      .mulhu u c gd ga gb, .addi u c gd ga imm, .andi u c gd ga imm, .ori u c gd ga imm, .xori u c gd ga imm,
      .slti u c gd ga imm, .sltiu u c gd ga imm, .oriu u c gd ga imm, .slli u c gd ga imm, .srli u c gd ga imm,
      .srai u c gd ga imm, .jalr u c gd ga imm, .load u c gd ga size off, .branch u c ga gb size off, .flagrd u c gd ga gb,
      .timerd u c gd ga gb] →
    ready s.m u c = true → exec i s = .next t → (t.m.ctx u c).state = .running →
    onlyCtx s.m t.m u c ∧ (∀ r, r ≠ gd → t.m.g u c r = s.m.g u c r) ∧ (t.m.ctx u c).flags = (s.m.ctx u c).flags ∧
    (t.m.ctx u c).vl = (s.m.ctx u c).vl ∧ t.m.regs = s.m.regs ∧ t.m.hdrs = s.m.hdrs ∧ t.m.mem = s.m.mem ∧
    t.m.poison = s.m.poison

/-- R121. A fault stops only its context: FAULTED, with the code and the address of the instruction, and CTX_FAULT (event 18)
on the unit's page; the other contexts and the memory go on as they were. -/
def Obligations.FaultStopsOnlyItsContext : Prop :=
  ∀ (m : Mach) (u : UnitId) (c : CtxId) (code : Nat),
    let t := m.fault u c code
    (t.ctx u c).state = .faulted ∧ (t.ctx u c).fault = BitVec.ofNat 8 code ∧ (t.ctx u c).faultPc = (m.ctx u c).pc ∧
    (t.ctx u c).pc = (m.ctx u c).pc ∧ (t.ctx u c).g = (m.ctx u c).g ∧ bit (t.hdr (unitPage u)).event 18 = true ∧
    (∀ (v : UnitId) (d : CtxId), (v ≠ u ∨ d ≠ c) → t.ctx v d = m.ctx v d) ∧ t.mem = m.mem ∧ t.poison = m.poison ∧ t.regs = m.regs

/-- R116, R125, R137, R329. The instructions that concern their own context: YIELD leaves it READY and HALT leaves it HALTED,
both at the next instruction; FLAGRD and TIMERD read the flags and hive time; FLAGCLR clears the flags that ga names;
WAIT.TIME gives 0 once hive time has reached ga and else waits; and a wait whose instant has come ends.
R118. Contexts take turns: a context that is not the one last selected and executes counts as one switch.
Where the spec leaves a point open, the model's choice or reading stands: log entries 12 and 13. -/
def Obligations.ContextInstructions : Prop :=
  (∀ (s : State) (u : UnitId) (c : CtxId) (gd ga gb : RegNo),
     let x := s.m.ctx u c
     let a := s.m.advance u c
     (ready s.m u c = true →
       Gives (.yield u c gd ga gb) s (a.setCtx u c { a.ctx u c with state := .ready }) ∧
       Gives (.halt u c gd ga gb) s (a.setCtx u c { a.ctx u c with state := .halted }) ∧
       Gives (.flagrd u c gd ga gb) s ((s.m.setG u c gd (x.flags.zeroExtend 64)).advance u c) ∧
       Gives (.flagclr u c gd ga gb) s
         ((s.m.setCtx u c { x with flags := x.flags &&& ~~~((s.m.g u c ga).truncate 8) }).advance u c) ∧
       Gives (.timerd u c gd ga gb) s ((s.m.setG u c gd s.m.time.ns).advance u c) ∧
       Gives (.waitTime u c gd ga gb) s
         (if (s.m.g u c ga).toNat ≤ s.m.time.ns.toNat then (s.m.setG u c gd 0).advance u c
          else s.m.setCtx u c { x with state := .waiting, wait := .time (s.m.g u c ga) })) ∧
     (∀ w, x.state = .waiting → x.wait = .time w →
       Gives (.waitTimeExpire u c) s
         (if w.toNat ≤ s.m.time.ns.toNat then s.m.setCtx u c { x with state := .ready, wait := .none } else s.m))) ∧
  (∀ (m : Mach) (u : UnitId) (c : CtxId) (d : Nat), (m.unit u).lastSel = some d →
     let t := m.selectCtx u c
     (t.ctx u c).state = .running ∧ (t.unit u).lastSel = some c.val ∧
     t.regs = (if d = c.val then m.regs else (m.bump (unitPage u) Reg.CELL.CTX_SWITCHES).regs))

/-- R120. The commands of CTX[c], written by the page's owner with one command bit and no reserved bit. START makes a HALTED
context READY; HALT halts a context at its instruction boundary, one in WAIT.BAR only at the release; RESET gives a HALTED or
FAULTED context its reset state, and a reduction that it has in flight goes on without it; each is refused in the other states with CTX_BUSY (event 19). The PC takes a value inside
the pond while the context is HALTED; with another PC than before the context no longer stands at a reduction it had begun.
Where the spec leaves a point open, the model's choice or reading stands: log entries 16 and 95. -/
def Obligations.ContextCommands : Prop :=
  ∀ (s : State) (u : UnitId) (c : CtxId) (w : RegWrite), owner s.m w (unitPage u) = true →
    let x := s.m.ctx u c
    let y := s.m.unit u
    let a := s.m.mxOf u
    let busy := s.m.raise (unitPage u) 19
    (setsReserved (unitPage u).blk (0xB08 + 16 * c.val) w.bits = false →
      (bit w.bits 8 = true → bit w.bits 9 = false → bit w.bits 10 = false →
        Gives (.ctxStart u c w) s
          (if x.state = .halted then
            s.m.endIdle.setCtx u c { s.m.endIdle.ctx u c with state := .ready, wait := .none } else busy)) ∧
      (bit w.bits 8 = false → bit w.bits 9 = true → bit w.bits 10 = false →
        Gives (.ctxHalt u c w) s
          (if x.state = .ready ∨ x.state = .running then s.m.setCtx u c { x with state := .halted }
           else if x.state = .waiting then
             (match x.wait with
              | .bar .. => s.m.setCtx u c { x with haltAtRelease := true }
              | _ => (s.m.waited u c).setCtx u c { x with state := .halted, wait := .none })
           else busy)) ∧
      (bit w.bits 8 = false → bit w.bits 9 = false → bit w.bits 10 = true →
        (x.state = .halted ∨ x.state = .faulted →
          Ends (.ctxReset u c w) s (fun t =>
            (y.vMove ≠ some c.val → t.core.ctxs =
              (s.m.setCtx u c { Ctx.reset with mx := x.mx, sv := x.sv, co := x.co, dma := x.dma }).core.ctxs) ∧
            t.core.units = (s.m.setUnit u
              { y.unlink c with
                       vOwner := if y.vOwner = some c.val then none else y.vOwner
                       vMove := if y.vMove = some c.val then none else y.vMove
                       vImage := SMap.erase y.vImage c }).core.units ∧ (y.unlink c).inFlight.length = y.inFlight.length ∧
            t.mx = (s.m.setMx u
              { a with tiles := SMap.set a.tiles (fun _ => none) c none
                       slots := SMap.erase a.slots c
                       resident := if a.resident = some c.val then none else a.resident }).mx ∧
            t.regs = s.m.regs ∧ t.hdrs = s.m.hdrs ∧ t.mem = s.m.mem ∧ t.core.vregs = s.m.core.vregs)) ∧
        (x.state ≠ .halted → x.state ≠ .faulted → Gives (.ctxReset u c w) s busy))) ∧
    (let v := w.merge (x.pc.zeroExtend 64)
     let put := fun (m : Mach) => m.setCtx u c { x with pc := BitVec.ofNat 24 v.toNat }
     (pondSize u ≤ v.toNat → Gives (.ctxPcWrite u c w) s (s.m.cfgReject (unitPage u) 2)) ∧
     (v.toNat < pondSize u →
      (x.state ≠ .halted → Gives (.ctxPcWrite u c w) s busy) ∧
      (x.state = .halted → x.pc.toNat = v.toNat → Gives (.ctxPcWrite u c w) s (put s.m)) ∧
      (x.state = .halted → x.pc.toNat ≠ v.toNat → Gives (.ctxPcWrite u c w) s (put (s.m.setUnit u (y.unlink c))))))

/-! ## Vector instructions (R119, R126 to R136) -/

/-- What every lane of a lane-wise instruction holds afterwards: an enabled active lane the exact result rounded once, or an
open value with a mark where an operand that is read carries one; every other lane what it held (R126, R128, R134).
R128. Vector arithmetic of a context that owns the awake vector unit, in a format that the unit computes in.
Where the spec leaves a point open, the model's choice or reading stands: log entries 18 and 30. -/
def Obligations.VectorArithmetic : Prop :=
  (∀ (m : Mach) (u : UnitId) (c : CtxId) (fn : LaneFn) (sat : Bool) (vd va vb : RegNo) (pm : BitVec 3) (fmt : Nat), fmt ≤ 11 →
     ∃ r k fl, m.laneWise u c fn sat vd va vb pm fmt = (((m.setVreg u vd.toNat r k).addFlags u c fl).stir).advance u c ∧
       ∀ i, i < 2048 / fmtWidth fmt →
         let w := fmtWidth fmt
         let of := fun (v : RegNo) => laneOf (m.vreg u v.toNat) w i
         let mk := fun (v : RegNo) => laneMark (m.vmark u v.toNat) w i
         let bad := mk va || (fn.useB && mk vb) || (fn.useD && mk vd)
         if i ∈ m.enabled u c fmt pm.toNat then
           laneMark k w i = bad ∧
           (bad = false → laneOf r w i = (laneCalc fn fmt (m.denorm u) sat (of va) (of vb) (of vd)).code % 2 ^ w)
         else laneOf r w i = of vd ∧ laneMark k w i = mk vd) ∧
  (∀ (s : State) (u : UnitId) (c : CtxId) (sat : Bool) (vd va vb : RegNo) (pm : BitVec 3) (fmt : BitVec 4),
     vecReady s.m u c = true → fmtArith u fmt.toNat = true →
     let put := fun (onInt : Int → Int → Int → Int) (onNum : Machine.Num → Machine.Num → Machine.Num → Machine.Num × BitVec 8) (useB useD : Bool) =>
       (vecAt s.m u 1).laneWise u c ⟨onInt, onNum, useB, useD⟩ sat vd va vb pm fmt.toNat
     Gives (.vadd u c sat vd va vb pm fmt) s (put (fun a b _ => a + b) (fun a b _ => Machine.Num.add a b) true false) ∧
     Gives (.vsub u c sat vd va vb pm fmt) s (put (fun a b _ => a - b) (fun a b _ => Machine.Num.sub a b) true false) ∧
     Gives (.vmul u c sat vd va vb pm fmt) s (put (fun a b _ => a * b) (fun a b _ => Machine.Num.mul a b) true false) ∧
     Gives (.vfma u c sat vd va vb pm fmt) s (put (fun a b d => a * b + d) (fun a b d => Machine.Num.fma a b d) true true) ∧
     Gives (.vmin u c sat vd va vb pm fmt) s (put (fun a b _ => min a b) (fun a b _ => Machine.Num.min a b) true false) ∧
     Gives (.vmax u c sat vd va vb pm fmt) s (put (fun a b _ => max a b) (fun a b _ => Machine.Num.max a b) true false) ∧
     Gives (.vabs u c sat vd va vb pm fmt) s (put (fun a _ _ => (a.natAbs : Int)) (fun a _ _ => (a.abs, 0)) false false))

/-- R126, R129, R131, R134. Complex products, comparisons, selection and conversion in their formats. A pair of enabled active
lanes of a complex product holds the two parts of va × vb, or of va × conj(vb); an enabled active bit of the predicate the
outcome of the comparison, 0 where an operand carries a mark; a selection takes va or vb in every active lane; an enabled
active lane of a conversion the value of va rounded into the destination format. An open value with a mark stands where an
operand carries one; every other lane and bit is as it was.
Where the spec leaves a point open, the model's choice or reading stands: log entries 28 and 30. -/
def Obligations.VectorOther : Prop :=
  ∀ (s : State) (u : UnitId) (c : CtxId) (sat : Bool) (vd va vb : RegNo) (pm : BitVec 3) (fmt : BitVec 4),
    vecReady s.m u c = true →
    let f := fmt.toNat
    let w := fmtWidth f
    let src := vb.toNat / 2
    let rnd := decide (vb.toNat % 2 = 1)
    let den := s.m.denorm u
    let m2 := vecAt s.m u 2
    let m := vecAt s.m u 1
    let on := m.enabled u c f pm.toNat
    let of := fun (v : RegNo) (i : Nat) => laneOf (m.vreg u v.toNat) w i
    let mk := fun (v : RegNo) (i : Nat) => laneMark (m.vmark u v.toNat) w i
    let pairBad := fun (i : Nat) => mk va (2 * (i / 2)) || mk vb (2 * (i / 2)) || mk va (2 * (i / 2) + 1) || mk vb (2 * (i / 2) + 1)
    let pair := fun (conj : Bool) (i : Nat) =>
      let r := complexCalc conj f den sat (of va (2 * (i / 2))) (of va (2 * (i / 2) + 1)) (of vb (2 * (i / 2)))
        (of vb (2 * (i / 2) + 1))
      if i % 2 = 0 then r.1.code else r.2.code
    let complexIs := fun (i : Instr) (conj : Bool) => ∃ r k fl,
      Gives i s ((((m2.setVreg u vd.toNat r k).addFlags u c fl).stir).advance u c) ∧
      ∀ i, i < 2048 / w →
        if i ∈ on ∧ i / 2 < m.activeLanes u c f / 2 then
          laneMark k w i = pairBad i ∧ (pairBad i = false → laneOf r w i = pair conj i % 2 ^ w)
        else laneOf r w i = of vd i ∧ laneMark k w i = mk vd i
    let compareIs := fun (i : Instr) (test : Machine.Num → Machine.Num → Bool) => ∃ p fl,
      Gives i s (((m.setPred u vd.toNat p).addFlags u c fl).advance u c) ∧
      ∀ i, i < 256 → p.toNat.testBit i =
        (if i ∈ on then !mk va i && !mk vb i && test (readNum den f (of va i)).1 (readNum den f (of vb i)).1
         else (m.pred u vd.toNat).toNat.testBit i)
    (fmtComplex u f = true → complexIs (.vcmul u c sat vd va vb pm fmt) false) ∧
    (fmtComplex u f = true → complexIs (.vcmulc u c sat vd va vb pm fmt) true) ∧
    (fmtArith u f = true → vd.toNat < 8 → compareIs (.vcmpeq u c sat vd va vb pm fmt) Machine.Num.eqv) ∧
    (fmtArith u f = true → vd.toNat < 8 → compareIs (.vcmplt u c sat vd va vb pm fmt) Machine.Num.lt) ∧
    (fmtArith u f = true →
      ∃ r k, Gives (.vsel u c sat vd va vb pm fmt) s ((m.setVreg u vd.toNat r k).advance u c) ∧
        ∀ i, i < 2048 / w → laneOf r w i =
          (if i < m.activeLanes u c f then of (if predBit pm.toNat (m.pred u pm.toNat) i then va else vb) i else of vd i)) ∧
    (fmtData u f = true → fmtData u src = true → (s.m.ctx u c).srBind = false →
      let act := min (m.activeLanes u c src) (m.activeLanes u c f)
      let ons := (upTo act).filter (fun i => predBit pm.toNat (m.pred u pm.toNat) (predIndex (fmtPaired src && fmtPaired f) i))
      let ma := fun (i : Nat) => laneMark (m.vmark u va.toNat) (fmtWidth src) i
      ∃ r k fl,
        (let t := ((m.setVreg u vd.toNat r k).addFlags u c fl).stir
         Gives (.vcvt u c sat vd va vb pm fmt) s
          ((t.setCtx u c { t.ctx u c with srEbase := (s.m.ctx u c).srEbase + BitVec.ofNat 64 (s.m.ctx u c).vl }).advance u c)) ∧
        ∀ i, i < 2048 / w →
          if i ∈ ons then
            laneMark k w i = ma i ∧ (ma i = false → laneOf r w i =
              (encodeNum f (m.cvtRnd u c f rnd i) den sat
                (cvtRead den src f (laneOf (m.vreg u va.toNat) (fmtWidth src) i)).1).code % 2 ^ w)
          else laneOf r w i = of vd i ∧ laneMark k w i = mk vd i) ∧
    (fmtData u f = true → fmtData u src = true → (s.m.ctx u c).srBind = true →
      scaleOk (s.m.slot ((s.m.ctx u c).srTensor.toNat % 2 ^ 16)).scale = true →
      Gives (.vcvt u c sat vd va vb pm fmt) s (m.convertWise u c sat vd va vb pm f))

/-- R126, R131, R136. VSETVL gives min(ga, VLMAX) as the vector length and to gd; VSETSR takes the stream of stochastic
rounding and its base; VBCAST puts the low bits of ga into every active lane; VRAND fills vd with blocks of the stream in ga
from index gb, and a use other than 8 faults with 0x05.
Where the spec leaves a point open, the model's choice or reading stands: log entry 30. -/
def Obligations.VectorConfiguration : Prop :=
  ∀ (s : State) (u : UnitId) (c : CtxId) (d ga gb : RegNo) (fmt : BitVec 4), vecReady s.m u c = true →
    let a := s.m.g u c ga
    (fmtData u fmt.toNat = true →
      let m := vecAt s.m u 0
      let n := min a.toNat (vlMax u fmt.toNat)
      Gives (.vsetvl u c d ga gb fmt) s
        (((m.setCtx u c { m.ctx u c with vl := n }).setG u c d (BitVec.ofNat 64 n)).advance u c)) ∧
    (fmtData u fmt.toNat = true →
      let m := vecAt s.m u 1
      ∃ r k, Gives (.vbcast u c d ga gb fmt) s ((m.setVreg u d.toNat r k).advance u c) ∧
        ∀ i, i < 2048 / fmtWidth fmt.toNat → laneOf r (fmtWidth fmt.toNat) i =
          (if i < m.activeLanes u c fmt.toNat then a.toNat % 2 ^ fmtWidth fmt.toNat
           else laneOf (m.vreg u d.toNat) (fmtWidth fmt.toNat) i)) ∧
    ((bit a 20 = false ∨ fld a 19 16 = 0) →
      let m := vecAt s.m u 0
      Gives (.vsetsr u c d ga gb fmt) s
        ((m.setCtx u c { m.ctx u c with srTensor := a.truncate 20, srBind := bit a 20,
                                        srEbase := s.m.g u c gb }).advance u c)) ∧
    (bit a 20 = true → fld a 19 16 ≠ 0 → Gives (.vsetsr u c d ga gb fmt) s (s.m.fault u c 0x01)) ∧
    (fld a 63 60 = 8 →
      ∃ r k, Gives (.vrand u c d ga gb) s (((vecAt s.m u (if isSolver u then 4 else 2)).setVreg u d.toNat r k).advance u c) ∧
        ∀ j, j < vlen u / 128 → laneOf r 128 j = springBlock s.m.seed a.toNat ((s.m.g u c gb).toNat + j) % 2 ^ 128) ∧
    (fld a 63 60 ≠ 8 → Gives (.vrand u c d ga gb) s (s.m.fault u c 0x05))

/-- R119, R121, R135. Why a vector instruction in an allowed format does not run at once: no valid save slot, fault 0x04; a
powered-down unit, the context waits for the wake; another owner, the context waits for the move of the vector state.
R119, R135. VPDN powers the vector unit down when no reduction is in flight, and the idle timer when no move is under way either; a VPDN beside one in flight
waits for it; the wake ends with the unit awake, one more wake counted and its waiting contexts READY; the move of vector
state makes the waiting context the owner and READY.
Where the spec leaves a point open, the model's choice or reading stands: log entries 12, 30 and 95. -/
def Obligations.VectorIssueAndPower : Prop :=
  (∀ (s : State) (u : UnitId) (c : CtxId) (sat : Bool) (vd va vb : RegNo) (pm : BitVec 3) (fmt : BitVec 4),
     ready s.m u c = true →
     let x := s.m.unit u
     (fmtArith u fmt.toNat = true →
       Gives (.vadd u c sat vd va vb pm fmt) s
         (if (s.m.vsave u c).isNone then s.m.fault u c 0x04
          else if x.vDown then (s.m.setUnit u { x with vWake := some (x.vWake.getD c.val) }).sleep u c .vecWake
          else if x.vMove.isSome then (s.m.setUnit u { x with vLast := s.m.ticks }).sleep u c .vecMove
          else if x.vOwner ≠ some c.val then (s.m.setUnit u { x with vMove := some c.val, vLast := s.m.ticks }).sleep u c .vecMove
          else (vecAt s.m u 1).laneWise u c fnAdd sat vd va vb pm fmt.toNat)) ∧
     (fmtArith u fmt.toNat = false → fmt.toNat < 13 → Gives (.vadd u c sat vd va vb pm fmt) s (s.m.fault u c 0x01)) ∧
     (13 ≤ fmt.toNat → (s.m.vsave u c).isSome = true →
       Gives (.vadd u c sat vd va vb pm fmt) s ((s.m.raise (unitPage u) 20).advance u c))) ∧
  (∀ (s : State) (u : UnitId) (c : CtxId) (gd ga gb : RegNo),
     let x := s.m.unit u
     (ready s.m u c = true → x.vDown = false → x.inFlight = [] →
       Gives (.vpdn u c gd ga gb) s ((s.m.setUnit u { x with vDown := true }).advance u c)) ∧
     (ready s.m u c = true → x.vDown = false → x.inFlight ≠ [] →
       Gives (.vpdn u c gd ga gb) s ((s.m.setUnit u { x with vPend := true }).advance u c)) ∧
     (ready s.m u c = true → x.vDown = true → Gives (.vpdn u c gd ga gb) s (s.m.advance u c)) ∧
     (let n := s.m.act (unitPage u) Reg.CELL.VCTL_VIDLE
      n ≠ 0 → x.inFlight = [] → x.vMove = none → x.vDown = false → n * 2 ≤ 5 * (s.m.ticks - x.vLast) →
       Gives (.vectorIdlePowerDown u) s (s.m.setUnit u { x with vDown := true, vPend := false })) ∧
     (∀ d, x.vWake = some d → (s.m.ctx u c).state = .waiting → (s.m.ctx u c).wait = .vecWake →
       Ends (.vectorWakeDone u) s (fun t => (t.ctx u c).state = .ready ∧ (t.ctx u c).wait = .none ∧
         (t.ctx u c).pc = (s.m.ctx u c).pc ∧ (t.unit u).vDown = false ∧ (t.unit u).vWake = none ∧
         t.regs = ((s.m.bump (unitPage u) Reg.CELL.VEC_WAKES).spend (unitPage u) Reg.CELL.VEC_WAKE_CYC 200).regs ∧
         t.mem = s.m.mem ∧ t.core.vregs = s.m.core.vregs)) ∧
     (x.vMove = some c.val → (s.m.ctx u c).state = .waiting → (s.m.ctx u c).wait = .vecMove →
       Ends (.vstateMoveDone u) s (fun t => (t.unit u).vOwner = some c.val ∧ (t.unit u).vMove = none ∧
         (t.ctx u c).state = .ready ∧ (t.ctx u c).pc = (s.m.ctx u c).pc ∧ t.hdrs = s.m.hdrs)))

/-- R130. Vector loads and stores whose enabled lanes are all aligned and inside the pond. A load fills each enabled lane of vd
and of the registers after it, one register per field, with the element at B + i × S + f × e, and changes no byte of memory; a
store writes memory alone, each element at its address, contiguous or with a stride, of 4 bits or of bytes, when nothing guards the
pond and no stage map holds it, and no byte outside its elements; where elements overlap, the later one stays. Results of reductions
that the unit has not written yet are written before it. A lane that is misaligned or outside fails with 0x02.
Where the spec leaves a point open, the model's choice or reading stands: log entry 30. -/
def Obligations.VectorMemory : Prop :=
  ∀ (s : State) (u : UnitId) (c : CtxId) (vd ga gs : RegNo) (pm : BitVec 3) (fmt : BitVec 4), vecReady s.m u c = true →
    fmtMem u fmt.toNat = true →
    let w := fmtWidth fmt.toNat
    let v := fun (n : Nat) => s.m.vmem u c n vd ga gs fmt
    let lanes := s.m.memLanes u c (v 1) pm.toNat
    let m := fun (n : Nat) => (vecAt s.m u (s.m.memBusy u c (v n))).redSettle u
    let ok := fun (n : Nat) => ∀ i ∈ lanes, ∀ f, f < n →
      (w < 8 ∨ (v n).bit i f / 8 % (w / 8) = 0) ∧ ((v n).bit i f + w + 7) / 8 ≤ pondSize u
    let loads := fun (i : Instr) (n : Nat) =>
      (vd.toNat + n ≤ 32 → ok n →
        Ends i s (fun t => t = (m n).vecLoad u c (v n) pm.toNat ∧ t.mem = (m n).mem ∧ t.poison = (m n).poison ∧ t.hdrs = (m n).hdrs ∧
          t.core.preds = s.m.core.preds ∧ t.regs = (m n).regs ∧
          ∀ f, f < n → ∀ j, j < 2048 / w → laneOf (t.vreg u (vd.toNat + f)) w j =
            (if j ∈ lanes then elemRead (fun a => ((m n).ownView u c).rdByte (pondKey u a)) ((v n).bit j f) w % 2 ^ w
             else laneOf (s.m.vreg u (vd.toNat + f)) w j))) ∧
      (vd.toNat + n ≤ 32 → ¬ ok n → Gives i s (s.m.fault u c 0x02)) ∧
      (32 < vd.toNat + n → Gives i s (s.m.fault u c 0x01))
    let stores := fun (i : Instr) (n : Nat) =>
      (vd.toNat + n ≤ 32 → ok n → s.m.queue.combs = [] →
        Ends i s (fun t => t = (m n).vecStore u c (v n) pm.toNat ∧ t.core.vregs = s.m.core.vregs ∧
          t.core.vmarks = s.m.core.vmarks ∧ t.regs = (m n).regs ∧ t.hdrs = (m n).hdrs ∧
          (∀ k, (∀ i ∈ lanes, ∀ f, f < n → k < pondKey u ((v n).bit i f / 8) ∨ pondKey u (((v n).bit i f + w + 7) / 8) ≤ k) →
            t.rdByte k = (m n).rdByte k) ∧
          ((s.m.unit u).held = [] → (s.m.mxOf u).running = none → SMap.wf s.m.mem memDefault = true →
            ∀ i ∈ lanes, ∀ f, f < n →
              (∀ j ∈ lanes, ∀ g, g < n → (i < j ∨ i = j ∧ f < g) →
                (v n).bit i f + w ≤ (v n).bit j g ∨ (v n).bit j g + w ≤ (v n).bit i f) →
              elemRead (fun a => t.rdByte (pondKey u a)) ((v n).bit i f) w = laneOf (s.m.vreg u (vd.toNat + f)) w i))) ∧
      (vd.toNat + n ≤ 32 → ¬ ok n → Gives i s (s.m.fault u c 0x02)) ∧
      (32 < vd.toNat + n → Gives i s (s.m.fault u c 0x01))
    loads (.vld u c vd ga gs pm fmt) 1 ∧ loads (.vld2 u c vd ga gs pm fmt) 2 ∧ loads (.vld3 u c vd ga gs pm fmt) 3 ∧
    loads (.vld4 u c vd ga gs pm fmt) 4 ∧ stores (.vst u c vd ga gs pm fmt) 1 ∧ stores (.vst2 u c vd ga gs pm fmt) 2 ∧
    stores (.vst3 u c vd ga gs pm fmt) 3 ∧ stores (.vst4 u c vd ga gs pm fmt) 4

/-- R132, R133, R492. VREDSUM and VTOPK: a descriptor that is misaligned, outside the pond or poisoned faults; one that breaks a
rule of R81 gives its code to gd at once; an accepted one reads its source at its issue and its context waits. At its completion the
result is written at DST, the flags are set, gd receives 0 and the context is READY beyond the instruction, whatever other reductions
are in progress; the last one to complete lets a waiting power-down act. A context that was HALTED in the wait takes its result when
it executes the instruction again, and one that a RESET or a PC write has taken away gets none.
Where the spec leaves a point open, the model's choice or reading stands: log entries 12, 29, 30 and 95. -/
def Obligations.VectorReductions : Prop :=
  (∀ (s : State) (u : UnitId) (c : CtxId) (gd ga : RegNo), vecReady s.m u c = true → (s.m.unit u).held = [] →
    let x := s.m.unit u
    let a := (s.m.g u c ga).toNat
    let w := wordsOf 4 (s.m.rdBytes 32 (pondKey u a))
    let m := vecAt s.m u 0
    let rules := fun (i : Instr) (topk : Bool) =>
      (x.reduce.all (fun r => !(decide (r.ctx = c.val) && r.linked)) = true →
        (a % 32 ≠ 0 ∨ pondSize u < a + 32 → s.m.rowHeld (pondKey u a) 32 = false → Gives i s (s.m.fault u c 0x02)) ∧
        (a % 32 = 0 → a + 32 ≤ pondSize u → s.m.anyMarked (pondKey u a) 32 = true → Gives i s (s.m.fault u c 0x03)) ∧
        (a % 32 = 0 → a + 32 ≤ pondSize u → s.m.anyMarked (pondKey u a) 32 = false → fmtData u (wfld w 0 25 22) = true →
          (reduceCode u topk w ≠ 0 →
            Gives i s ((m.setG u c gd (BitVec.ofNat 64 (reduceCode u topk w))).advance u c)) ∧
          (reduceCode u topk w = 0 →
            let r := redDesc topk w
            let m0 := m.redSettle u
            let t := m0.stir.spend (unitPage u) Reg.CELL.VEC_BUSY_CYC (ceilDiv (r.n * fmtWidth r.fmt) 1024 + 64)
            Gives i s ((t.setUnit u { t.unit u with
              reduce := (t.unit u).reduce ++ [⟨c.val, gd.toNat, true, false, some (m0.reduceOut u c r)⟩] }).sleep u c .reduce)))) ∧
      (∀ r, x.reduce.find? (fun r => decide (r.ctx = c.val) && r.linked) = some r →
        (r.done = true →
          Gives i s ((s.m.setUnit u { x with reduce := x.reduce.erase r }).writeBack u c (BitVec.ofNat 5 r.gd) 0)) ∧
        (r.done = false → Gives i s (s.m.sleep u c .reduce)))
    rules (.vredsum u c gd ga 0) false ∧ rules (.vtopk u c gd ga 0) true) ∧
  (∀ (s : State) (u : UnitId) (d : CtxId) (r : VReduce) (before after : List VReduce),
    let x := s.m.unit u
    let m := match r.out with
      | some o => (s.m.store u d o.dst o.data o.bad).addFlags u d o.flags
      | none => s.m
    let waits := (s.m.ctx u d).state = .waiting ∧ (s.m.ctx u d).wait = .reduce
    let then' := fun (l : List VReduce) =>
      let idle := (l.filter (fun e => !e.done)).isEmpty
      m.setUnit u { m.unit u with reduce := l, vLast := s.m.ticks, vDown := x.vDown || (x.vPend && idle), vPend := x.vPend && !idle }
    x.reduce = before ++ r :: after → r.ctx = d.val → r.done = false → (∀ e ∈ before, e.ctx = d.val → e.done = true) →
    (r.linked = true → waits →
      Gives (.vreduceDone u d) s (((then' (before ++ after)).writeBack u d (BitVec.ofNat 5 r.gd) 0).wake u d)) ∧
    (r.linked = true → ¬ waits → Gives (.vreduceDone u d) s (then' (before ++ { r with out := none, done := true } :: after))) ∧
    (r.linked = false → Gives (.vreduceDone u d) s (then' (before ++ after))))

/-! ## Matrix arrays and solve sequencers (R72, R73, R80 to R82, R93, R147, R148, R156, R165, R167, R192) -/

/-- R73, R81, R264. MX.RUN of a cell that holds back no store, MX.WAIT and MX.POLL. A descriptor that cannot be read faults; a full queue
of 8 is waited for; an accepted descriptor stands last in the queue and is counted outstanding; one that a check of R81 refuses
leaves the code in the refusal register. MX.WAIT waits while one is outstanding, then gives its result word, and MX.POLL gives
the number outstanding. In a solver cell each is illegal.
R80 to R82, R73, R74. Dispatch: the instruction at the head enters idle arrays when its records are accepted and, as a
continuation, its tile matches; the records are those that stand in the pond at that moment. Completion: the arrays are free, the context has one instruction fewer outstanding and learns
its TAG; a final drain that no check fails writes its outputs to the pond and leaves no tile of the context, and an instruction
that does not drain leaves its tile.
Where the spec leaves a point open, the model's choice or reading stands: log entries 10, 31, 32 and 97. -/
def Obligations.MatrixUnit : Prop :=
  (∀ (s : State) (u : UnitId) (c : CtxId) (gd ga : RegNo) (imm : BitVec 13), ready s.m u c = true →
     (s.m.unit u).held = [] →
     let p := unitPage u
     let a := (s.m.g u c ga + BitVec.ofNat 64 (64 * imm.toNat)).toNat
     let w := wordsOf 8 (s.m.rdBytes 64 (pondKey u a))
     let x := s.m.mxOf u
     let i := (s.m.ctx u c).mx
     let slot := s.m.mxSlot u c
     let code := mxCode w (s.m.mxHolding u c) (s.m.mxScales w).1 (s.m.mxScales w).2 slot.2
     let legal := !(fmtReserved (mxAFmt w) || fmtReserved (mxBFmt w) || fmtReserved (mxOFmt w)) && s.m.mxScalesOk w
     (180 ≤ u.val → Gives (.mxRun u c gd ga imm) s (s.m.fault u c 0x01) ∧
       Gives (.mxWait u c gd ga imm) s (s.m.fault u c 0x01) ∧ Gives (.mxPoll u c gd ga imm) s (s.m.fault u c 0x01)) ∧
     (u.val < 180 →
       (a % 64 ≠ 0 ∨ pondSize u < a + 64 → Gives (.mxRun u c gd ga imm) s (s.m.fault u c 0x02)) ∧
       (a % 64 = 0 → a + 64 ≤ pondSize u →
         (s.m.anyMarked (pondKey u a) 64 = true → Gives (.mxRun u c gd ga imm) s (s.m.fault u c 0x03)) ∧
         (s.m.anyMarked (pondKey u a) 64 = false →
           (8 ≤ x.queue.length → Gives (.mxRun u c gd ga imm) s (s.m.sleep u c .mxQueue)) ∧
           (x.queue.length < 8 → legal = true → code = 0 →
             Gives (.mxRun u c gd ga imm) s
               (((s.m.setMx u { x with queue := x.queue ++
                   [{ ctx := c, words := w, slot := s.m.act p Reg.CELL.ACCSAVE_ADDR c, seed := s.m.seed, step := s.m.srStep u,
                      tol := s.m.act p Reg.CELL.MXCTL_CHKTOL, retry := decide (s.m.act p Reg.CELL.MXCTL_CHKRETRY = 1),
                      first := x.queue.isEmpty && x.running.isNone }] }).setCtx u c
                 { s.m.ctx u c with mx := { i with out := i.out + 1 } }).advance u c)) ∧
           (x.queue.length < 8 → legal = true → code ≠ 0 →
             Ends (.mxRun u c gd ga imm) s (fun t => t.live p Reg.CELL.MX_LAST_REFUSE_CODE = code ∧
               bit (t.hdr p).event 17 = true ∧ (t.ctx u c).mx.refused = true ∧ t.mx = s.m.mx ∧ t.mem = s.m.mem)))) ∧
       (i.out ≠ 0 → Gives (.mxWait u c gd ga imm) s (s.m.sleep u c .mxWait)) ∧
       (i.out = 0 → Gives (.mxWait u c gd ga imm) s
         (((s.m.setCtx u c { s.m.ctx u c with mx := { i with refused := false, poisoned := false } }).setG u c gd
           (BitVec.ofNat 64 (i.tag % 2 ^ 16 + 2 ^ 16 * b2n i.refused + 2 ^ 17 * b2n i.poisoned))).advance u c)) ∧
       Gives (.mxPoll u c gd ga imm) s ((s.m.setG u c gd (BitVec.ofNat 64 i.out)).advance u c))) ∧
  (∀ (s : State) (u : UnitId) (it : MxItem) (rest : List MxItem) (up : ArrayUpsets), s.m.canonical = true →
     let x := s.m.mxOf u
     let w := it.words
     (x.running = none → x.queue = it :: rest → s.m.unitRuns u = true → s.m.mxRecords u w = 0 → s.m.mxStartHeld u w = false →
       (mxAccIn w = true → ∃ t, x.tile it.ctx = some t ∧
         mxMatches w ⟨t.words, t.sA, t.sB⟩ (s.m.mxScales w).1 (s.m.mxScales w).2 = true) →
       Ends (.mxDispatch u) s (fun t => (t.mxOf u).queue = rest ∧ ∃ r, (t.mxOf u).running = some r ∧ r.item = it ∧
         (r.sA, r.sB) = s.m.mxScales w ∧ r.sOut = (s.m.slot (mxSOut w)).scale ∧ r.recs = s.m.mxRecs u w)) ∧
     (∀ run, x.running = some run → run.item = it → x.queue = rest → it.ctx < 16 → s.m.mxRowHeld u w = false →
       (s.m.hdr (unitPage u)).inject &&& 0x30000000 = 0 →
       Ends (.mxComplete u up) s (fun t => (t.mxOf u).running = none ∧ (t.mxOf u).queue = rest ∧
         (t.ctx u it.ctx).mx.out = (s.m.ctx u it.ctx).mx.out - 1 ∧ (t.ctx u it.ctx).mx.tag = mxTag w ∧
         (mxDrain w = true → (t.mxOf u).tiles = SMap.set x.tiles (fun _ => none) it.ctx none) ∧
         (mxDrain w = false → (t.mxOf u).resident = some it.ctx ∧ ((s.m.unit u).held = [] → t.mem = s.m.mem)) ∧
         (let t0 := match mxAccIn w, x.tile it.ctx with
            | true, some t => t
            | _, _ => mxFresh w run.sA run.sB it.tol
          let res := mxExec w (fun r k => s.m.mxA u w run.denorm r k) (fun k n => s.m.mxB u w run.recs run.denorm k n) run.denorm it.tol
            up.first t0
          (mxDrain w = true → mxMode w ≠ 0 ∨ bit (s.m.hdr (unitPage u)).inject 16 = false → (s.m.unit u).held = [] → res.mism = [] →
            t.mem = (s.m.pondElems u ((s.m.mxOutputs u run res []).map (·.elem))).mem) ∧
          (mxDrain w = false → (t.mxOf u).tile it.ctx = some res.tile)))))

/-- R93. MX.WAIT of a tensor cell: it waits while an instruction of the context is outstanding; else gd gets the TAG of the one that
completed last, in bit 16 whether one was refused since the last MX.WAIT, in bit 17 whether one wrote a poisoned output since then,
and 0 elsewhere. -/
def Obligations.MatrixWaitResult : Prop :=
  ∀ (s : State) (u : UnitId) (c : CtxId) (gd ga : RegNo) (imm : BitVec 13), ready s.m u c = true → u.val < 180 →
    let i := (s.m.ctx u c).mx
    Gives (.mxWait u c gd ga imm) s
      (if i.out ≠ 0 then s.m.sleep u c .mxWait
       else
        let m1 := s.m.setCtx u c { s.m.ctx u c with mx := { i with refused := false, poisoned := false } }
        (m1.setG u c gd (BitVec.ofNat 64 (i.tag % 2 ^ 16 + 2 ^ 16 * b2n i.refused + 2 ^ 17 * b2n i.poisoned))).advance u c)

/-- R147, R148. SV.RUN of a solver cell that holds back no store, SV.WAIT and SV.POLL. A forward, a
backward or a release descriptor that no check refuses stands last in the queue, with what it keeps from its entry, and is
counted outstanding; one that a check refuses leaves its code and TAG in the refusal registers, with event 16; SV.WAIT waits while one is, then gives its result word; SV.POLL gives their number. In a tensor cell each
is illegal.
R148, R164, R167. The head of the queue of an idle sequencer is taken: a forward solve whose reserve holds begins with a
problem for each that its descriptor names, one whose reserve does not hold ends at once with LATE_START (status 2); a backward
of the factorisation that its slot holds begins, and a release empties the slot and completes. A queued
forward solve, wherever it stands, that is the first that can no longer pass the start test leaves the queue: it is counted as expired,
as a solve, and as one that its deadline ended, with event 22.
R155, R156, R165, R192. A forward solve in the sequencer: the initial residuals open it to iterations; an iteration changes
no problem that has stopped, takes the step where that is finite, and counts at most one more for the others; when every problem has stopped the sequencer is free,
one more solve is counted and DEADLINE_AT is 0. A backward whose factor slot is held frees the sequencer and counts.
Where the spec leaves a point open, the model's choice or reading stands: log entries 10, 22, 23 and 24. -/
def Obligations.SolverUnit : Prop :=
  (∀ (s : State) (u : UnitId) (c : CtxId) (gd ga : RegNo) (imm : BitVec 13), ready s.m u c = true →
     (s.m.unit u).held = [] →
     let n := u.val - 180
     let a := (s.m.g u c ga + BitVec.ofNat 64 (64 * imm.toNat)).toNat
     let w := wordsOf 16 (s.m.rdBytes 128 (pondKey u a))
     let x := s.m.svOf n
     let i := (s.m.ctx u c).sv
     let accepted := ((s.m.setSv n { x with queue := x.queue ++ [s.m.svItem n c none w] }).setCtx u c
       { s.m.ctx u c with sv := { i with out := i.out + 1 } }).advance u c
     (u.val < 180 → Gives (.svRun u c gd ga imm) s (s.m.fault u c 0x01) ∧
       Gives (.svWait u c gd ga imm) s (s.m.fault u c 0x01) ∧ Gives (.svPoll u c gd ga imm) s (s.m.fault u c 0x01)) ∧
     (180 ≤ u.val →
       (a % 64 ≠ 0 ∨ pondSize u < a + 128 → Gives (.svRun u c gd ga imm) s (s.m.fault u c 0x02)) ∧
       (a % 64 = 0 → a + 128 ≤ pondSize u → s.m.anyMarked (pondKey u a) 128 = false →
         (16 ≤ x.queue.length → Gives (.svRun u c gd ga imm) s (s.m.sleep u c .svQueue)) ∧
         (x.queue.length < 16 → svKind w = 0 → s.m.svEarly w = none → s.m.svCode n w = 0 →
           Gives (.svRun u c gd ga imm) s accepted) ∧
         (x.queue.length < 16 → svKind w = 1 ∨ svKind w = 2 → s.m.bwEarly w (s.m.bwHeld n w) = none →
             s.m.bwCode n w (s.m.bwHeld n w) = 0 → Gives (.svRun u c gd ga imm) s accepted) ∧
         (∀ code : Nat, x.queue.length < 16 →
           (svKind w = 0 ∧ s.m.svEarly w = none ∧ code = s.m.svCode n w) ∨
             ((svKind w = 1 ∨ svKind w = 2) ∧ s.m.bwEarly w (s.m.bwHeld n w) = none ∧ code = s.m.bwCode n w (s.m.bwHeld n w)) ∨
             (svKind w = 3 ∧ code = if s.m.timeValid then 8 else 7) → code ≠ 0 →
           Ends (.svRun u c gd ga imm) s (fun t => t.live (solvPage n) Reg.SOLV.SV_LAST_REFUSE_CODE = code ∧
             t.live (solvPage n) Reg.SOLV.SV_LAST_REFUSE_TAG = svTag w ∧
             bit (t.hdr (solvPage n)).event 16 = true ∧ (t.ctx u c).sv.refused = true ∧ t.sv = s.m.sv ∧ t.mem = s.m.mem))) ∧
       (i.out ≠ 0 → Gives (.svWait u c gd ga imm) s (s.m.sleep u c .svWait)) ∧
       (i.out = 0 →
         let m1 := s.m.setCtx u c { s.m.ctx u c with sv := { i with refused := false, poisoned := false } }
         Gives (.svWait u c gd ga imm) s
           ((m1.setG u c gd (BitVec.ofNat 64 (i.tag % 2 ^ 16 + 2 ^ 16 * b2n i.refused + 2 ^ 17 * b2n i.poisoned) |||
             BitVec.ofNat 64 (i.code % 16 * 2 ^ 20))).advance u c)) ∧
       Gives (.svPoll u c gd ga imm) s ((s.m.setG u c gd (BitVec.ofNat 64 i.out)).advance u c))) ∧
  (∀ (s : State) (n : SolvId) (it : SvItem) (rest : List SvItem), s.m.canonical = true →
     let x := s.m.svOf n
     let w := it.words
     s.m.svRowHeld n w = false →
     (x.running = none → x.queue = it :: rest → s.m.unitRuns (180 + n.val) = true → svKind w = 0 →
       Ends (.solverDispatch n) s (fun t => (t.svOf n).queue = rest ∧ ∃ r, (t.svOf n).running = some r ∧ r.item = it ∧
         r.tStart = s.m.time.ns.toNat ∧ r.probs.length = (svDims w).count ∧
         (s.m.startHolds n w = true → r.begun = false) ∧
         (s.m.startHolds n w = false → r.begun = true ∧ ∀ p ∈ r.probs, p.status = some 2 ∧ p.flags = flLate))) ∧
     (∀ f, x.running = none → x.queue = it :: rest → s.m.unitRuns (180 + n.val) = true → s.m.svSlot n (bwSlot w) = some f →
       (svKind w = 1 → bwFTag w = f.tag → s.m.recMatches (180 + n.val) (bwRes w) f = true →
         (s.m.hdr (solvPage n)).inject &&& 0x30000000 = 0 →
         Ends (.solverDispatch n) s (fun t => (t.svOf n).queue = rest ∧ t.regs = s.m.regs ∧ ∃ r, (t.svOf n).running = some r ∧
           r.item = it ∧ r.bwd.length = (dimsOf f.form f.w1 f.w2).count)) ∧
       (svKind w = 2 → it.ring = none → it.ctx < 16 →
         Ends (.solverDispatch n) s (fun t => (t.svOf n).queue = rest ∧ (t.svOf n).running = none ∧
           (t.svOf n).slots = SMap.set x.slots (fun _ => none) (bwSlot w) none ∧
           counted s.m t (solvPage n) Reg.SOLV.RELEASES 1 ∧
           (t.ctx (180 + n.val) it.ctx).sv.out = (s.m.ctx (180 + n.val) it.ctx).sv.out - 1))) ∧
     (∀ before : List SvItem, s.m.computeUp = true → x.queue = before ++ it :: rest →
       (∀ e ∈ before, svKind e.words = 0 → s.m.startHolds n e.words = true) →
       svKind w = 0 → s.m.startHolds n w = false → it.ring = none → it.ctx < 16 →
       Ends (.descriptorExpire n) s (fun t => (t.svOf n).queue = before ++ rest ∧ counted s.m t (solvPage n) Reg.SOLV.N_EXPIRED 1 ∧
         counted s.m t (solvPage n) Reg.SOLV.SOLVES 1 ∧ counted s.m t (solvPage n) Reg.SOLV.N_DEADLINE_WARM 1 ∧ (t.svOf n).running = x.running ∧
         bit (t.hdr (solvPage n)).event 22 = true ∧ (t.ctx (180 + n.val) it.ctx).sv.code = 2 ∧
         (t.ctx (180 + n.val) it.ctx).sv.out = (s.m.ctx (180 + n.val) it.ctx).sv.out - 1))) ∧
  (∀ (s : State) (n : SolvId) (run : SvRun), s.m.canonical = true → (s.m.svOf n).running = some run → s.m.computeUp = true →
     s.m.queue.combs = [] → s.m.svRowHeld n run.item.words = false →
     let fwd := svKind run.item.words = 0
     (fwd → run.begun = false →
       Ends (.initialResidualsDone n) s (fun t => ∃ ps : List SvProb, (t.svOf n).running = some { run with begun := true, probs := ps } ∧
         ps.length = run.probs.length ∧ (t.svOf n).queue = (s.m.svOf n).queue ∧ t.hdrs = s.m.hdrs ∧
         (∀ (i : Nat) (p q : SvProb), run.probs[i]? = some p → ps[i]? = some q → (p.status.isSome = true → q = p) ∧
           (p.status = none → q.cur = p.cur ∧ q.curRes = residuals p.qp p.cur)))) ∧
     (fwd → run.begun = true → run.probs.all (fun p => p.status.isSome) = false →
       Ends (.solveIterationEnd n) s (fun t => ∃ ps : List SvProb, (t.svOf n).running = some { run with probs := ps, inject := false } ∧
         ps.length = run.probs.length ∧ (t.svOf n).queue = (s.m.svOf n).queue ∧
         (∀ (i : Nat) (p q : SvProb), run.probs[i]? = some p → ps[i]? = some q → (p.status.isSome = true → q = p) ∧ q.iters ≤ p.iters + 1 ∧
           (p.status = none → run.inject = false →
             let st := stepDir p.qp { tol := run.item.pivtol, reg := run.item.regdelta, boost := false } p.cur
             st.1.finite = true → f64Finite st.2.1 = true →
               q.cur = stepIter p.qp p.cur st.1 st.2.1 ∧ q.curRes = residuals p.qp q.cur ∧ q.iters = p.iters + 1)))) ∧
     (fwd → run.probs.all (fun p => p.status.isSome) = true →
       Ends (.solveComplete n) s (fun t => (t.svOf n).running = none ∧ (t.svOf n).queue = (s.m.svOf n).queue ∧
         t.live (solvPage n) Reg.SOLV.DEADLINE_AT = 0 ∧ counted s.m t (solvPage n) Reg.SOLV.SOLVES 1)) ∧
     (svKind run.item.words = 1 → (s.m.svSlot n (bwSlot run.item.words)).isSome = true →
       Ends (.backwardComplete n) s (fun t => (t.svOf n).running = none ∧ (t.svOf n).queue = (s.m.svOf n).queue ∧
         counted s.m t (solvPage n) Reg.SOLV.BWD_DONE 1 ∧
         (bwRelease run.item.words = true →
           (t.svOf n).slots = SMap.set (s.m.svOf n).slots (fun _ => none) (bwSlot run.item.words) none))))

/-! ## DMA engines and pool slices (R251 to R265) -/

/-- R251, R257, R258. DM.RUN of a unit that holds back no store gives 1 to gd and does nothing else when the engine holds 32
descriptors, and 0 when it accepts or refuses; a refusal is counted, with its code and TAG and event 27; DM.POLL gives the
context's outstanding descriptors, and WAIT.DMA waits for those of a TAG, then gives the last outcome of that TAG or 0xFF.
R249, R258. The descriptor at a position starts when no earlier one of the engine conflicts with it and nothing holds its
locations, and one whose range is no longer inside the scratch is refused with code 0x07, counted with its TAG; an access that has waited longer than the limit is counted once, and
raises event 25 unless the limit is 0; a started COPY, and an operation that its slice has performed, leave the engine at
their completion. A plain COPY between ponds has then carried its bytes.
Where the spec leaves a point open, the model's choice or reading stands: log entries 10, 33 and 34. -/
def Obligations.DmaEngine : Prop :=
  (∀ (s : State) (u : UnitId) (c : CtxId) (gd ga gb : RegNo) (imm : BitVec 13), ready s.m u c = true → (s.m.unit u).held = [] →
     let a := (s.m.g u c ga + BitVec.ofNat 64 (64 * imm.toNat)).toNat
     let w := wordsOf 8 (s.m.rdBytes 64 (pondKey u a))
     let q := s.m.dmaQueue u
     let tag := (s.m.g u c ga).toNat
     (a % 64 = 0 → a + 64 ≤ pondSize u → s.m.anyMarked (pondKey u a) 64 = false →
       (32 ≤ q.length → Gives (.dmRun u c gd ga imm) s ((s.m.setG u c gd 1).advance u c)) ∧
       (q.length < 32 → s.m.dmCode u w (s.m.dmaOut u c (dmTag w)) = 0 → s.m.dmScalesOk w = true →
         Ends (.dmRun u c gd ga imm) s (fun t => ∃ it : DmaItem, it.id = s.m.dma.nextId ∧ it.ctx = c.val ∧ it.words = w ∧
           it.started = false ∧ it.performed = false ∧ t.dma.nextId = s.m.dma.nextId + 1 ∧
           t.dma.queues = (s.m.setDmaQueue u (q ++ [it])).dma.queues ∧ t.g u c gd = 0 ∧ t.mem = s.m.mem)) ∧
       (q.length < 32 → s.m.dmCode u w (s.m.dmaOut u c (dmTag w)) ≠ 0 →
         Ends (.dmRun u c gd ga imm) s (fun t =>
           t.live (unitPage u) Reg.CELL.DMA_LAST_REFUSE_CODE = s.m.dmCode u w (s.m.dmaOut u c (dmTag w)) ∧
           t.live (unitPage u) Reg.CELL.DMA_LAST_REFUSE_TAG = dmTag w ∧ counted s.m t (unitPage u) Reg.CELL.DMA_REFUSED_CNT 1 ∧
           bit (t.hdr (unitPage u)).event 27 = true ∧ t.g u c gd = 0 ∧ t.dma = s.m.dma ∧ t.mem = s.m.mem))) ∧
     Gives (.dmPoll u c gd ga imm) s
       ((s.m.setG u c gd (BitVec.ofNat 64 (q.filter (fun i => decide (i.ctx = c.val))).length)).advance u c) ∧
     (q.any (fun i => decide (i.ctx = c.val ∧ dmTag i.words = tag)) = true →
       Gives (.waitDma u c gd ga gb) s (s.m.sleep u c (.dma tag))) ∧
     (q.any (fun i => decide (i.ctx = c.val ∧ dmTag i.words = tag)) = false →
       Gives (.waitDma u c gd ga gb) s
         ((s.m.setG u c gd
           (match (s.m.ctx u c).dma.find? (fun d => decide (d.tag = tag)) with
            | none => 0xFF
            | some d => BitVec.ofNat 64 (d.code % 256 + 256 * b2n d.collide + 512 * b2n d.poison))).advance u c))) ∧
  (∀ (s : State) (u : UnitId) (pos : Nat) (collide : List Nat) (it : DmaItem), s.m.canonical = true →
     (s.m.dmaQueue u)[pos]? = some it →
     let gone := fun (t : Mach) => t.dmaQueue u = (s.m.dmaQueue u).filter (fun i => decide (i.id ≠ it.id)) ∧
       (∀ v : UnitId, v ≠ u → t.dmaQueue v = s.m.dmaQueue v) ∧ t.time = s.m.time
     (s.m.unitRuns u = true → it.started = false →
       ((s.m.dmaQueue u).take pos).any (fun e => s.m.dmBlocks u e.words it.words) = false →
       (s.m.dmLocs u it.words).any (fun l => s.m.locDue l.1 l.2) = false →
       (s.m.dmInside u it.words = true →
         Gives (.dmaStart u pos) s (s.m.setDmaItem u { it with started := true, startedAt := s.m.ticks })) ∧
       (s.m.dmInside u it.words = false → Ends (.dmaStart u pos) s (fun t => gone t ∧ t.mem = s.m.mem ∧
         t.live (unitPage u) Reg.CELL.DMA_LAST_REFUSE_CODE = 7 ∧ t.live (unitPage u) Reg.CELL.DMA_LAST_REFUSE_TAG = dmTag it.words ∧
         counted s.m t (unitPage u) Reg.CELL.DMA_REFUSED_CNT 1 ∧ bit (t.hdr (unitPage u)).event 27 = true))) ∧
     (let counts := (s.m.setDmaItem u { it with starved := true }).bump (unitPage u) Reg.CELL.DMA_STARVE_CNT
      it.started = true → it.starved = false → s.m.dmPond u it.words = true →
       2 * it.starveThr < 5 * (s.m.ticks - it.startedAt) →
       (it.starveThr ≠ 0 → Gives (.dmaStarve u pos) s (counts.raise (unitPage u) 25)) ∧
       (it.starveThr = 0 → Gives (.dmaStarve u pos) s counts)) ∧
     (∀ src dst, it.started = true → it.buffered = false → s.m.dmReady u it.words = true → dmPool it.words = false →
       dmAtomic it.words = false → it.code = 0 →
       s.m.spaceLoc u (wordAt it.words 1) = some src → s.m.spaceLoc u (wordAt it.words 2) = some dst →
       Ends (.dmaComplete u pos collide) s (fun t => gone t ∧
         (∀ a v o, dmSFmt it.words = dmDFmt it.words → dmScaled it.words = false → dmSBits it.words % 8 = 0 → collide = [] →
           s.m.queue.combs = [] → src = .pond a (src.addr) → dst = .pond v o →
           (s.m.hdr (unitPage a)).inject &&& 0x30000000 = 0 →
           (t.locPeek dst (dmDBytes it.words)).map (·.1) = (s.m.locPeek src (dmDBytes it.words)).map (·.1)))) ∧
     (it.started = true → it.buffered = false → it.performed = true → it.code = 0 → dmPool it.words = true →
       (dmAtomic it.words = false → Ends (.dmaComplete u pos collide) s (fun t => gone t ∧ t.mem = s.m.mem)) ∧
       (∀ ret, dmAtomic it.words = true → s.m.spaceLoc u (wordAt it.words 7) = some ret →
         s.m.dstFree (ret, dmDBytes it.words) = true → Ends (.dmaComplete u pos collide) s gone)))

/-- R259, R261 to R263. At a slice: an unordered operation is performed when it arrives; an ORDERED one whose ticket has come is
performed and the next ticket is its successor, one that is early waits in the order buffer of 64, one that is late is refused
with code 0x09 and event 16. Successors whose tickets have come leave the buffer and are performed after it. A write of the next
ticket empties the group's buffer: each descriptor in it leaves its engine, refused with code 0x0A. A new scratch size applies when
nothing of the slice is in progress.
R265. A fence goes on when everything that it covers has been performed, and else leaves its context where it is: the held
stores of the context; its descriptors with a location inside the scope; for FENCE.G its collectives as well.
Where the spec leaves a point open, the model's choice or reading stands: log entries 19, 20, 33 and 67. -/
def Obligations.PoolAndFences : Prop :=
  (∀ (s : State) (u : UnitId) (pos : Nat) (it : DmaItem) (sl : SliceId) (g : BitVec 6) (w : RegWrite) (dst : Loc),
     s.m.canonical = true →
     let g' := dmGroup it.words
     let k := locSlice dst
     let d := (dmTicket it.words + 2 ^ 32 - s.m.ordNext k g') % 2 ^ 32
     ((s.m.dmaQueue u)[pos]? = some it → it.started = true → it.performed = false → it.buffered = false → dmPool it.words = true →
       s.m.dmReady u it.words = true → s.m.spaceLoc u (wordAt it.words 2) = some dst →
       (dmOrd it.words = false → Gives (.poolAccess (.dma u pos)) s (s.m.poolApply u it)) ∧
       (dmOrd it.words = true → 2 ^ 31 ≤ d →
         Gives (.poolAccess (.dma u pos)) s
           ((s.m.raise (poolPage k) 16).setDmaItem u { it with performed := true, code := 0x09 })) ∧
       (dmOrd it.words = true → 0 < d → d < 2 ^ 31 → (s.m.orderBuf k).length < 64 →
         Gives (.poolAccess (.dma u pos)) s
           ((s.m.setOrderBuf k (s.m.orderBuf k ++ [⟨u, it.id, g', dmTicket it.words⟩])).setDmaItem u { it with buffered := true })) ∧
       (dmOrd it.words = true → d = 0 →
         let m1 := s.m.poolApply u it
         let m2 := m1.setOrdNext k g' ((m1.ordNext k g' + 1) % 2 ^ 32)
         (s.m.orderBuf k = [] → Gives (.poolAccess (.dma u pos)) s m2) ∧
         (∀ (e : OrdEnt) (it2 : DmaItem), k < 20 → s.m.orderBuf k = [e] → e.group = g' → e.ticket = (dmTicket it.words + 1) % 2 ^ 32 →
           (s.m.dmaQueue e.unit).find? (fun i => decide (i.id = e.id)) = some it2 → e.id ≠ it.id →
           m2.dmReady e.unit it2.words = true →
           Ends (.poolAccess (.dma u pos)) s (fun t => t.orderBuf k = [] ∧ t.ordNext k g' = (dmTicket it.words + 2) % 2 ^ 32 ∧
             (∃ i ∈ t.dmaQueue u, i.id = it.id ∧ i.performed = true) ∧
             (∃ i ∈ t.dmaQueue e.unit, i.id = e.id ∧ i.performed = true ∧ i.buffered = false))))) ∧
     (live s.m w (poolPage sl) (0xA00 + 8 * g.toNat) = true →
       let es := (s.m.orderBuf sl).filter (fun e => decide (e.group = g.toNat))
       Ends (.ordNextWrite sl g w) s (fun t =>
         t.live (poolPage sl) Reg.POOL.ORD_NEXT g.toNat =
           fld (w.merge (s.m.reg (poolPage sl) (Reg.POOL.ORD_NEXT.off + 8 * g.toNat))) 31 0 ∧ t.mem = s.m.mem ∧
         t.orderBuf sl = (s.m.orderBuf sl).filter (fun e => decide (e.group ≠ g.toNat)) ∧
         (es = [] → t.dma = s.m.dma) ∧
         (∀ (e : OrdEnt) (it2 : DmaItem), e ∈ es → e.unit < 204 →
           (s.m.dmaQueue e.unit).find? (fun i => decide (i.id = e.id)) = some it2 →
           (∀ i ∈ t.dmaQueue e.unit, i.id ≠ e.id) ∧ t.live (unitPage e.unit) Reg.CELL.DMA_LAST_REFUSE_CODE = 0x0A ∧
           bit (t.hdr (unitPage e.unit)).event 27 = true ∧
           (es = [e] → it2.ctx < 16 → counted s.m t (unitPage e.unit) Reg.CELL.DMA_REFUSED_CNT 1 ∧
             t.live (unitPage e.unit) Reg.CELL.DMA_LAST_REFUSE_TAG = dmTag it2.words ∧
             (t.ctx e.unit it2.ctx).dma.head? = some ⟨dmTag it2.words, 0x0A, false, false⟩)))) ∧
     (s.m.sliceDue sl = true → s.m.chan.held = [] → (s.m.hdr (poolPage sl)).pending = true → s.m.sliceBusy sl = false →
       Ends (.poolScratchApply sl) s (fun t => t.scratchBytes sl = s.m.live (poolPage sl) Reg.POOL.SCRATCH_MIB * 2 ^ 20 ∧
         (t.hdr (poolPage sl)).pending = false ∧ (t.hdr (poolPage sl)).configEpoch = (s.m.hdr (poolPage sl)).configEpoch + 1 ∧
         bit (t.hdr (poolPage sl)).event 1 = true ∧
         (∀ o, o < s.m.scratchBytes sl → o < t.scratchBytes sl →
           t.rdByte (scratchKey sl o) = s.m.rdByte (scratchKey sl o)) ∧
         (∀ o, s.m.scratchBytes sl ≤ o → o < t.scratchBytes sl → t.rdByte (scratchKey sl o) = 0)))) ∧
  (∀ (s : State) (u : UnitId) (c : CtxId) (gd ga gb : RegNo), ready s.m u c = true →
     let stores := (s.m.unit u).held.all (fun h => decide (h.ctx ≠ c.val))
     let moved := fun (k : Scope) => (s.m.dmaQueue u).all (fun i => decide (i.ctx ≠ c.val) || !s.m.fenceCovers u k i.words)
     let rule := fun (i : Instr) (ok : Bool) => (ok = true → Gives i s (s.m.advance u c)) ∧ (ok = false → Gives i s s.m)
     rule (.fenceL u c gd ga gb) (stores && moved .cell) ∧ rule (.fenceC u c gd ga gb) (stores && moved .comb) ∧
     rule (.fenceD u c gd ga gb) (stores && moved .die) ∧
     rule (.fenceG u c gd ga gb) (stores && moved .group && decide ((s.m.ctx u c).co.out = 0)))

/-! ## Memory controllers and the window of a host (R275 to R288, R418) -/

/-- R277 to R280, R283. A block read with no injection waiting, outside a span that is being copied: a sound block changes
nothing; one whose errors the code corrects is counted with event 16; one that is detected as uncorrectable is counted, located
and signalled with event 17, and poisons its stored words, or for a block that is stored sound what its reader gets. The last
block of the span that the copy of a retired channel reads moves the span into the reserves. The patrol reads the block at its
place, goes on to the next, and counts a pass at the end.
R275, R281, R283, R285, R418. With no access held: a retraining in place ends, counted, with event 20; the copy of a retired
channel ends with the channel copied, what was left of it in the reserves, and event 18; the region commit that was held takes
effect as a whole once nothing that it would change is under way. Crossing 85 °C shows on the stack's page, and on those of the basin
while some stack is above it, with event 21 of the stack; a row repair ends, and an uncorrectable word of the row stands poisoned
in its place.
Where the spec leaves a point open, the model's choice or reading stands: log entries 10, 45, 46 and 98. -/
def Obligations.MemoryControllers : Prop :=
  (∀ (s : State) (b : MemBlock) (e : EccReport), s.m.canonical = true → memBlockOk b = true → s.m.memoryUp = true →
     let p := targetPage b.target
     let fix := if b.target < 256 then 2 else 1
     let k := targetKey b.target (64 * b.block)
     bit (s.m.hdr p).inject 16 = false → bit (s.m.hdr p).inject 17 = false →
     (s.m.copyReads b = false →
       (e.symbols = 0 → Gives (.memoryBlockRead b e) s s.m) ∧
       (0 < e.symbols → e.symbols ≤ fix →
         Ends (.memoryBlockRead b e) s (fun t => counted s.m t p Reg.LAKE.CE_COUNT 1 ∧ bit (t.hdr p).event 16 = true ∧
           t.mem = s.m.mem ∧ t.poison = s.m.poison)) ∧
       (fix < e.symbols → e.symbols ≤ 2 * fix →
         Ends (.memoryBlockRead b e) s (fun t => counted s.m t p Reg.LAKE.UE_COUNT 1 ∧ bit (t.hdr p).event 17 = true ∧
           t.live p Reg.LAKE.LAST_UE_CHANNEL = targetIdx b.target ∧ t.live p Reg.LAKE.LAST_UE_BLOCK = b.block ∧
           t.fresh = s.m.fresh + 1 ∧ (e.stored = false → t.chan.delivered = marksAfter s.m.chan.delivered k 64 true) ∧
           (e.stored = true → t.poison = marksAfter s.m.poison k 64 true)))) ∧
     (s.m.copyReads b = true → b.block % 1024 = 1023 → e.symbols = 0 → s.m.chan.held = [] →
       Ends (.memoryBlockRead b e) s (fun t => (t.chanOf b.target).copied = (s.m.chanOf b.target).copied + 1 ∧
         ∀ o, 65536 * (s.m.chanOf b.target).copied ≤ o → o < 65536 * ((s.m.chanOf b.target).copied + 1) →
           t.rdByte (lakeKey (reservePlace b.target o).1 (reservePlace b.target o).2) = s.m.rdByte (lakeKey b.target o))) ∧
     (s.m.act p Reg.LAKE.LAKECTL_SCRUB = 1 → patrolPlace b = s.m.scrubPos p →
       let next := (patrolPlace b + 1) % (targetsOf b.target * blocksOf b.target)
       let m1 := s.m.bump p Reg.LAKE.READ_BYTES 64
       let m2 : Mach := { m1 with chan := { m1.chan with scrub := SMap.set m1.chan.scrub (fun _ => 0) p.num next } }
       (e.symbols = 0 → next ≠ 0 → Gives (.patrolScrub b e) s m2) ∧
       (e.symbols = 0 → next = 0 → Gives (.patrolScrub b e) s (m2.bump p Reg.LAKE.SCRUB_PASSES)) ∧
       (0 < e.symbols → e.symbols ≤ fix →
         Ends (.patrolScrub b e) s (fun t => counted s.m t p Reg.LAKE.CE_COUNT 1 ∧ bit (t.hdr p).event 16 = true ∧
           t.chan.scrub = SMap.set s.m.chan.scrub (fun _ => 0) p.num next ∧ t.mem = s.m.mem)))) ∧
  (∀ (s : State) (target : Nat) (stack : BitVec 3) (above : Bool) (key : BitVec 48), s.m.canonical = true →
     let p := targetPage target
     (target < 280 → (s.m.chanOf target).retrain = true → s.m.memoryUp = true → s.m.chan.held = [] →
       Ends (.laneRetrainDone target) s (fun t => counted s.m t p Reg.LAKE.RETRAINS 1 ∧ bit (t.hdr p).event 20 = true ∧
         t.chan.chans = (s.m.setChan target { s.m.chanOf target with retrain := false }).chan.chans ∧ t.mem = s.m.mem)) ∧
     (target < 256 → s.m.chState target = 1 → s.m.chan.held = [] →
       Ends (.channelCopyDone target) s (fun t => t.chState target = 2 ∧ bit (t.hdr p).event 18 = true ∧
         (∀ o, 65536 * (s.m.chanOf target).copied ≤ o → o < 0x8B800000 →
           t.rdByte (lakeKey (reservePlace target o).1 (reservePlace target o).2) = s.m.rdByte (lakeKey target o)) ∧
         (∀ a, (a < 2 ^ 48 ∨ 2 ^ 52 ≤ a) → t.rdByte a = s.m.rdByte a))) ∧
     (let m1 := (s.m.setLive ⟨.lake, stack.toNat⟩ Reg.LAKE.HOT (if above then 1 else 0)).raise ⟨.lake, stack.toNat⟩ 21
      let hot := (upTo 8).any (fun i => decide (m1.live ⟨.lake, i⟩ Reg.LAKE.HOT = 1))
      Gives (.refreshHot stack above) s
       ((upTo 6).foldl (fun m d => m.setLive ⟨.basin, d⟩ Reg.LAKE.HOT (if hot then 1 else 0)) m1)) ∧
     (s.m.ras.errors = [] → Ends (.rowRepairDone key) s (fun t =>
       t.ras.repairs = s.m.ras.repairs.filter (fun r => r ≠ key.toNat) ∧ t.regs = s.m.regs ∧ t.mem = s.m.mem ∧ t.poison = s.m.poison)) ∧
     (∀ (u : UnitId) (o : Nat), s.m.ras.errors = [⟨.pond u o, true⟩] → key.toNat ≤ pondKey u o → pondKey u o < key.toNat + 64 →
       Ends (.rowRepairDone key) s (fun t => key.toNat ∉ t.ras.repairs ∧ t.ras.errors = [] ∧
         t.marked (pondKey u o) = true ∧ bit (t.hdr (unitPage u)).event 29 = true ∧ t.mem = s.m.mem)) ∧
     (s.m.chan.remap = true → (s.m.hdr regionPage).pending = true → s.m.chan.held = [] → s.m.remapBusy = false →
       Ends .regionRemapApply s (fun t => t.chan.remap = false ∧ (t.hdr regionPage).pending = false ∧
         (t.hdr regionPage).configEpoch = (s.m.hdr regionPage).configEpoch + 1 ∧ bit (t.hdr regionPage).event 1 = true ∧
         (∀ off ∈ stagedOffs .region, t.reg regionPage (off + 0x400) = s.m.reg regionPage off) ∧ t.mem = s.m.mem)))

/-- R259, R287, R288. Requests of a host to its window in state Active: an atomic is unsupported; while the window is off a read is
unsupported and a write is dropped; else a read that nothing holds answers the bytes that stand there, poisoned when one of them is,
and a write stores its bytes, with the EP mark as poison, at the window's base; one that memory or an access before it holds waits behind those that wait. The same of
the accesses of a pool slice (R259).
Where the spec leaves a point open, the model's choice or reading stands: log entries 8, 77 and 98. -/
def Obligations.HostWindow : Prop :=
  ∀ (s : State) (h : HostId) (off len : Nat) (data : Bytes) (ep : Bool), s.m.runs = true →
    s.m.live pwrPage Reg.PWR.STATE = 1 →
    let a := s.m.live (hostPage h) Reg.HOST.BASE * 2 ^ 30 + off
    (off < 2 ^ 36 → Gives (.hostWindowAccess h (.atomic off)) s (s.m.send (.unsupported h))) ∧
    (s.m.windowOff = true →
      (off + len ≤ 2 ^ 36 → Gives (.hostWindowAccess h (.read off len)) s (s.m.send (.unsupported h))) ∧
      (off + data.length ≤ 2 ^ 36 → Gives (.hostWindowAccess h (.write off data ep)) s s.m)) ∧
    let free := fun (r : HeldReq) => s.m.memHeld r.range.1 r.range.2 = false ∧ s.m.chan.held.any (HeldReq.meets r) = false
    let waits := fun (i : Instr) (r : HeldReq) => ¬ free r →
      Gives i s { s.m with chan := { s.m.chan with held := s.m.chan.held ++ [r] } }
    (s.m.windowOff = false →
      (off + len ≤ 2 ^ 36 → waits (.hostWindowAccess h (.read off len)) (.read (some h) a len)) ∧
      (off + data.length ≤ 2 ^ 36 → waits (.hostWindowAccess h (.write off data ep)) (.write a data ep)) ∧
      (off + len ≤ 2 ^ 36 → free (.read (some h) a len) →
        Ends (.hostWindowAccess h (.read off len)) s (fun t =>
          let d := s.m.memPeek a len
          (∃ bad, t.outbox = s.m.outbox ++ [.hostRead h (d.map (·.1)) bad] ∧ (quiet s.m = true → bad = d.any (·.2))) ∧
          t.mem = s.m.mem ∧ t.poison = s.m.poison)) ∧
      (off + data.length ≤ 2 ^ 36 → free (.write a data ep) →
        Gives (.hostWindowAccess h (.write off data ep)) s (s.m.locWrite (.mem a) (data.map (fun b => (b, ep)))))) ∧
    (∀ (x : BitVec 48) (n : Nat),
      (free (.read none x.toNat n) → Ends (.poolAccess (.read x n)) s (fun t => t.mem = s.m.mem ∧ t.poison = s.m.poison ∧
        (quiet s.m = true → t = (s.m.touchLines x.toNat n false).forget (.mem x.toNat) n))) ∧
      (free (.write x.toNat data ep) →
        Gives (.poolAccess (.write x data ep)) s (s.m.locWrite (.mem x.toNat) (data.map (fun b => (b, ep))))) ∧
      waits (.poolAccess (.read x n)) (.read none x.toNat n) ∧ waits (.poolAccess (.write x data ep)) (.write x.toNat data ep))

/-! ## Stage queues and stage maps (R200, R205 to R209) -/

/-- R205, R206. The queue instructions with IMM = 0 on a queue that the context may operate: the slots and the level as the
counts give them; a push publishes the next slot or gives 1 when none is free; a pop releases the next slot or gives 1 when none
is filled; the waits give 0 at once when their condition holds, else the context waits. On a queue that it may not operate the
code of R206 takes the place of the result.
R207, R208. The mover takes the first record in push order that can start; at its delivery, which
waits while the arrays of the consumer are to write there, a row is repaired or a unit is switched, the bytes of the producer's slot
stand in the consumer's slot, one more record is delivered, the producer's slot is free, and a producer that waits for it goes on.
Where the spec leaves a point open, the model's choice or reading stands: log entries 12 and 39. -/
def Obligations.StageQueues : Prop :=
  (∀ (s : State) (u : UnitId) (c : CtxId) (gd ga gb : RegNo), ready s.m u c = true →
     (s.m.unit u).held.any (fun h => decide (h.ctx = c.val)) = false →
     let k := (s.m.g u c ga).toNat % 1024
     let put := fun (m : Mach) (v : Nat) => (m.setG u c gd (BitVec.ofNat 64 v)).advance u c
     (∀ e, s.m.queueEnd u c k .prod = .error e →
       Gives (.quPslot u c gd ga 0) s ((s.m.setG u c gd (BitVec.allOnes 64)).advance u c) ∧
       Gives (.quPush u c gd ga 0) s (put s.m e) ∧ Gives (.waitQout u c gd ga gb) s (put s.m e)) ∧
     (∀ e, s.m.queueEnd u c k .cons = .error e →
       Gives (.quCslot u c gd ga 0) s ((s.m.setG u c gd (BitVec.allOnes 64)).advance u c) ∧
       Gives (.quPop u c gd ga 0) s (put s.m e) ∧ Gives (.waitQin u c gd ga gb) s (put s.m e)) ∧
     (∀ lq, s.m.queueEnd u c k .prod = .ok lq →
       let q := s.m.qst lq.key
       let r := lq.qr
       Gives (.quPslot u c gd ga 0) s (put s.m
         (if r.pdepth = 0 then r.cbase + q.pushed % r.depth * (r.rsize * 64) else r.pbase + q.pushed % r.pdepth * (r.rsize * 64))) ∧
       (q.room r = true → Gives (.waitQout u c gd ga gb) s (put s.m 0)) ∧
       (q.room r = false → Gives (.waitQout u c gd ga gb) s (s.m.sleep u c (.qout lq.key gd.toNat))) ∧
       (q.room r = false → Gives (.quPush u c gd ga 0) s (put s.m 1)) ∧
       (q.room r = true → r.pdepth = 0 →
         Gives (.quPush u c gd ga 0) s (put (s.m.delivered lq
           { q with pushed := q.pushed + 1, delivered := q.delivered + 1, records := q.records + 1 }) 0)) ∧
       (q.room r = true → r.pdepth ≠ 0 →
         Ends (.quPush u c gd ga 0) s (fun t => t.queue.pushes = s.m.queue.pushes ++ [lq.key] ∧
           t.queue.qs = (s.m.setQst lq.key (QState.marked { q with pushed := q.pushed + 1 } r)).queue.qs ∧
           t.core.ctxs = (put s.m 0).core.ctxs ∧ t.mem = s.m.mem ∧ t.regs = s.m.regs))) ∧
     (∀ lq, s.m.queueEnd u c k .cons = .ok lq →
       let q := s.m.qst lq.key
       let r := lq.qr
       Gives (.quCslot u c gd ga 0) s (put s.m (r.cbase + q.popped % r.depth * (r.rsize * 64))) ∧
       (q.popped < q.delivered → Gives (.waitQin u c gd ga gb) s (put s.m 0)) ∧
       (q.delivered ≤ q.popped → Gives (.waitQin u c gd ga gb) s (s.m.sleep u c (.qin lq.key gd.toNat))) ∧
       (q.delivered ≤ q.popped → Gives (.quPop u c gd ga 0) s (put s.m 1)) ∧
       (let m1 := s.m.setQst lq.key { q with popped := q.popped + 1 }
        (q.popped < q.delivered → r.pdepth ≠ 0 → Gives (.quPop u c gd ga 0) s (put m1 0)) ∧
        (q.popped < q.delivered → r.pdepth = 0 → Gives (.quPop u c gd ga 0) s (put (m1.wakeEnd lq.key lq.prod true) 0)))) ∧
     (∀ e, s.m.queueEnd u c k .any = .error e →
       Gives (.quLevel u c gd ga 0) s ((s.m.setG u c gd (BitVec.allOnes 64)).advance u c)) ∧
     (∀ lq, s.m.queueEnd u c k .any = .ok lq →
       let q := s.m.qst lq.key
       let n := q.delivered - q.popped
       Gives (.quLevel u c gd ga 0) s (put s.m
         (n + (if lq.qr.pdepth = 0 then lq.qr.depth - n else lq.qr.pdepth - (q.pushed - q.taken)) * 2 ^ 16))) ∧
     (∀ imm : BitVec 13, imm ≠ 0 →
       Gives (.quPslot u c gd ga imm) s (s.m.fault u c 0x01) ∧ Gives (.quPush u c gd ga imm) s (s.m.fault u c 0x01) ∧
       Gives (.quCslot u c gd ga imm) s (s.m.fault u c 0x01) ∧ Gives (.quPop u c gd ga imm) s (s.m.fault u c 0x01) ∧
       Gives (.quLevel u c gd ga imm) s (s.m.fault u c 0x01))) ∧
  (∀ (s : State) (q : QueueId) (lq : LiveQueue) (u v : Nat), s.m.canonical = true →
     let x := s.m.qst lq.key
     let r := lq.qr
     (s.m.coresRun = true →
       s.m.liveQueues.find? (fun l => decide (l.key % 1024 = q.val) && s.m.canStart l && s.m.moverTurn l) = some lq →
       Ends (.moverStart q) s (fun t => t.qst lq.key = { x with moving := true } ∧
         t.queue.pushes = dropFirst lq.key s.m.queue.pushes ∧ t.mem = s.m.mem ∧ t.core = s.m.core ∧ t.regs = s.m.regs)) ∧
     (s.m.computeUp = true →
       s.m.liveQueues.find? (fun l => decide (l.key % 1024 = q.val) && (s.m.qst l.key).moving) = some lq →
       s.m.partUnit lq.prod = some u → s.m.partUnit lq.cons = some v →
       s.m.outGuarded v (r.cbase + x.delivered % r.depth * (r.rsize * 64)) (r.rsize * 64) = false →
       s.m.locHeld (.pond u (r.pbase + x.taken % r.pdepth * (r.rsize * 64))) (r.rsize * 64) = false →
       s.m.locHeld (.pond v (r.cbase + x.delivered % r.depth * (r.rsize * 64))) (r.rsize * 64) = false →
       (s.m.hdr (unitPage u)).inject &&& 0x30000000 = 0 →
       Ends (.moverDeliver q) s (fun t => (t.qst lq.key).delivered = x.delivered + 1 ∧ (t.qst lq.key).records = x.records + 1 ∧
         (t.qst lq.key).moving = false ∧ (t.qst lq.key).popped = x.popped ∧ (t.qst lq.key).pushed = x.pushed ∧
         (x.init ≤ x.delivered → (t.qst lq.key).taken = x.taken + 1) ∧
         (∀ gd, (s.m.ctx u lq.prod.ctx).wait = .qout lq.key gd → (t.ctx u lq.prod.ctx).state = .ready ∧ (t.ctx u lq.prod.ctx).wait = .none) ∧
         (∀ i, i < r.rsize * 64 →
           t.rdByte (pondKey v (r.cbase + x.delivered % r.depth * (r.rsize * 64) + i)) =
             s.m.rdByte (pondKey u (r.pbase + x.taken % r.pdepth * (r.rsize * 64) + i))))))

/-- R200. A load of a stage map begins unless a commit is pending (event 3) or one runs; it ends with the map loaded and its
number, or with the error of R200 and event 16.
Where the spec leaves a point open, the model's choice or reading stands: log entry 39. -/
def Obligations.StageMapLoads : Prop :=
  ∀ (s : State) (n : CombId) (w : RegWrite), s.m.canonical = true →
    let p := combPage n
    let m1 := (s.m.setReg p 0x910 0).setLive p Reg.COMB.SMLOAD_STATUS_STATE 1
    (live s.m w p 0x908 = true → bit w.bits 0 = true →
      ((s.m.hdr p).pending = true → Gives (.smloadGo n w) s (s.m.raise p 3)) ∧
      ((s.m.hdr p).pending = false → s.m.live p Reg.COMB.SMLOAD_STATUS_STATE = 1 → Gives (.smloadGo n w) s s.m) ∧
      ((s.m.hdr p).pending = false → s.m.live p Reg.COMB.SMLOAD_STATUS_STATE ≠ 1 →
        Gives (.smloadGo n w) s
          (m1.setCombMaps n { m1.combMaps n with loading := some (s.m.reg p 0x900), loaded := none }))) ∧
    (∀ a l, (s.m.combMaps n).loading = some a → s.m.mapLoc a.toNat = some l → s.m.locHeld l (s.m.loadMap l).2.2 = false → quiet s.m = true →
      let ends := fun (t : Mach) => (t.combMaps n).loading = none ∧ (t.combMaps n).loaded = (s.m.loadMap l).2.1 ∧ t.mem = s.m.mem
      (∀ x, (s.m.loadMap l).2.1 = some x →
        Ends (.smloadDone n) s (fun t => ends t ∧ t.live p Reg.COMB.SMLOAD_STATUS_STATE = 2 ∧
          t.live p Reg.COMB.SMLOAD_STATUS_MAPID = x.mapId % 65536)) ∧
      ((s.m.loadMap l).2.1 = none →
        Ends (.smloadDone n) s (fun t => ends t ∧ t.live p Reg.COMB.SMLOAD_STATUS_STATE = 3 ∧ bit (t.hdr p).event 16 = true)))

/-! ## Training numerics (R221, R229, R234) -/

/-- R221. A write through the slot window by the page's owner: W0 and W1 become pending when the entry keeps the rules, W1C of
SILENT acts at once, W3 takes no write, and an entry that breaks a rule is refused with REASON 0x01.
R229, R234. An update engine: its list registers and ARM take the owner's writes while no list is armed or runs, ARM
keeping the job seed, and else answer with event 18; a running list that nothing holds ends with every one of its descriptors done or
refused.
Where the spec leaves a point open, the model's choice or reading stands: log entries 36 and 37. -/
def Obligations.ScalesAndUpdates : Prop :=
  (∀ (s : State) (j : Nat) (w : RegWrite), owner s.m w scalePage = true → j < 32 → w.lanes = .full →
     let n := (s.m.live scalePage Reg.SCALE.SWIN_BASE * 32 + j) % 65536
     let x := s.m.slot n
     let v := w.val
     let at' := fun (k : Nat) => BitVec.ofNat 12 (0xA00 + 32 * j + 8 * k)
     (let y := { x with pend := { x.pend with
         fmt := some (fld v 3 0), enable := some (bit v 4), exact := some (bit v 5), hm1 := some (fld v 11 6),
         headroom := some (fld v 15 12), gate := some (bit v 16), lrfold := some (bit v 17), lr := some (fld v 63 32) } }
      (fld v 31 18 = 0 → y.withPending.entryOk = true → Gives (.scaleWindowWrite (at' 0) w) s (s.m.setSlot n y)) ∧
      (fld v 31 18 = 0 → y.withPending.entryOk = false → Gives (.scaleWindowWrite (at' 0) w) s (s.m.cfgReject scalePage 1))) ∧
     (fld v 31 18 ≠ 0 → Gives (.scaleWindowWrite (at' 0) w) s (s.m.cfgReject scalePage 2)) ∧
     (let y := { x with pend := { x.pend with scale := some (fld v 31 0) } }
      (y.withPending.entryOk = true → Gives (.scaleWindowWrite (at' 1) w) s (s.m.setSlot n y)) ∧
      (y.withPending.entryOk = false → Gives (.scaleWindowWrite (at' 1) w) s (s.m.cfgReject scalePage 1))) ∧
     (fld v 63 60 = 0 → bit v 58 = true → Gives (.scaleWindowWrite (at' 2) w) s (s.m.setSlot n { x with silent := false })) ∧
     (fld v 63 60 = 0 → bit v 58 = false → Gives (.scaleWindowWrite (at' 2) w) s s.m) ∧
     (fld v 63 60 ≠ 0 → Gives (.scaleWindowWrite (at' 2) w) s (s.m.cfgReject scalePage 2)) ∧
     Gives (.scaleWindowWrite (at' 3) w) s s.m) ∧
  (∀ (s : State) (sl : SliceId) (off : BitVec 12) (w : RegWrite) (r : UpdRun), s.m.canonical = true →
     let p := updPage sl
     (live s.m w p 0x918 = true → bit w.bits 0 = true →
       (s.m.updHeld sl = false →
         Gives (.updArm sl w) s (({ s.m with train := { s.m.train with
           upd := SMap.insert s.m.train.upd sl { slots := [], seed := s.m.seed, late := false } } } : Mach).setLive p Reg.UPD.STATE 1)) ∧
       (s.m.updHeld sl = true → Gives (.updArm sl w) s (s.m.raise p 18))) ∧
     (live s.m w p off.toNat = true → (off = 0x900 ∨ off = 0x908 ∨ off = 0x910) →
       (s.m.updHeld sl = false → Gives (.updListWrite sl off w) s (s.m.putHeld p off.toNat w)) ∧
       (s.m.updHeld sl = true → Gives (.updListWrite sl off w) s (s.m.raise p 18))) ∧
     (SMap.find? s.m.train.upd sl = some r → s.m.live p Reg.UPD.STATE = 2 → (r.late = true → s.m.sliceDue sl = false) →
       s.m.rowHeld (scratchKey sl 0) (s.m.updScratch sl) = false →
       Ends (.updListDone sl) s (fun t => t.live p Reg.UPD.STATE = 3 ∧ t.train.upd = SMap.erase s.m.train.upd sl ∧
         (t.live p Reg.UPD.DESC_DONE + t.live p Reg.UPD.DESC_REFUSED) % 2 ^ 64 =
           (s.m.live p Reg.UPD.DESC_DONE + s.m.live p Reg.UPD.DESC_REFUSED + s.m.live p Reg.UPD.LIST_COUNT) % 2 ^ 64 ∧
         t.core = s.m.core)))

/-! ## Collectives (R358 to R361, R374) -/

/-- R359, R365, R374. CO.RUN of a unit that holds back no store: a descriptor, with its list where it names one, that no check refuses
stands last in the queue of the field's engine and is counted outstanding; one that a check refuses leaves its code and TAG in the
refusal registers and with its issuer, is counted with event 16, and does not enter the queue. CO.WAIT, CO.POLL, CO.LWAIT and CO.LREL.
Where the spec leaves a point open, the model's choice or reading stands: log entries 59 and 62. -/
def Obligations.CollectiveInstructions : Prop :=
  ∀ (s : State) (u : UnitId) (c : CtxId) (gd ga : RegNo) (imm : BitVec 13), ready s.m u c = true →
    let f := fieldOf u
    let x := s.m.collOf f
    let i := (s.m.ctx u c).co
    let put := fun (v : Nat) => (s.m.setG u c gd (BitVec.ofNat 64 v)).advance u c
    (let a := (s.m.g u c ga + BitVec.ofNat 64 (64 * imm.toNat)).toNat
     let w := wordsOf 16 (s.m.rdBytes 128 (pondKey u a))
     (s.m.unit u).held = [] → a % 64 = 0 → a + 128 ≤ pondSize u → s.m.anyMarked (pondKey u a) 128 = false →
      (32 ≤ x.queue.length → Gives (.coRun u c gd ga imm) s (s.m.sleep u c .coQueue)) ∧
      (x.queue.length < 32 → s.m.collEntryHeld (some u) w = true → Gives (.coRun u c gd ga imm) s s.m) ∧
      (let at' := if coListed w && s.m.coListOk (some u) w then s.m.coLoc (some u) (wordAt w 5) else none
       let rd := match at' with | some l => s.m.locRead l (32 * coCount w) | none => ([], s.m)
       let ws := w ++ wordsOf (4 * coCount w) (rd.1.map (·.1))
       let m := rd.2
       let code := m.coCode f (some u) ws
       x.queue.length < 32 → s.m.collEntryHeld (some u) w = false →
        (rd.1.any (·.2) = false → code = 0 →
          Gives (.coRun u c gd ga imm) s
            (let it : CollItem := { id := x.nextId, unit := u, ctx := c, ring := none, words := ws, seed := m.seed,
                                    bufs := m.viewBufs f (coView ws) }
             ((m.setColl f { x with queue := x.queue ++ [it], nextId := x.nextId + 1 }).setCtx u c
              { m.ctx u c with co := { (m.ctx u c).co with out := (m.ctx u c).co.out + 1 } }).advance u c)) ∧
        (quiet s.m = true → code ≠ 0 →
          Ends (.coRun u c gd ga imm) s (fun t => t.live (collPage f) Reg.COLL.LAST_REFUSE_CODE = code ∧
            t.live (collPage f) Reg.COLL.LAST_REFUSE_TAG = coTag w ∧ counted s.m t (collPage f) Reg.COLL.DESC_REFUSED 1 ∧
            bit (t.hdr (collPage f)).event 16 = true ∧ t.coll = s.m.coll ∧ (t.ctx u c).co.refused = true ∧
            (t.ctx u c).co.code = code ∧ (t.ctx u c).co.tag = coTag w ∧ (t.ctx u c).co.out = i.out)))) ∧
    (i.out ≠ 0 → Gives (.coWait u c gd ga imm) s (s.m.sleep u c .coWait)) ∧
    (i.out = 0 →
      let m1 := s.m.setCtx u c { s.m.ctx u c with co := { i with refused := false, poisoned := false } }
      Gives (.coWait u c gd ga imm) s
        ((m1.setG u c gd (BitVec.ofNat 64 (i.tag + 2 ^ 16 * b2n i.refused + 2 ^ 17 * b2n i.poisoned +
          2 ^ 24 * (i.code % 256)))).advance u c)) ∧
    Gives (.coPoll u c gd ga imm) s (put i.out) ∧
    (let tag := fld (s.m.g u c ga) 15 0
     let k := fld (s.m.g u c ga) 47 16
     (s.m.gatherOf u c tag = none → Gives (.coLwait u c gd ga imm) s (put 1) ∧ Gives (.coLrel u c gd ga imm) s (put 1)) ∧
     (∀ r, s.m.gatherOf u c tag = some r →
      (r.layerDone k = true → Gives (.coLwait u c gd ga imm) s (put 0)) ∧
      (r.layerDone k = false → Gives (.coLwait u c gd ga imm) s (s.m.sleep u c (.coLayer tag k))) ∧
      (k ≠ r.released ∨ coCount r.item.words ≤ r.released → Gives (.coLrel u c gd ga imm) s (put 2)) ∧
      (k = r.released → r.released < coCount r.item.words →
        Ends (.coLrel u c gd ga imm) s (fun t => (t.ctx u c).state = .running ∧ t.g u c gd = 0 ∧
          ∃ y ∈ (t.collOf f).running, y.item = r.item ∧ y.released = r.released + 1))))

/-- R358, R366. The engine starts the descriptor at the head of its queue when it may: the queue's rest waits on, and unless the
descriptor is a barrier, a view swap or a PERMUTE it is in progress with the next operation number of its group. A settled
descriptor that has put nothing off and has done its part, or met a mismatch, completes: it is in progress no more, and its
issuer learns TAG and code.
R361. A load of a group record begins at a write of GO, with the group and the address kept, and ends with the record taken or
its error shown with event 19.
Where the spec leaves a point open, the model's choice or reading stands: log entries 59, 62 and 64. -/
def Obligations.CollectiveProgress : Prop :=
  (∀ (s : State) (f : FieldId) (pos : Nat) (it : CollItem) (rest : List CollItem) (r : CollRun), s.m.canonical = true →
     let x := s.m.collOf f
     let op := coOp it.words
     (x.queue = it :: rest → s.m.collReady f (s.m.collRun f it) = true → s.m.startCode f (s.m.collRun f it) = 0 →
       Ends (.collStart f) s (fun t => (t.collOf f).queue = rest ∧
         ((1 ≤ op ∧ op ≤ 5) ∨ op = 9 → ∃ y ∈ (t.collOf f).running, y.item = it ∧ y.opseq = (s.m.groupOf f (coGroup it.words)).seq))) ∧
     (x.running[pos]? = some r → r.item.ring = none → r.item.unit < 204 → r.item.ctx < 16 → s.m.collResume f pos = s.m →
       s.m.collWritable f r = true → s.m.collSettled f r.item.id = true → r.barrier = none → r.ending = none →
       (r.code = 0x11 ∨ s.m.collPartDone f r = true ∧ coOp r.item.words ≠ 6 ∧ coGate r.item.words = false) →
       (x.running.find? (fun y => decide (y.item.id = r.item.id)) = some r) →
       Ends (.collComplete f pos) s (fun t =>
         (t.collOf f).running = x.running.filter (fun y => decide (y.item.id ≠ r.item.id)) ∧
         (t.ctx r.item.unit r.item.ctx).co.out = (s.m.ctx r.item.unit r.item.ctx).co.out - 1 ∧
         (t.ctx r.item.unit r.item.ctx).co.tag = coTag r.item.words ∧ (t.ctx r.item.unit r.item.ctx).co.code = r.code))) ∧
  (∀ (s : State) (f : FieldId) (w : RegWrite), s.m.canonical = true →
     let p := collPage f
     (live s.m w p 0x908 = true → bit w.bits 0 = true → s.m.live p Reg.COLL.GLOAD_STATUS_STATE ≠ 1 →
       Ends (.gloadGo f w) s (fun t => t.live p Reg.COLL.GLOAD_STATUS_STATE = 1 ∧ t.live p Reg.COLL.GLOAD_STATUS_ERR = 0 ∧
         t.live p Reg.COLL.GLOAD_STATUS_GROUP = fld w.bits 13 8 ∧
         t.collOf f = { s.m.collOf f with load := some (fld w.bits 13 8, s.m.live p Reg.COLL.GLOAD_ADDR) } ∧ t.mem = s.m.mem)) ∧
     (∀ g a, (s.m.collOf f).load = some (g, a) → quiet s.m = true →
       let n := groupBytes (s.m.memPeek a 64)
       s.m.memHeld a n = false →
       (∀ e, s.m.readGroup f g a (s.m.memPeek a n) = .error e →
         Ends (.gloadDone f) s (fun t => (t.collOf f).load = none ∧ t.mem = s.m.mem ∧
           t.live p Reg.COLL.GLOAD_STATUS_STATE = 3 ∧ t.live p Reg.COLL.GLOAD_STATUS_ERR = e ∧ bit (t.hdr p).event 19 = true)) ∧
       (∀ rs, s.m.readGroup f g a (s.m.memPeek a n) = .ok rs →
         Ends (.gloadDone f) s (fun t => (t.collOf f).load = none ∧ t.mem = s.m.mem ∧ t.live p Reg.COLL.GLOAD_STATUS_STATE = 2 ∧
           (t.collOf f).groups = ((s.m.setGroup f g
             (match (s.m.groupOf f g).rec? with
              | none => { rec? := some rs, pend := none, epoch := 1, seq := 0 }
              | some _ => { s.m.groupOf f g with pend := some rs })).collOf f).groups))))

/-- R362. The shards of N elements over P ranks: the size is 4,096 × ceil(N / (4,096 × P)); rank r holds exactly the elements from
r × S to before (r + 1) × S, none when r × S ≥ N; every element belongs to one rank, and every boundary below N is a multiple of
4,096. -/
def Obligations.Shards : Prop :=
  ∀ n p : Nat, 1 ≤ p →
    let size := 4096 * ((n + 4096 * p - 1) / (4096 * p))
    shardSize n p = size ∧
    (∀ r e, e < n → ((shardOf n p r).1 ≤ e ∧ e < (shardOf n p r).2 ↔ r * size ≤ e ∧ e < (r + 1) * size)) ∧
    (∀ r, n ≤ r * size → shardLen n p r = 0) ∧
    (∀ e, e < n → ∃ r, r < p ∧ (shardOf n p r).1 ≤ e ∧ e < (shardOf n p r).2 ∧
      ∀ q, (shardOf n p q).1 ≤ e → e < (shardOf n p q).2 → q = r) ∧
    (∀ r, (shardOf n p r).2 ≤ n ∧ ((shardOf n p r).2 < n → (shardOf n p r).2 % 4096 = 0) ∧
      ((shardOf n p r).1 < n → (shardOf n p r).1 % 4096 = 0))

/-! ## Fabric (R295 to R323, R339 to R343) -/

/-- R295 to R297. A port: the peer of a port that is enabled answers and it trains; training ends DOWN without a peer, FAILED
with fewer than 24 good lanes or a peer that is not the opposite port of the neighbour there (event 20), else at 48 or 24 lanes (event 17, at 24 event 19); loss of
a port that was up discards its output and replay buffers, which are counted, with event 16; a burst of 16 replays within 1 ms,
or a lane that is permanent, retrains it in place.
Where the spec leaves a point open, the model's choice or reading stands: log entries 10 and 17. -/
def Obligations.FabricPorts : Prop :=
  ∀ (s : State) (p : PortId) (rep : TrainReport) (replays : Nat) (lane : BitVec 6), s.m.canonical = true →
    let pg := portPage p
    let ok := fun (mask : BitVec 52) => ((upTo 52).filter (fun l => mask.toNat.testBit l && !s.m.laneRetired p l)).length
    let good := min (ok rep.rx) (ok rep.tx)
    let m1 := s.m.noteReplays p replays
    (∀ (o : PortId) (x y : BitVec 8), rep.name = o → rep.x = x → rep.y = y →
      (s.m.peerFits p rep = true ↔ (o.val = if p.val % 2 = 0 then p.val + 1 else p.val - 1) ∧
        (x.toNat, y.toNat) =
          (if p.val = 0 then ((s.m.myX + 1) % s.m.dimX, s.m.myY)
           else if p.val = 1 then ((s.m.myX + s.m.dimX - 1) % s.m.dimX, s.m.myY)
           else if p.val = 2 then (s.m.myX, (s.m.myY + 1) % s.m.dimY)
           else (s.m.myX, (s.m.myY + s.m.dimY - 1) % s.m.dimY)))) ∧
    (s.m.live pg Reg.PORT.STATE = 0 → s.m.act pg Reg.PORT.PORTCTL_ENABLE = 1 → s.m.power.routerReset = false →
      Gives (.peerAnswers p) s (s.m.setLive pg Reg.PORT.STATE 1)) ∧
    (s.m.live pg Reg.PORT.STATE = 1 →
      (rep.peer = false → Gives (.portTrainDone p rep) s (s.m.setLive pg Reg.PORT.STATE 0)) ∧
      (rep.peer = true → (good < 24 ∨ s.m.peerFits p rep = false) →
        Ends (.portTrainDone p rep) s (fun t => t.live pg Reg.PORT.STATE = 4 ∧ bit (t.hdr pg).event 20 = true ∧
          t.fab.outs = s.m.fab.outs ∧ t.mem = s.m.mem)) ∧
      (rep.peer = true → s.m.peerFits p rep = true → 24 ≤ good → good < 48 →
        Ends (.portTrainDone p rep) s (fun t => t.live pg Reg.PORT.STATE = 3 ∧ t.live pg Reg.PORT.ACTIVE_LANES = 24 ∧
          bit (t.hdr pg).event 17 = true ∧ bit (t.hdr pg).event 19 = true ∧ t.fab.outs = s.m.fab.outs ∧ t.mem = s.m.mem)) ∧
      (rep.peer = true → s.m.peerFits p rep = true → 48 ≤ good →
        Ends (.portTrainDone p rep) s (fun t => t.live pg Reg.PORT.STATE = 2 ∧ t.live pg Reg.PORT.ACTIVE_LANES = 48 ∧
          bit (t.hdr pg).event 17 = true ∧ t.fab.outs = s.m.fab.outs ∧ t.mem = s.m.mem))) ∧
    (s.m.portUp p = true →
      Ends (.portDown p replays) s (fun t => t.live pg Reg.PORT.STATE = 0 ∧ t.live pg Reg.PORT.ACTIVE_LANES = 0 ∧
        bit (t.hdr pg).event 16 = true ∧ counted s.m t pg Reg.PORT.DOWN_EVENTS 1 ∧
        counted s.m t pg Reg.PORT.LOST_PKTS ((SMap.get s.m.fab.outs outsDefault p).length + replays) ∧
        t.fab.outs = SMap.set s.m.fab.outs outsDefault p [] ∧ t.fab.replays = SMap.set s.m.fab.replays (fun _ => []) p [] ∧
        t.mem = s.m.mem) ∧
      (m1.replayBurst p = false → s.m.laneRetired p lane.toNat = false → Gives (.linkRetrain p replays lane) s m1) ∧
      ((m1.replayBurst p = true ∨ s.m.laneRetired p lane.toNat = true) →
        Ends (.linkRetrain p replays lane) s (fun t => t.live pg Reg.PORT.STATE = 1 ∧ bit (t.hdr pg).event 16 = true ∧
          counted s.m t pg Reg.PORT.REPLAYS replays ∧ counted s.m t pg Reg.PORT.DOWN_EVENTS 1 ∧
          t.fab.outs = SMap.set s.m.fab.outs outsDefault p [] ∧ t.mem = s.m.mem)))

/-- R300 to R304, R306, R310, R311, R313, R315. A packet that an endpoint gives: a refused one changes nothing but, for a drone,
event 20; one to a flow that has given up completes at once; a TC0 packet is offered and waits for its slot; another that its
flow admits is outstanding with the flow's next SEQ, one that it does not admit waits, and one of no flow is counted as sent and leaves no
trace in flows. A packet that comes in on a port whose buffer has room is dropped when it is too old; at its destination it waits to be
delivered, a scheduled one 64 ns on; a scheduled one in transit waits for the slot that starts then; else it goes to its next
output. An output that is free sends the next packet of the class whose turn it is.
R309, R310, R312 to R316, R330. A packet at its destination, at or after the instant that is fixed for it: it is dropped when
it is too old, and with event 19 when its CRC is wrong; a time packet belongs to no flow; of the others a duplicate and one beyond
the window of 1,024 are counted and leave the flow as it was; the next one of a flow with nothing beyond CUM moves CUM to its
SEQ, whether the keeper takes it or the compute domain refuses it with a NAK while it is in reset.
Where the spec leaves a point open, the model's choice or reading stands: log entries 8, 49, 50, 51, 52 and 54. -/
def Obligations.Packets : Prop :=
  (∀ (s : State) (p : PortId) (pk : Packet) (vc : BitVec 5) (occ : Occupancy), s.m.canonical = true →
     s.m.power.routerReset = false →
     let q := asFlow pk.unstamped
     let f := s.m.flowTx q.flow
     let es := SMap.get s.m.fab.outs outsDefault p
     (s.m.fab.offers.find? (fun o => decide (o.pk = pk.unstamped)) = none →
       (s.m.injectCode q = some 0x09 → Gives (.packetInject pk occ) s (s.m.raise routerPage 20)) ∧
       (∀ c, s.m.injectCode q = some c → c ≠ 0x09 → Gives (.packetInject pk occ) s s.m) ∧
       (s.m.injectCode q = none → q.flowless = false → f.closed = true →
         Gives (.packetInject pk occ) s (s.m.bump routerPage Reg.ROUTER.E2E_FAIL_CNT)) ∧
       (s.m.injectCode q = none → pk.tc = 0 → s.m.shut pk.unstamped = false →
         Gives (.packetInject pk occ) s
           { s.m with fab := { s.m.fab with offers := s.m.fab.offers ++ [⟨pk.unstamped, .nobody⟩] } }) ∧
       (s.m.injectCode q = none → pk.tc ≠ 0 → q.flowless = true →
         Ends (.packetInject pk occ) s (fun t => counted s.m t routerPage Reg.ROUTER.E2E_SENT 1 ∧ t.fab.tx = s.m.fab.tx ∧ t.fab.offers = s.m.fab.offers ∧ t.mem = s.m.mem)) ∧
       (s.m.injectCode q = none → pk.tc ≠ 0 → q.flowless = false → f.closed = false →
         (s.m.admits f q = false → Gives (.packetInject pk occ) s s.m) ∧
         (s.m.admits f q = true →
           Ends (.packetInject pk occ) s (fun t => (t.flowTx q.flow).next = seqAdd f.next 1 ∧
             (∃ e, (t.flowTx q.flow).out = f.out ++ [e] ∧ e.pk.seq = BitVec.ofNat 32 f.next ∧ e.pk.payload = pk.payload ∧
               e.sent = s.m.ticks ∧ e.resends = 0 ∧ e.rto = s.m.e2eRto ∧ e.retry = s.m.e2eRetry) ∧
             counted s.m t routerPage Reg.ROUTER.E2E_SENT 1 ∧ t.mem = s.m.mem)))) ∧
     (s.m.portUp p = true →
       (s.m.hasRoom p vc.toNat pk = true →
         (s.m.tooOld pk = true → Ends (.packetArrive p vc pk occ 0) s (fun t =>
           counted s.m t routerPage Reg.ROUTER.LIFETIME_DROP 1 ∧ counted s.m t (portPage p) Reg.PORT.RX_BYTES pk.bytes ∧
           t.fab = s.m.fab)) ∧
         (s.m.tooOld pk = false → pk.mcast = false →
           (pk.dstX.toNat = s.m.myX → pk.dstY.toNat = s.m.myY →
             (pk.tc = 0 → pk.demoted = false →
               Ends (.packetArrive p vc pk occ 0) s (fun t =>
                 t.fab.arrived = s.m.fab.arrived ++ [⟨pk, some (s.m.now + 64), some (p.val, vc.toNat)⟩] ∧
                 counted s.m t (portPage p) Reg.PORT.RX_BYTES pk.bytes ∧ t.fab.outs = s.m.fab.outs)) ∧
             ((pk.tc ≠ 0 ∨ pk.demoted = true) →
               Ends (.packetArrive p vc pk occ 0) s (fun t =>
                 t.fab.arrived = s.m.fab.arrived ++ [⟨pk, none, some (p.val, vc.toNat)⟩] ∧
                 counted s.m t (portPage p) Reg.PORT.RX_BYTES pk.bytes ∧ t.fab.outs = s.m.fab.outs))) ∧
           (∀ o, s.m.route pk (some p.val) vc.toNat occ = .wait o → s.m.transitSlot o p pk (s.m.now + 64) = true →
             Ends (.packetArrive p vc pk occ 0) s (fun t => t.fab.tc0 = s.m.fab.tc0 ++ [⟨p.val, s.m.now + 64, pk⟩] ∧
               t.fab.outs = s.m.fab.outs ∧ t.fab.arrived = s.m.fab.arrived)) ∧
           (∀ o v pk', s.m.route pk (some p.val) vc.toNat occ = .out o v pk' →
             Ends (.packetArrive p vc pk occ 0) s (fun t => t.fab.arrived = s.m.fab.arrived ∧
               t.fab.outs = SMap.set s.m.fab.outs outsDefault o
                 (SMap.get s.m.fab.outs outsDefault o ++ [⟨v, pk', some (p.val, vc.toNat)⟩]) ∧
               t.fresh = s.m.fresh + 1)))) ∧
       (∀ c e, nextClass es (SMap.get s.m.fab.shared (fun _ => (0, 0)) p) = some c →
         es.find? (fun e => decide (outClass e = c)) = some e →
         s.m.slotBars p (s.m.linkTime p e.pk.bytes) = false → bit (s.m.hdr (portPage p)).inject 21 = false →
         Ends (.packetForward p) s (fun t => t.fab.outs = SMap.set s.m.fab.outs outsDefault p (es.erase e) ∧
           t.outbox = s.m.outbox ++ [.link p e.vc e.pk] ∧ counted s.m t (portPage p) Reg.PORT.TX_BYTES e.pk.bytes ∧
           t.live (portPage p) Reg.PORT.TX_PKTS c = (s.m.live (portPage p) Reg.PORT.TX_PKTS c + 1) % 2 ^ 64 ∧
           t.mem = s.m.mem)))) ∧
  (∀ (s : State) (pk : Packet) (e : ArrEnt), s.m.canonical = true →
     s.m.fab.arrived.find? (fun e => decide (e.pk = pk)) = some e → pk.kind ≠ 4 → (∀ t, e.at? = some t → t ≤ s.m.now) →
     let m1 : Mach := { s.m with fab := { s.m.fab with arrived := s.m.fab.arrived.erase e } }
     let r := s.m.flowRx pk.rxKey
     let q := pk.seq.toNat
     (s.m.tooOld pk = true → Gives (.packetDeliver pk) s (m1.bump routerPage Reg.ROUTER.LIFETIME_DROP)) ∧
     (s.m.tooOld pk = false → pk.crc ≠ pk.crcNow →
       Ends (.packetDeliver pk) s (fun t => counted s.m t routerPage Reg.ROUTER.E2E_CRC_ERR 1 ∧
         bit (t.hdr routerPage).event 19 = true ∧ t.fab = m1.fab ∧ t.mem = s.m.mem)) ∧
     (s.m.tooOld pk = false → pk.crc = pk.crcNow →
       (pk.kind = 5 → Gives (.packetDeliver pk) s m1) ∧
       (pk.kind ≠ 5 →
         ((seqAfter q r.cum = false ∨ q ∈ r.got) →
           Ends (.packetDeliver pk) s (fun t => counted s.m t routerPage Reg.ROUTER.E2E_DUP 1 ∧ t.fab.rx = s.m.fab.rx ∧
             t.mem = s.m.mem)) ∧
         (seqAfter q r.cum = true → q ∉ r.got → 1024 < (q + 2 ^ 32 - r.cum) % 2 ^ 32 →
           Gives (.packetDeliver pk) s (m1.bump routerPage Reg.ROUTER.E2E_DUP)) ∧
         (q = seqAdd r.cum 1 → r.got = [] → r.hold = [] →
           (pk.kind = 3 → s.m.power.restarting = false → s.m.live keepPage Reg.KEEP.FW_STATE ≠ 3 →
             Ends (.packetDeliver pk) s (fun t => (t.flowRx pk.rxKey).cum = q ∧ (t.flowRx pk.rxKey).got = [] ∧
               t.mem = s.m.mem)) ∧
           (pk.kind.toNat ≤ 2 → s.m.power.computeReset = true →
             Ends (.packetDeliver pk) s (fun t => (t.flowRx pk.rxKey).cum = q ∧
               counted s.m t routerPage Reg.ROUTER.NAK_SENT 1 ∧ t.mem = s.m.mem))))))

/-- R312, R315, R316. Fabric control that has come whole and in time: an ACK retires what its last awaited receiver covers and
nothing that it does not cover; a NAK takes the packet it names out of its flow and is counted; a RESYNC sets CUM one below its
base and is answered by a RESYNC_ACK that names it; the answer that was awaited last lets the flow go on. A fabric-control packet that
the module sends is one of KIND 4 on TC2 with SEQ 0 that carries its type, flow, CUM, SACK, NSEQ and NCODE, stamped with the module's
coordinates, an epoch and a CRC, counted, and sent on its route.
R31, R310, R313, R315, R316. An outstanding packet whose timeout, as it was when the packet was accepted, has passed is sent
again, once to each receiver that is missing, as a unicast with its SEQ and payload; to a module that is a drone by now it is refused with event 20; when its resends
are used up the flow fails: nothing is outstanding, SEQ starts from 0 and a RESYNC that says so goes to each receiver, with event 16. A
RESYNC without an answer in that time is sent again to each that has not answered.
Where the spec leaves a point open, the model's choice or reading stands: log entries 8, 55 and 99. -/
def Obligations.FlowControl : Prop :=
  (∀ (s : State) (pk : Packet) (e : ArrEnt), s.m.canonical = true →
     s.m.fab.arrived.find? (fun e => decide (e.pk = pk)) = some e → pk.kind = 4 →
     let m1 : Mach := { s.m with fab := { s.m.fab with arrived := s.m.fab.arrived.erase e } }
     let type := natBits (pk.word 0) 39 37
     let f := s.m.flowTx (ctlFlow pk)
     let who := (pk.srcX.toNat, pk.srcY.toNat)
     let w := pk.word 0
     let nseq := natBits (pk.word 2) 31 0
     let k : RxKey := { x := pk.srcX.toNat, y := pk.srcY.toNat, tc := natBits w 33 32, mflow := w.testBit 34,
                        axis := w.testBit 34 && w.testBit 35, dir := w.testBit 34 && w.testBit 36 }
     (s.m.tooOld pk = true → type = 0 → Gives (.ackReceive pk) s (m1.bump routerPage Reg.ROUTER.LIFETIME_DROP)) ∧
     (s.m.tooOld pk = false → pk.crc = pk.crcNow →
       (type = 0 → Ends (.ackReceive pk) s (fun t => (t.flowTx (ctlFlow pk)).next = f.next ∧
         (∀ o ∈ f.out, ackCovers (natBits w 31 0) (pk.word 1) o.pk.seq.toNat = false → o.waitFor ≠ [] →
           o ∈ (t.flowTx (ctlFlow pk)).out) ∧
         (∀ o ∈ (t.flowTx (ctlFlow pk)).out, ackCovers (natBits w 31 0) (pk.word 1) o.pk.seq.toNat = true →
           who ∉ o.waitFor ∧ o.waitFor ≠ []) ∧
         t.mem = s.m.mem)) ∧
       (∀ o, type = 1 → f.out.find? (fun o => decide (o.pk.seq.toNat = nseq)) = some o →
         Ends (.nakReceive pk) s (fun t => (t.flowTx (ctlFlow pk)).out = f.out.erase o ∧
           counted s.m t routerPage Reg.ROUTER.NAK_RECV 1 ∧ t.mem = s.m.mem)) ∧
       (type = 2 → Ends (.resyncReceive pk) s (fun t => (t.flowRx k).cum = seqAdd nseq (2 ^ 32 - 1) ∧ (t.flowRx k).got = [] ∧
         (t.flowRx k).hold = [] ∧ t.mem = s.m.mem ∧
         t = (m1.setFlowRx { FlowRx.empty k with cum := seqAdd nseq (2 ^ 32 - 1) }).control pk.srcX.toNat pk.srcY.toNat 3 k.tc k.mflow
           k.axis k.dir 0 0 nseq 0)) ∧
       (type = 3 → f.resync = some nseq → (∀ r ∈ f.resyncFrom, r = who) →
         Gives (.resyncAckReceive pk) s (m1.setFlowTx { f with resync := none, resyncFrom := [], resyncs := 0 }))) ∧
     (∀ (x y : BitVec 8) (type tc cum sack base code : Nat) (mf ax d : Bool), type < 4 → tc < 4 → cum < 2 ^ 32 → sack < 2 ^ 64 →
       base < 2 ^ 32 → code < 256 →
       ∃ (a : Packet) (m' : Mach), s.m.control x.toNat y.toNat type tc mf ax d cum sack base code =
           m'.follow a (m'.route a none 10 noOcc) none ∧
         a.kind = 4 ∧ a.tc = 2 ∧ a.mcast = false ∧ a.dstX = x ∧ a.dstY = y ∧ a.srcX.toNat = s.m.myX % 256 ∧ a.srcY.toNat = s.m.myY % 256 ∧
         a.seq = 0 ∧ a.epoch = decide (s.m.bankNow = 1) ∧ a.injTime = s.m.time.ns ∧ a.payload.length = 64 ∧
         natBits (a.word 0) 39 37 = type ∧ natBits (a.word 0) 31 0 = cum ∧ natBits (a.word 0) 33 32 = tc ∧
         (a.word 0).testBit 34 = mf ∧ (a.word 0).testBit 35 = ax ∧ (a.word 0).testBit 36 = d ∧ a.word 1 = sack ∧
         natBits (a.word 2) 31 0 = base ∧ natBits (a.word 2) 39 32 = code ∧
         (a.crc = a.crcNow ↔ bit (s.m.hdr routerPage).inject 19 = false) ∧
         counted s.m m' routerPage Reg.ROUTER.E2E_SENT 1 ∧ m'.fab = s.m.fab)) ∧
  (∀ (s : State) (fl : FlowId) (seq : BitVec 32) (occ : Occupancy), s.m.canonical = true →
     let f := s.m.flowTx fl
     (∀ o, f.out.find? (fun o => decide (o.pk.seq.toNat = seq.toNat)) = some o →
       (s.m.ticks < o.sent + o.rto → Gives (.e2eResend fl seq occ) s s.m) ∧
       (o.sent + o.rto ≤ s.m.ticks →
         (o.resends < o.retry → s.m.copyRefused o = false →
           Ends (.e2eResend fl seq occ) s (fun t => counted s.m t routerPage Reg.ROUTER.E2E_RETRANS o.waitFor.length ∧
             (t.flowTx fl).out = f.out.map (fun x => if x = o then { o with sent := s.m.ticks, resends := o.resends + 1 } else x) ∧
             (t.flowTx fl).next = f.next ∧ t.mem = s.m.mem ∧
             t = (s.m.setFlowTx { f with out := f.out.map (fun x => if x = o then { o with sent := s.m.ticks, resends := o.resends + 1 }
               else x) }).sendCopy o occ o.waitFor)) ∧
         (o.resends < o.retry → s.m.copyRefused o = true →
           Ends (.e2eResend fl seq occ) s (fun t => (t.flowTx fl).out = f.out.erase o ∧ (t.flowTx fl).next = f.next ∧
             bit (t.hdr routerPage).event 20 = true ∧ t.regs = s.m.regs ∧ t.mem = s.m.mem)) ∧
         (o.retry ≤ o.resends →
           Ends (.e2eResend fl seq occ) s (fun t => (t.flowTx fl).out = [] ∧ (t.flowTx fl).next = 0 ∧
             (t.flowTx fl).resync = some 0 ∧ (t.flowTx fl).resyncs = 1 ∧
             counted s.m t routerPage Reg.ROUTER.E2E_FAIL_CNT 1 ∧ bit (t.hdr routerPage).event 16 = true ∧
             t.mem = s.m.mem ∧ ∃ m4 : Mach,
               t = ((f.out.flatMap (fun o => o.waitFor)).eraseDups).foldl (fun m r => m.sendResync fl r.1 r.2 0) m4)))) ∧
     (∀ b, f.resync = some b → f.resyncAt + f.rto ≤ s.m.ticks →
       Ends (.resyncTimeout fl) s (fun t => (t.flowTx fl).resyncs = f.resyncs + 1 ∧ (t.flowTx fl).resync = some b ∧
         (t.flowTx fl).resyncAt = s.m.ticks ∧ (t.flowTx fl).out = f.out ∧ t.mem = s.m.mem ∧
         t = f.resyncFrom.foldl (fun m r => m.sendResync fl r.1 r.2 b)
           ((s.m.setFlowTx { f with resyncs := f.resyncs + 1, resyncAt := s.m.ticks }).shutOffers))) ∧
     (∀ x y base : Nat, s.m.sendResync fl x y base = s.m.control x y 2 fl.tc.toNat fl.mflow fl.axis fl.dir 0 0 base 0) ∧
     (∀ (o : OutPkt) (r : Nat × Nat) (rs : List (Nat × Nat)), s.m.sendCopy o occ [] = s.m ∧
       ∃ q : Packet, q.seq = o.pk.seq ∧ q.payload = o.pk.payload ∧ q.kind = o.pk.kind ∧ q.tc = o.pk.tc ∧ q.mcast = false ∧
         q.mflow = o.pk.mflow ∧ q.dstX = BitVec.ofNat 8 r.1 ∧ q.dstY = BitVec.ofNat 8 r.2 ∧ q.injTime = s.m.time.ns ∧ q.crc = q.crcNow ∧
         (let m1 := s.m.bump routerPage Reg.ROUTER.E2E_RETRANS
          s.m.sendCopy o occ (r :: rs) = (match m1.route q none 1 occ with
           | .wait port => m1.demote q port none occ
           | .demote port => m1.demote q port none occ
           | x => m1.follow q x none).sendCopy o occ rs)))

/-- R36, R319 to R321, R339 to R343, R356. The draining bank is released at its instant; a write through the bank window goes to
a bank that is neither in force nor draining, else event 18; likewise for the window of a calendar, whose old bank takes none in the
tick of the switch, with event 17, and one that uses the reserved code of SRC.KIND is refused. At the start of a slot a transit packet
that is ready leaves in it, with DL as at any hop, or is demoted when the link is busy, counted, and goes on as demoted; a slot of an origin with nothing to send is idle, and what it sends is outstanding in its flow.
R299, R323, R460. A reset of the router domain forgets its pages, its flows, its buffers, its tables and hive time, and leaves
the barrier objects and memory; it ends with the domain up again, and where the flash holds a PLACEMENT record with ROUTERCTL and each
PORTCTL as the record has them.
Where the spec leaves a point open, the model's choice or reading stands: log entries 10 and 54. -/
def Obligations.BanksCalendarReset : Prop :=
  (∀ (s : State) (p : PortId) (off : BitVec 12) (w : RegWrite) (slot : BitVec 10), s.m.canonical = true →
     let pg := calPage p
     let b := s.m.calBank p
     let e := s.m.calEnt p b slot.toNat
     (s.m.live routerPage Reg.ROUTER.EPOCH_DRAINING = 1 → s.m.live routerPage Reg.ROUTER.DRAIN_END ≤ s.m.now →
       Gives .epochDrainEnd s (s.m.setLive routerPage Reg.ROUTER.EPOCH_DRAINING 0)) ∧
     (bankOff off.toNat = true → live s.m w routerPage off.toNat = true →
       let sel := s.m.live routerPage Reg.ROUTER.BANKWIN_SEL
       let held := heldBits .router off.toNat &&& w.cover
       ((sel = s.m.bankNow ∨ s.m.live routerPage Reg.ROUTER.EPOCH_DRAINING = 1) →
         Gives (.bankWindowWrite off w) s (s.m.raise routerPage 18)) ∧
       (sel ≠ s.m.bankNow → s.m.live routerPage Reg.ROUTER.EPOCH_DRAINING ≠ 1 →
         Gives (.bankWindowWrite off w) s
           { s.m with fab := { s.m.fab with banks := SMap.set s.m.fab.banks (fun _ => 0) (sel * 4096 + off.toNat)
                                                 ((s.m.bankWord sel off.toNat &&& ~~~held) ||| (w.bits &&& held)) } })) ∧
     (calOff off.toNat = true → live s.m w pg off.toNat = true →
       let sel := s.m.live pg Reg.CAL.BANKWIN_SEL
       let held := heldBits .cal off.toNat &&& w.cover
       let o := s.m.calOffset p off.toNat
       (reservedKind off.toNat w = true → Gives (.calWindowWrite p off w) s (s.m.cfgReject pg 2)) ∧
       let now := SMap.get s.m.fab.calSwitch (fun _ => none) p = some s.m.ticks
       (reservedKind off.toNat w = false → sel = b ∨ now → Gives (.calWindowWrite p off w) s (s.m.raise pg 17)) ∧
       (reservedKind off.toNat w = false → sel ≠ b → ¬ now →
         Gives (.calWindowWrite p off w) s (s.m.setCalWord p sel o ((s.m.calWord p sel o &&& ~~~held) ||| (w.bits &&& held))))) ∧
     (s.m.power.routerReset = false → e.opens (s.m.calCycle p b) (s.m.calOrigin p b) s.m.now = true →
       (∀ x, e.kind = 0 → s.m.fab.tc0.find? (fun x => decide (x.inPort = e.index ∧ x.pk.dstX.toNat = e.x ∧ x.pk.dstY.toNat = e.y ∧
           x.ready ≤ s.m.now)) = some x →
         (e.fallen = false → s.m.excluded (b2n x.pk.epoch) p = false → s.m.live (portPage p) Reg.PORT.STATE = 2 →
           s.m.fitsSlot p x.pk.bytes e.len = true → bit (s.m.hdr (portPage p)).inject 21 = false →
           Ends (.calSlotStart p slot false) s (fun t =>
             t.outbox = s.m.outbox ++ [.link p 0 { x.pk with dl := s.m.crosses p || (!turns (some x.inPort) p && x.pk.dl) }] ∧
             counted s.m t pg Reg.CAL.SLOT_SENT 1 ∧ t.fab.tc0 = s.m.fab.tc0.erase x ∧
             t.fab.slotEnd = SMap.set s.m.fab.slotEnd (fun _ => 0) p (s.m.ticks + e.len) ∧ t.mem = s.m.mem)) ∧
         Ends (.calSlotStart p slot true) s (fun t => counted s.m t pg Reg.CAL.SLOT_MISS_CNT 1 ∧
           t.fab.tc0 = s.m.fab.tc0.erase x ∧ t.mem = s.m.mem ∧
           (let m2 := ({ s.m with fab := { s.m.fab with tc0 := s.m.fab.tc0.erase x } } : Mach).slotMiss p
            let q := { x.pk with demoted := true }
            t = m2.follow q (m2.route q (some x.inPort) 1 noOcc) (some (x.inPort, 0))))) ∧
       (∀ busy, e.kind ≠ 0 → (∀ o ∈ s.m.fab.offers, offerFrom e o = false) →
         (e.fallen = true → Gives (.calSlotStart p slot busy) s s.m) ∧
         (e.fallen = false → Gives (.calSlotStart p slot busy) s (s.m.bump pg Reg.CAL.SLOT_IDLE))) ∧
       (∀ busy o, e.kind ≠ 0 →
         s.m.fab.offers.find? (fun o => decide (o.pk.tc = 0 ∧ o.pk.dstX.toNat = e.x ∧ o.pk.dstY.toNat = e.y) && offerFrom e o)
           = some o →
         let f := s.m.flowTx (asFlow o.pk).flow
         s.m.injectCode (asFlow o.pk) = none → f.closed = false → s.m.admits f (asFlow o.pk) = true →
         Ends (.calSlotStart p slot busy) s (fun t => (t.flowTx (asFlow o.pk).flow).next = seqAdd f.next 1 ∧
           counted s.m t routerPage Reg.ROUTER.E2E_SENT 1 ∧ t.fab.offers = s.m.fab.offers.erase o ∧ t.mem = s.m.mem)))) ∧
  (∀ (s : State) (w : RegWrite), live s.m w pwrPage 0x910 = true → s.m.power.routerReset = false →
     (bit w.bits 1 = true → bit w.bits 0 = false →
       Ends (.routerReset w) s (fun t => t.power.routerReset = true ∧ t.fab.tx = [] ∧ t.fab.rx = [] ∧ t.fab.outs = [] ∧
         t.fab.arrived = [] ∧ t.fab.tc0 = [] ∧ t.fab.banks = [] ∧ t.fab.cal = [] ∧ t.time = TimeSt.reset ∧
         t.fab.bars = s.m.fab.bars ∧ t.mem = s.m.mem ∧ t.core = s.m.core ∧
         (∀ q : Page, q.ok = true → routerBlock q.blk = true → t.hdr q = hdrDefault q.num ∧
           ∀ x, x < 0x1000 → t.reg q x = regDefault (q.num * 0x1000 + x)))) ∧
     (∀ m : Mach, m.power.routerReset = true → m.power.flash.placement = none →
       Gives .routerResetDone { s with m := m } { m with power := { m.power with routerReset := false } }) ∧
     (∀ (m : Mach) (r : Placement), m.canonical = true → m.power.routerReset = true → m.power.flash.placement = some r →
       Ends .routerResetDone { s with m := m } (fun t => t.power.routerReset = false ∧
         t.act routerPage Reg.ROUTER.ROUTERCTL_DIM_X = r.dimX % 256 ∧ t.act routerPage Reg.ROUTER.ROUTERCTL_DIM_Y = r.dimY % 256 ∧
         t.act routerPage Reg.ROUTER.ROUTERCTL_MY_X = r.myX % 256 ∧ t.act routerPage Reg.ROUTER.ROUTERCTL_MY_Y = r.myY % 256 ∧
         (∀ p : PortId, t.act (portPage p) Reg.PORT.PORTCTL_ENABLE = if r.ports.getD p false then 1 else 0) ∧ t.mem = m.mem)))

/-! ## Hive time (R326 to R338, R353) -/

/-- R325, R330, R331, R338. A time packet goes out on a port that is up, outside slots, with this module's state, depth and hive
time, and counts as 96 bytes of TC2. One that comes in counts likewise and is kept as the neighbour's last word, unless its
CRC is wrong, which discards it with event 19 of the router; a FREE module that hears another root behind one eligible neighbour
becomes ACQUIRING below it.
R332, R336, R337. What silence does: a parent unheard of for 40 µs leaves a LOCKED module without another root in HOLDOVER, and an ACQUIRING one in
FREE;
every root whose count stands for 2 ms is lost, and the only one, when it is current, leaves a LOCKED module in HOLDOVER; a
candidate that has heard of no better one for 2 ms is ROOT at depth 0; HOLDOVER beyond its limit becomes FREE with event 16; the
exclusion of a port ends after 1 s.
Where the spec leaves a point open, the model's choice or reading stands: log entries 8, 58 and 99. -/
def Obligations.TimeKeeping : Prop :=
  (∀ (s : State) (p : PortId) (tp : TimePkt), s.m.canonical = true → s.m.portUp p = true →
     let x := s.m.timePort p
     ((∀ a, x.sentAt = some a → a + 10000 ≤ s.m.ticks) → s.m.slotBars p (s.m.linkTime p 96) = false →
       bit (s.m.hdr (portPage p)).inject 21 = false →
       Ends (.timeExchange p) s (fun t => (t.timePort p).sentAt = some s.m.ticks ∧
         (let r := s.m.time.root.getD (0, 0, 0)
          ∃ hb, (s.m.timeState = 4 → hb = (s.m.time.hb + 1) % 2 ^ 32) ∧ t.outbox = s.m.outbox ++
           [.time p s.m.timeState (s.m.live timePage Reg.TIME.STATUS_DEPTH) r.1 r.2.1 r.2.2 hb s.m.time.ns
             (!bit (s.m.hdr routerPage).inject 19)]) ∧
         counted s.m t routerPage Reg.ROUTER.E2E_SENT 1 ∧
         counted s.m t (portPage p) Reg.PORT.TX_BYTES 96 ∧ t.mem = s.m.mem)) ∧
     (tp.crcGood = false → Ends (.timePacketReceive p tp) s (fun t => t.time = s.m.time ∧ bit (t.hdr routerPage).event 19 = true ∧
       counted s.m t routerPage Reg.ROUTER.E2E_CRC_ERR 1 ∧ counted s.m t (portPage p) Reg.PORT.RX_BYTES 96 ∧ t.mem = s.m.mem)) ∧
     (tp.crcGood = true → Ends (.timePacketReceive p tp) s (fun t => (t.timePort p).state = tp.state.toNat ∧ (t.timePort p).depth = tp.depth.toNat ∧
       (t.timePort p).prio = tp.rootPrio.toNat ∧ (t.timePort p).x = tp.rootX.toNat ∧ (t.timePort p).y = tp.rootY.toNat ∧
       (t.timePort p).heard = some s.m.ticks ∧ counted s.m t (portPage p) Reg.PORT.RX_BYTES 96 ∧ t.mem = s.m.mem)) ∧
     (tp.crcGood = true → ¬ (tp.rootX.toNat = s.m.myX ∧ tp.rootY.toNat = s.m.myY) → s.m.timeState = 0 → s.m.rootPrio = 0 → s.m.time.roots = [] → s.m.time.root = none → tp.rootPrio ≠ 0 →
       (tp.state = 2 ∨ tp.state = 4) → tp.depth.toNat < 176 → x.excluded = none →
       (∀ q : PortId, q ≠ p → (s.m.timePort q).heard = none) →
       Ends (.timePacketReceive p tp) s (fun t => t.timeState = 1 ∧ t.live timePage Reg.TIME.STATUS_PARENT = p.val ∧
         t.live timePage Reg.TIME.STATUS_DEPTH = tp.depth.toNat + 1 ∧ bit (t.hdr timePage).event 20 = true))) ∧
  (∀ (s : State) (p : PortId), s.m.canonical = true →
     let par := s.m.live timePage Reg.TIME.STATUS_PARENT
     let holdEnd := s.m.time.holdSince + 1000000 * s.m.act timePage Reg.TIME.TIMECTL_HOLD_LIMIT
     (s.m.timeState = 2 → par < 4 → ((s.m.timePort par).heard.getD 0) + 40000 ≤ s.m.ticks → s.m.target = none →
       Ends .parentTimeout s (fun t => t.timeState = 3 ∧ t.live timePage Reg.TIME.STATUS_PARENT = 7 ∧
         counted s.m t timePage Reg.TIME.HOLD_ENTRIES 1 ∧ t.time.ns = s.m.time.ns ∧ t.mem = s.m.mem)) ∧
     (s.m.timeState = 1 → par < 4 → ((s.m.timePort par).heard.getD 0) + 40000 ≤ s.m.ticks → s.m.target = none →
       Ends .parentTimeout s (fun t => t.timeState = 0 ∧ t.live timePage Reg.TIME.STATUS_PARENT = 7 ∧
         (t.timePort par).heard = none ∧ t.time.ns = s.m.time.ns ∧ t.mem = s.m.mem)) ∧
     (s.m.time.roots.any s.m.silentRoot = true →
       Ends .rootHeartbeatTimeout s (fun t => t.time.ns = s.m.time.ns ∧
         t.time.roots = s.m.time.roots.map (fun x => if s.m.silentRoot x then { x with lost := true } else x))) ∧
     (∀ x, s.m.time.root = some x.id → s.m.time.roots = [x] → x.tick + 2000000 ≤ s.m.ticks → x.lost = false → s.m.timeState = 2 →
       Ends .rootHeartbeatTimeout s (fun t => t.time.root = none ∧ t.timeState = 3 ∧ t.time.ns = s.m.time.ns)) ∧
     (1 ≤ s.m.rootPrio → s.m.timeState ≠ 4 → s.m.target = none → s.m.time.betterAt + 2000000 ≤ s.m.ticks →
       Ends .rootClaim s (fun t => t.timeState = 4 ∧ t.live timePage Reg.TIME.STATUS_PARENT = 7 ∧
         t.live timePage Reg.TIME.STATUS_DEPTH = 0 ∧ t.time.root = some (s.m.rootPrio, s.m.myX, s.m.myY) ∧
         t.time.ns = s.m.time.ns)) ∧
     (s.m.timeState = 3 → holdEnd < s.m.ticks → Gives .holdLimitExpire s ((s.m.setTimeState 0).raise timePage 16)) ∧
     (s.m.timeState ≠ 3 ∨ s.m.ticks ≤ holdEnd → Gives .holdLimitExpire s s.m) ∧
     (∀ a, (s.m.timePort p).excluded = some a → a + 1000000000 ≤ s.m.ticks →
       Gives (.portExcludeExpire p) s (s.m.setTimePort p { s.m.timePort p with excluded := none })))

/-- R328, R333, R353, R355. SET acts in FREE on a module that may be root: the count takes the value, with event 19; else it is
refused. A PPS edge only slews: by the distance of the edge from a whole second, with the fraction, or by 10 µs; a missing input is signalled once and ends the slew, and returns. FREEZE.ARM at least 1 µs ahead arms; at its
instant every page outside reset and Retain takes the identifier with event 4.
Where the spec leaves a point open, the model's choice or reading stands: log entries 58 and 43. -/
def Obligations.TimeInputs : Prop :=
  ∀ (s : State) (w : RegWrite) (inp : BitVec 2), s.m.canonical = true →
    (live s.m w timePage 0x928 = true →
      (s.m.timeState = 0 → 1 ≤ s.m.rootPrio → w.lanes = .full →
        Ends (.timeSet w) s (fun t => t.time.ns = w.val ∧ bit (t.hdr timePage).event 19 = true ∧ t.mem = s.m.mem)) ∧
      ((s.m.timeState ≠ 0 ∨ s.m.rootPrio = 0) → Gives (.timeSet w) s (s.m.cfgReject timePage 1))) ∧
    (s.m.timeState = 4 → s.m.act timePage Reg.TIME.TIMECTL_EXTREF = 1 → s.m.time.extLost = false →
      (let e : Int := ((s.m.now : Int) - (s.m.act timePage Reg.TIME.EXTCTL_PPS_DELAY : Nat)) % 1000000000
       let slew := fun (c : Int) (t : Mach) => t.time = { s.m.time with slew := c, freqOffset := t.time.freqOffset } ∧
         t.regs = s.m.regs ∧ t.hdrs = s.m.hdrs ∧ t.mem = s.m.mem
       (e ≤ 10000 → Ends .ppsEdge s (slew (-e * 65536 - (s.m.time.frac.toNat : Int)))) ∧
       (10000 < e → e < 500000000 → Ends .ppsEdge s (slew (-10000 * 65536))) ∧
       (500000000 ≤ e → e < 1000000000 - 10000 → Ends .ppsEdge s (slew (10000 * 65536))) ∧
       (1000000000 - 10000 ≤ e → Ends .ppsEdge s (slew ((1000000000 - e) * 65536 - (s.m.time.frac.toNat : Int))))) ∧
      Ends (.extrefLoss inp) s (fun t => t.time = { s.m.time with extLost := true, slew := 0 } ∧ bit (t.hdr timePage).event 23 = true ∧
        t.regs = s.m.regs)) ∧
    Gives .extrefReturn s { s.m with time := { s.m.time with extLost := false } } ∧
    (live s.m w timePage 0x940 = true → bit w.bits 0 = true →
      (s.m.live timePage Reg.TIME.FREEZE_AT < s.m.now + 1000 → Gives (.freezeArm w) s (s.m.raise timePage 22)) ∧
      (s.m.now + 1000 ≤ s.m.live timePage Reg.TIME.FREEZE_AT →
        Ends (.freezeArm w) s (fun t => t.live timePage Reg.TIME.FREEZE_ARMED = 1 ∧
          t.time.armed = some (s.m.live timePage Reg.TIME.FREEZE_AT, s.m.live timePage Reg.TIME.FREEZE_ID)))) ∧
    (∀ id, s.m.time.armed = some (s.m.now, id) → s.m.power.on = true →
      Ends .freezeSnapshot s (fun t => t.time.armed = none ∧ t.live timePage Reg.TIME.FREEZE_ARMED = 0 ∧
        counted s.m t timePage Reg.TIME.FREEZES 1 ∧ t.shadow.regs = s.m.copyCounters ∧ t.shadow.queues = s.m.copyQueues ∧
        (∀ q : Page, q.ok = true → s.m.shadowHeld q = false → (t.hdr q).snapId = w64 id ∧ bit (t.hdr q).event 4 = true) ∧
        t.mem = s.m.mem))

/-! ## Barriers and spare units (R347 to R352, R413, R421) -/

/-- R347, R348. WAIT.BAR: reserved bits are illegal; an object that is not valid gives 2, a number that is not local 3, a second
early entry 1 with event 16; an entry that does not complete the generation counts, and its context waits, or gets 0 under
NOWAIT; one that completes it at a leaf sends the report to the parent.
R348 to R352. Reports of children count toward the generation that their parity names; a release message passes on the instant
and releases at once when that has gone by, counted as late; at the release the next generation begins with what has arrived for
it, and every context that waits for this one gets 0 and goes on; a destroyed object gives its waiters 4; a window write of a
busy object is refused with event 17. No collective descriptor is in progress, and the object is no job barrier.
Where the spec leaves a point open, the model's choice or reading stands: log entries 12, 56 and 57. -/
def Obligations.BarrierObjects : Prop :=
  (∀ (s : State) (u : UnitId) (c : CtxId) (gd ga gb : RegNo), ready s.m u c = true →
     let g := s.m.g u c ga
     let o := fld g 11 0
     let p := fld g 17 12
     let b := s.m.bar o
     let b1 := { b with arr0 := b.arr0 ||| BitVec.ofNat 64 (2 ^ p) }
     let put := fun (m : Mach) (v : Nat) => (m.setG u c gd (w64 v)).advance u c
     (fld g 63 19 ≠ 0 → Gives (.waitBar u c gd ga gb) s (s.m.fault u c 0x01)) ∧
     (fld g 63 19 = 0 →
       (b.valid = false → Gives (.waitBar u c gd ga gb) s (put s.m 2)) ∧
       (b.valid = true → b.localN ≤ p → Gives (.waitBar u c gd ga gb) s (put s.m 3)) ∧
       (b.valid = true → p < b.localN → b.arr0.toNat.testBit p = true → b.arr1.toNat.testBit p = true →
         Gives (.waitBar u c gd ga gb) s (put ((s.m.bump barrPage Reg.BARR.BAR_OVERRUNS).raise barrPage 16) 1)) ∧
       (b.valid = true → p < b.localN → b.arr0.toNat.testBit p = true → b.arr1.toNat.testBit p = false →
         let m1 := s.m.setBar o { b with arr1 := b.arr1 ||| BitVec.ofNat 64 (2 ^ p) }
         (bit g 18 = true → Gives (.waitBar u c gd ga gb) s (m1.sleep u c (.bar o b.gen gd.toNat))) ∧
         (bit g 18 = false → Gives (.waitBar u c gd ga gb) s (m1.sleep u c (.bar o (b.gen + 1) gd.toNat)))) ∧
       (b.valid = true → p < b.localN → b.arr0.toNat.testBit p = false → b1.full = false →
         (bit g 18 = true → Gives (.waitBar u c gd ga gb) s (put (s.m.setBar o b1) 0)) ∧
         (bit g 18 = false → Gives (.waitBar u c gd ga gb) s ((s.m.setBar o b1).sleep u c (.bar o b.gen gd.toNat)))) ∧
       (b.valid = true → p < b.localN → b.arr0.toNat.testBit p = false → b1.full = true → b.complete = false → b.root = false →
         s.m.shut (barPacket b.parentX b.parentY o b.gen b.summed none).unstamped = false →
         let told := s.m.fab.offers ++ [⟨(barPacket b.parentX b.parentY o b.gen b.summed none).unstamped, .nobody⟩]
         (bit g 18 = true →
           Ends (.waitBar u c gd ga gb) s (fun t => (t.bar o).complete = true ∧ (t.bar o).gen = b.gen ∧ t.fab.offers = told ∧
             (t.ctx u c).pc = pcOf u ((s.m.ctx u c).pc.toNat + 4) ∧ (t.ctx u c).g = ((s.m.ctx u c).setG gd 0).g)) ∧
         (bit g 18 = false →
           Ends (.waitBar u c gd ga gb) s (fun t => (t.bar o).complete = true ∧ (t.bar o).gen = b.gen ∧ t.fab.offers = told ∧
             (t.ctx u c).state = .waiting ∧ (t.ctx u c).wait = .bar o b.gen gd.toNat ∧ (t.ctx u c).g = (s.m.ctx u c).g))))) ∧
  (∀ (s : State) (a : BarMsg) (o : BitVec 12) (off : BitVec 12) (w : RegWrite), s.m.canonical = true → s.m.coll = [] →
     let b := s.m.bar a.obj.toNat
     let x := s.m.bar o.toNat
     let odd := fun (n : Nat) => decide (n % 2 = 1)
     let k := (a.srcX.toNat, a.srcY.toNat, a.count)
     (b.valid = false → Gives (.barrierArrival a) s (s.m.bump barrPage Reg.BARR.BAR_ORPHAN) ∧
       Gives (.barrierReleaseMessage a) s (s.m.bump barrPage Reg.BARR.BAR_ORPHAN)) ∧
     (b.valid = true →
       (a.parity ≠ odd b.gen → Gives (.barrierArrival a) s (s.m.setBar a.obj.toNat { b with kids1 := b.kids1 ++ [k] })) ∧
       (a.parity = odd b.gen → ({ b with kids0 := b.kids0 ++ [k] } : BarObj).full = false →
         Gives (.barrierArrival a) s (s.m.setBar a.obj.toNat { b with kids0 := b.kids0 ++ [k] })) ∧
       (a.parity = odd b.gen → b.complete = true → b.release = none →
         (s.m.now ≤ a.tRel.toNat → Gives (.barrierReleaseMessage a) s (s.m.barRelease a.obj.toNat a.tRel.toNat)) ∧
         (a.tRel.toNat < s.m.now → b.job = false →
           Ends (.barrierReleaseMessage a) s (fun t => (t.bar a.obj.toNat).gen = b.gen + 1 ∧
             counted s.m t barrPage Reg.BARR.BAR_LATE_REL 1 ∧ counted s.m t barrPage Reg.BARR.BAR_RELEASES 1 ∧
             t.mem = s.m.mem)))) ∧
     (∀ i, x.release = some i → i ≤ s.m.now → x.valid = true → x.job = false →
       Ends (.barrierRelease o) s (fun t => (t.bar o.toNat).gen = x.gen + 1 ∧ (t.bar o.toNat).arr0 = x.arr1 ∧
         (t.bar o.toNat).arr1 = 0 ∧ (t.bar o.toNat).kids0 = x.kids1 ∧ counted s.m t barrPage Reg.BARR.BAR_RELEASES 1 ∧
         t.mem = s.m.mem ∧
         (∀ (u : UnitId) (c : CtxId) (r : RegNo), (s.m.ctx u c).state = .waiting → (s.m.ctx u c).wait = .bar o.toNat x.gen r.toNat →
           ((s.m.ctx u c).haltAtRelease = false → (t.ctx u c).state = .ready) ∧
           ((s.m.ctx u c).haltAtRelease = true → (t.ctx u c).state = .halted) ∧ (t.ctx u c).wait = .none ∧
           (t.ctx u c).pc = pcOf u ((s.m.ctx u c).pc.toNat + 4) ∧ (t.ctx u c).g = ((s.m.ctx u c).setG r 0).g))) ∧
     (barOff off.toNat = true → live s.m w barrPage off.toNat = true →
       (let n := s.m.barAt off.toNat
        let y := s.m.bar n
        let held := heldBits .barr off.toNat &&& w.cover
        let merged := fun (old : Word) => (old &&& ~~~held) ||| (w.bits &&& held)
        let started := fun (z : BarObj) =>
          if z.valid && !y.valid then { z with gen := 0, complete := false, release := none } else z
        let cfg := started { y with cfg := merged y.cfg }
        let lead := { y with lead := fld (merged (w64 y.lead)) 31 0 }
        ((off.toNat - 0xA00) % 32 = 0 → bit w.bits 3 = false →
          (y.busy = true → Gives (.barrierWindowWrite off w) s (s.m.raise barrPage 17)) ∧
          (y.busy = false → s.m.barBad cfg = true → Gives (.barrierWindowWrite off w) s (s.m.cfgReject barrPage 1)) ∧
          (y.busy = false → s.m.barBad cfg = false → Gives (.barrierWindowWrite off w) s (s.m.setBar n cfg))) ∧
        ((off.toNat - 0xA00) % 32 = 8 →
          (y.busy = true → Gives (.barrierWindowWrite off w) s (s.m.raise barrPage 17)) ∧
          (y.busy = false → s.m.barBad lead = true → Gives (.barrierWindowWrite off w) s (s.m.cfgReject barrPage 1)) ∧
          (y.busy = false → s.m.barBad lead = false → Gives (.barrierWindowWrite off w) s (s.m.setBar n lead))) ∧
        ((off.toNat - 0xA00) % 32 = 0 → bit w.bits 3 = true →
          Ends (.barrierDestroy off w) s (fun t => t.fab.bars = SMap.set s.m.fab.bars barDefault n BarObj.reset ∧
            t.mem = s.m.mem ∧
            (∀ (u : UnitId) (c : CtxId) (i : Nat) (r : RegNo), (s.m.ctx u c).state = .waiting →
              (s.m.ctx u c).wait = .bar n i r.toNat → (t.ctx u c).wait = .none ∧
              (t.ctx u c).g = ((s.m.ctx u c).setG r 4).g))))))

/-- R413, R418, R421. When the copy of a drained unit ends, its logical number is served by the new unit, whose pond holds what
the old one held, and the old one is retired, counted with event 18; no word of it waits to be found in error. A parity error of a register is signalled with event 22; it is
counted as a transient fault, or else its key is permanent: a reload that passes, or one that fails.
Where the spec leaves a point open, the model's choice or reading stands: log entries 44 and 67. -/
def Obligations.SparesAndParity : Prop :=
  ∀ (s : State) (u : UnitId) (c : SpareCopy) (pg : Page) (off : BitVec 12), s.m.canonical = true →
    (s.m.spare.copies.find? (fun c => decide (c.fromUnit = u.val)) = some c → c.toUnit < 204 → s.m.unitDrained u = true →
      s.m.ras.errors = [] →
      Ends (.spareDone u) s (fun t => t.spare.copies = s.m.spare.copies.erase c ∧ u.val ∈ t.spare.retired ∧
        (u.val < 180 → t.spare.tcells = SMap.set s.m.spare.tcells (fun k => some (9 * (k / 8) + k % 8)) c.logical (some c.toUnit)) ∧
        (180 ≤ u.val → t.spare.solvs = SMap.set s.m.spare.solvs (fun k => some (180 + k)) c.logical (some c.toUnit)) ∧
        counted s.m t rasPage Reg.RAS.SPARES_DONE 1 ∧ bit (t.hdr rasPage).event 18 = true ∧
        (∀ i, i < 2 ^ 24 → t.rdByte (pondKey c.toUnit i) = (s.m.saveAll u).rdByte (pondKey u i)))) ∧
    (pg.ok = true → s.m.runs = true →
      Ends (.regParity pg off) s (fun t => bit (t.hdr rasPage).event 22 = true ∧
        (counted s.m t rasPage Reg.RAS.FAULTS_TRANSIENT 1 ∨ (counted s.m t rasPage Reg.RAS.FAULTS_TRANSIENT 0 ∧
          (t.keyRec ⟨pg.blk.type, pg.idx, 0x0C, off.toNat⟩).permanent = true)) ∧ t.mem = s.m.mem ∧ t.core = s.m.core))

/-! ## Digests, check units and slot images (R398 to R402, R411, R426) -/

/-- R399, R400, R402. A digest engine: OPEN at rest with an aligned window of at most 2^40 bytes begins, a scan at once; CLOSE
ends the snooping; ABORT of an engine at work ends it with event 19; COMPOSE writes the run digest; when the hashing ends the
root is that of the tree over the window's bytes, with event 16, unless the window holds poison or raced, where no injection waits at
a pool slice.
R405, R411. CLEAR of a check unit: its CRC and its error counts are 0, it holds no alive baseline, and its next byte begins a
record from the INIT in force by then; its counts of records and bytes stay. R426. A save or a restore of the slots is armed by its code, and a transfer
that no memory holds ends; at a misaligned address it has failed.
Where the spec leaves a point open, the model's choice or reading stands: log entries 40, 42 and 47. -/
def Obligations.AuditUnits : Prop :=
  (∀ (s : State) (e : DigId) (w : RegWrite), s.m.canonical = true →
     let p := digPage e
     let st := s.m.live p Reg.DIG.STATE
     let base := s.m.live p Reg.DIG.BASE
     let len := s.m.live p Reg.DIG.LEN
     let root := treeDigest ((s.m.memPeek base len).map (fun b => b.1.toNat))
     let bad := (s.m.digOf e).poisoned || (s.m.digReads e).any (fun r => (s.m.memPeek (base + r.1) r.2).any (fun b => b.2))
     (live s.m w p 0x918 = true →
       (bit w.bits 0 = true →
         ((st = 1 ∨ st = 2 ∨ base % 64 ≠ 0 ∨ 2 ^ 40 < len) → Gives (.digOpen e w) s (s.m.cfgReject p 1)) ∧
         (st ≠ 1 → st ≠ 2 → base % 64 = 0 → len ≤ 2 ^ 40 →
           (s.m.live p Reg.DIG.MODE = 1 →
             Ends (.digOpen e w) s (fun t => t.live p Reg.DIG.STATE = 2 ∧ (t.digOf e).poisoned = false ∧
               (t.digOf e).raced = false ∧ t.mem = s.m.mem)) ∧
           (s.m.live p Reg.DIG.MODE = 0 →
             Ends (.digOpen e w) s (fun t => t.live p Reg.DIG.STATE = 1 ∧ (t.digOf e).poisoned = false ∧
               (t.digOf e).raced = false ∧ t.mem = s.m.mem)))) ∧
       (bit w.bits 1 = true → st = 1 →
         Ends (.digClose e w) s (fun t => t.live p Reg.DIG.STATE = 2 ∧
           counted s.m t p Reg.DIG.RESCANS (s.m.digUnread e).length ∧ t.mem = s.m.mem)) ∧
       (bit w.bits 2 = true → (st = 1 ∨ st = 2) →
         Ends (.digAbort e w) s (fun t => t.live p Reg.DIG.STATE = 6 ∧ bit (t.hdr p).event 19 = true ∧ t.digOf e = DigSt.reset ∧
           t.mem = s.m.mem)) ∧
       (bit w.bits 3 = true → st ≠ 2 →
         Gives (.digCompose e w) s (s.m.putDigest p Reg.DIG.RUNDIG
           (sha256 (s.m.getDigest p Reg.DIG.PROG ++ s.m.getDigest p Reg.DIG.WSET ++ s.m.getDigest p Reg.DIG.INPUT ++
             natBytes 16 s.m.seed ++ natBytes 8 (s.m.live p Reg.DIG.STEP)))))) ∧
     (s.m.digEnds e = true → quiet s.m = true →
       (bad = true → Ends (.digestDone e) s (fun t => t.live p Reg.DIG.STATE = 4 ∧ bit (t.hdr p).event 17 = true)) ∧
       (bad = false → (s.m.digOf e).raced = true →
         Ends (.digestDone e) s (fun t => t.live p Reg.DIG.STATE = 5 ∧ bit (t.hdr p).event 18 = true)) ∧
       (bad = false → (s.m.digOf e).raced = false → s.m.live p Reg.DIG.TRAILER = 0 →
         Ends (.digestDone e) s (fun t => t.live p Reg.DIG.STATE = 3 ∧ bit (t.hdr p).event 16 = true ∧
           (∀ i, i < 4 → t.live p Reg.DIG.ROOT i = bytesNat ((root.drop (8 * i)).take 8) % 2 ^ 64))))) ∧
  (∀ (s : State) (n : ChkId) (w : RegWrite), s.m.canonical = true →
     let p := chkPage n
     (live s.m w p 0x928 = true → bit w.bits 0 = true →
       Ends (.chkClear n w) s (fun t => t.live p Reg.CHK.CRC_VALUE = 0 ∧ t.live p Reg.CHK.ALIVE_ERR_REPEATS = 0 ∧
         t.live p Reg.CHK.ALIVE_ERR_SKIPS = 0 ∧ t.live p Reg.CHK.LAST_ALIVE_VALID = 0 ∧
         t.live p Reg.CHK.RECORDS = s.m.live p Reg.CHK.RECORDS ∧ t.live p Reg.CHK.BYTES = s.m.live p Reg.CHK.BYTES ∧
         t.chkOf n = { s.m.chkOf n with raw := none, pos := 0, alive := [] } ∧ t.mem = s.m.mem)) ∧
     (live s.m w rasPage 0x948 = true →
       (fld w.bits 1 0 = 1 → Gives (.slotimgSave w) s (s.m.setLive rasPage Reg.RAS.SLOTIMG_STATE 1)) ∧
       (fld w.bits 1 0 = 2 → Gives (.slotimgRestore w) s (s.m.setLive rasPage Reg.RAS.SLOTIMG_STATE 2))) ∧
     (s.m.ras.imgBusy ≠ 0 → s.m.memHeld s.m.ras.imgAddr imageBytes = false →
       (s.m.ras.imgAddr % 64 ≠ 0 →
         Ends .slotimgDone s (fun t => t.ras.imgBusy = 0 ∧ t.ras.imgSlots = [] ∧ t.live rasPage Reg.RAS.SLOTIMG_STATE = 3)) ∧
       (s.m.ras.imgAddr % 64 = 0 → s.m.ras.imgBusy ≠ 2 →
         Ends .slotimgDone s (fun t => t.ras.imgBusy = 0 ∧ t.ras.imgSlots = [] ∧ t.mem = s.m.writeImage.mem)) ∧
       (s.m.ras.imgAddr % 64 = 0 → s.m.ras.imgBusy = 2 →
         Ends .slotimgDone s (fun t => t.ras.imgBusy = 0 ∧ t.ras.imgSlots = [] ∧ t.mem = s.m.mem))))

/-! ## The keeper (R429, R430, R432, R447) -/

/-- R429, R432. Firmware: each command acts in the states that it fits and is refused in the others; the check of an image ends
with FW.STATE loaded, the image in the slot that is not in use and event 17, or with it refused and event 18; a handover
makes that slot the active one with event 19, or falls back with event 20, and answers the management requests that it held. In
RECOVERY it goes on with the boot.
R430, R447, R454. The keeper restarts when its watchdog has not been serviced for WDOG_MS, or at a KRESET once its echo has stalled,
counted with event 16; the registers of SEC go back to their reset values. Its restart checks the firmware again and ends with the
image that BOOT_SELECT names where it passes, and in RECOVERY where none does. A host's heartbeat is armed while it is not 0 and is echoed; one that stalls fails the port.
Where the spec leaves a point open, the model's choice or reading stands: log entries 8, 78 and 80. -/
def Obligations.Keeper : Prop :=
  (∀ (s : State) (w : RegWrite), s.m.canonical = true →
     let st := s.m.fwState
     let idle := s.m.idleSlot
     let r := s.m.locRead (.mem (s.m.live keepPage Reg.KEEP.FW_ADDR)) (s.m.live keepPage Reg.KEEP.FW_LEN)
     let parts := imageParts (r.1.map (fun b => b.1.toNat))
     (live s.m w keepPage 0x930 = true →
       (fld w.bits 1 0 = 1 → (st = 0 ∨ st = 2 ∨ st = 4 ∨ st = 5) → Gives (.fwLoad w) s (s.m.setFwState 1)) ∧
       (fld w.bits 1 0 = 1 → st ≠ 0 → st ≠ 2 → st ≠ 4 → st ≠ 5 → Gives (.fwLoad w) s (s.m.cfgReject keepPage 1)) ∧
       (fld w.bits 1 0 = 2 → st ≠ 2 → Gives (.fwActivate w) s (s.m.cfgReject keepPage 1)) ∧
       (fld w.bits 1 0 = 2 → st = 2 →
         Ends (.fwActivate w) s (fun t => t.fwState = 3 ∧ t.power.flash = s.m.power.flash.write (.bootSelect idle) ∧ t.power.flash.bootSel = some idle ∧
           t.mem = s.m.mem)) ∧
       (fld w.bits 1 0 = 3 → st = 1 → s.m.inRecovery = false → Gives (.fwAbort w) s (s.m.setFwState 0)) ∧
       (fld w.bits 1 0 = 3 → (st ≠ 1 ∨ s.m.inRecovery = true) → Gives (.fwAbort w) s (s.m.cfgReject keepPage 1))) ∧
     (s.m.keeperRuns = true → st = 3 → s.m.inRecovery = true → ∀ (b : BootReport) (ok : Bool), s.m.power.boot = some b →
       Gives (.fwHandover ok) s
         (({ (s.m.setFwState 0) with power := { (s.m.setFwState 0).power with boot := none } } : Mach).bootLoad b).mgmtRelease) ∧
     (s.m.keeperRuns = true → s.m.inRecovery = false →
       (st = 1 → quiet s.m = true → s.m.memHeld (s.m.live keepPage Reg.KEEP.FW_ADDR) (s.m.live keepPage Reg.KEEP.FW_LEN) = false →
         ((r.1.any (fun b => b.2) = true ∨ parts = none) →
           Ends .fwVerifyDone s (fun t => t.fwState = 4 ∧ bit (t.hdr keepPage).event 18 = true ∧
             t.power.flash = s.m.power.flash)) ∧
         (∀ v body, r.1.any (fun b => b.2) = false → parts = some (v, body) →
           (v < s.m.power.flash.minVersion →
             Ends .fwVerifyDone s (fun t => t.fwState = 4 ∧ bit (t.hdr keepPage).event 18 = true ∧
               bit (t.hdr secPage).event 18 = true ∧ t.power.flash = s.m.power.flash)) ∧
           (s.m.power.flash.minVersion ≤ v →
             Ends .fwVerifyDone s (fun t => t.fwState = 2 ∧ bit (t.hdr keepPage).event 17 = true ∧
               (t.power.flash.image idle).version = v ∧
               (t.power.flash.image idle).digest = shaBytes (body.map (BitVec.ofNat 8)) ∧
               t.power.flash.image (!idle) = s.m.power.flash.image (!idle))))) ∧
       (st = 3 → Ends (.fwHandover true) s (fun t => t.live keepPage Reg.KEEP.FW_ACTIVE = (if idle then 1 else 0) ∧
           t.fwState = 0 ∧ bit (t.hdr keepPage).event 19 = true ∧ t.power.mgmt = [] ∧ t.mem = s.m.mem ∧
           (∀ a d, s.m.power.mgmt = [(a, d)] → d.length = 64 → seOp (wordsOf 8 d) ≠ 0 → seOp (wordsOf 8 d) ≠ 8 →
             t.outbox = s.m.outbox ++ [.datagram a (toBytes 8 (ceWord 0 2 (seTag (wordsOf 8 d)) false) ++ toBytes 8 0 ++
               toBytes 8 s.m.now ++ toBytes 8 0)])) ∧
         Ends (.fwHandover false) s (fun t => t.live keepPage Reg.KEEP.FW_ACTIVE = s.m.live keepPage Reg.KEEP.FW_ACTIVE ∧
           t.fwState = 5 ∧ bit (t.hdr keepPage).event 20 = true ∧ t.power.mgmt = [] ∧ t.mem = s.m.mem)))) ∧
  (∀ (s : State) (h : HostId) (w : RegWrite), s.m.canonical = true →
     let p := hostPage h
     let v := w.merge (s.m.reg p 0xA08)
     let due := s.m.power.wdogAt + 1000000 * s.m.act keepPage Reg.KEEP.KEEPCTL_WDOG_MS
     let f := s.m.power.flash
     let first := f.bootSel.getD false
     (s.m.keeperRuns = true →
       (s.m.ticks < due → Gives .watchdogExpire s s.m) ∧
       (due ≤ s.m.ticks →
         Ends .watchdogExpire s (fun t => t.power.restarting = true ∧ t.fwState = 0 ∧ bit (t.hdr keepPage).event 16 = true ∧
           counted s.m t keepPage Reg.KEEP.WDOG_EXPIRIES 1 ∧ counted s.m t keepPage Reg.KEEP.KEEPER_RESETS 1 ∧
           (∀ off, off < 0x1000 → SMap.find? t.regs (secPage.num * 0x1000 + off) = none) ∧ t.power.mgmt = [] ∧ t.mem = s.m.mem ∧
           t.core = s.m.core)) ∧
       Ends (.hbEcho h) s (fun t => t.live p Reg.HOST.HB_ECHO = s.m.live p Reg.HOST.HEARTBEAT ∧ t.mem = s.m.mem) ∧
       (s.m.live p Reg.HOST.PORT_STATE_HB_ARMED = 1 → (s.m.port h).hbSince + s.m.hbTimeout ≤ s.m.ticks →
         Ends (.hbTimeout h) s (fun t => t.live p Reg.HOST.PORT_STATE_FAILED = 1 ∧ t.mem = s.m.mem ∧
           (s.m.failed h = false → counted s.m t p Reg.HOST.FAILURES 1 ∧ bit (t.hdr p).event 18 = true)))) ∧
     (live s.m w p 0xA18 = true → bit w.bits 0 = true →
       ((s.m.port h).echoSince + s.m.hbTimeout ≤ s.m.ticks → Gives (.kreset h w) s s.m.keeperReset) ∧
       (s.m.ticks < (s.m.port h).echoSince + s.m.hbTimeout → Gives (.kreset h w) s (s.m.cfgReject p 1))) ∧
     (live s.m w p 0xA08 = true →
       (v = 0 → Ends (.heartbeat h w) s (fun t => t.live p Reg.HOST.HEARTBEAT = 0 ∧
         t.live p Reg.HOST.PORT_STATE_HB_ARMED = 0 ∧ t.mem = s.m.mem)) ∧
       (v ≠ 0 → Ends (.heartbeat h w) s (fun t => t.live p Reg.HOST.HEARTBEAT = v.toNat ∧
         t.live p Reg.HOST.PORT_STATE_HB_ARMED = 1 ∧ t.mem = s.m.mem))) ∧
     (s.m.runs = true → s.m.power.restarting = true → s.m.ready = true →
       (f.passes (f.image first) = true →
         Ends .keeperRestartDone s (fun t => t.power.restarting = false ∧ t.power.placeDue = false ∧ t.power.wdogAt = s.m.ticks ∧
           t.live keepPage Reg.KEEP.FW_ACTIVE = b2n first ∧ t.live secPage Reg.SEC.BOOT_STATE = 0xA ∧
           t.live secPage Reg.SEC.BOOT_IDENTITY_VALID = b2n f.identityOk ∧
           t.live keepPage Reg.KEEP.TRAY_ID = s.m.power.trayPins.toNat ∧ t.mem = s.m.mem ∧ t.core = s.m.core)) ∧
       (f.passes (f.image first) = false → f.passes (f.image (!first)) = false →
         Ends .keeperRestartDone s (fun t => t.power.restarting = false ∧ t.live secPage Reg.SEC.BOOT_STATE = 0xB ∧
           counted s.m t secPage Reg.SEC.SIG_FAILS 2 ∧ bit (t.hdr secPage).event 16 = true ∧ t.mem = s.m.mem ∧ t.core = s.m.core))))

/-! ## Rings and host ports (R433 to R449) -/

/-- R435, R436, R438, R449, R464. A doorbell of another port is refused, one of a ring that is not ACTIVE ignored, both counted; one that
wakes the module, or comes while it wakes, is held; a pointer out of range puts the ring into ERROR. A write of the MSI-X table sets a
vector's message address and data, or its mask, and clearing the mask sends a pending message. Base and configuration words are written while a ring is DISABLED; ENABLE starts it
with cleared pointers; clearing ENABLE drains it; a discard of an orphaned ring without started entries drops what it held.
R442, R449. A finished entry completes: its completion entry is written to the host at CQ_TAIL, which goes on by one, or is
held for an orphaned ring; an entry that is COAL_US old is signalled.
Where the spec leaves a point open, the model's choice or reading stands: log entries 5, 8, 73, 74 and 82. -/
def Obligations.RingControl : Prop :=
  (∀ (s : State) (port : HostId) (ring : BitVec 13) (half : Bool) (bytes : Nat) (v : Word) (mw : MsixWrite) (off : BitVec 12)
     (w : RegWrite), s.m.canonical = true → s.m.runs = true →
     let x := s.m.ringOf ring.toNat
     let d := dbValues half bytes v
     let slot := port.val * 2048 + mw.vec.toNat
     let entry := s.m.msixEntry port mw.vec.toNat
     let put := fun (e : Word × BitVec 32) => ({ s.m with host := { s.m.host with
       table := SMap.set s.m.host.table (fun _ => (0, 0)) slot e } } : Mach)
     let m1 := s.m.accessWakes
     let waking := decide (m1.live pwrPage Reg.PWR.STATE = 5 ∧ m1.act pwrPage Reg.PWR.PWRCTL_AUTOWAKE = 1)
     let shown : Mach := { s.m with host := { s.m.host with unmasked := SMap.set s.m.host.unmasked (fun _ => false) slot true } }
     let waits := SMap.get s.m.host.pend (fun _ => false) slot
     ((bytes = 4 ∨ (bytes = 8 ∧ half = false)) →
       (port ≠ x.owner →
         Gives (.doorbell port ring half bytes v) s ((s.m.bump (hostPage port) Reg.HOST.NOT_OWNER_CNT).raise (hostPage port) 16)) ∧
       (port = x.owner → x.state ≠ .active →
         Gives (.doorbell port ring half bytes v) s ((s.m.bump ringPage Reg.RING.DB_IGNORED).raise ringPage 17)) ∧
       (port = x.owner → x.state = .active → waking = true →
         Gives (.doorbell port ring half bytes v) s
           { m1 with host := { m1.host with bells := m1.host.bells ++ [⟨port, ring.toNat, half, bytes, v⟩] } }) ∧
       (port = x.owner → x.state = .active → waking = false → (d.1.any x.badTail || d.2.any x.badHead) = true →
         Gives (.doorbell port ring half bytes v) s
           ((m1.setRing ring.toNat { m1.ringOf ring.toNat with state := .error, err := 1 }).raise ringPage 16)) ∧
       (port = x.owner → x.state = .active → waking = false → (d.1.any x.badTail || d.2.any x.badHead) = false →
         Gives (.doorbell port ring half bytes v) s
           (m1.setRing ring.toNat { x with sqTail := d.1.getD x.sqTail, cqHead := d.2.getD x.cqHead }))) ∧
     (bytes ≠ 4 → (bytes ≠ 8 ∨ half = true) → Gives (.doorbell port ring half bytes v) s s.m) ∧
     (mw.qword = false →
       (mw.dword = 0 → Gives (.msixUnmask port mw) s (put (setFld entry.1 31 0 (fld mw.val 31 0), entry.2))) ∧
       (mw.dword = 1 → Gives (.msixUnmask port mw) s (put (setFld entry.1 63 32 (fld mw.val 31 0), entry.2))) ∧
       (mw.dword = 2 → Gives (.msixUnmask port mw) s (put (entry.1, BitVec.ofNat 32 (fld mw.val 31 0)))) ∧
       (mw.dword = 3 → bit mw.val 0 = true →
         Gives (.msixUnmask port mw) s
           { s.m with host := { s.m.host with unmasked := SMap.set s.m.host.unmasked (fun _ => false) slot false } }) ∧
       (mw.dword = 3 → bit mw.val 0 = false → waits = true → s.m.failed port = false →
         Gives (.msixUnmask port mw) s
           { shown with host := { shown.host with pend := SMap.set s.m.host.pend (fun _ => false) slot false }
                        outbox := s.m.outbox ++ [.msix port mw.vec.toNat entry.1 entry.2] }) ∧
       (mw.dword = 3 → bit mw.val 0 = false → (waits = false ∨ s.m.failed port = true) →
         Gives (.msixUnmask port mw) s shown)) ∧
     (mw.qword = true → (mw.dword = 1 ∨ mw.dword = 3) → Gives (.msixUnmask port mw) s s.m) ∧
     (mw.qword = true → mw.dword = 0 → SMap.wf s.m.host.table (fun _ => (0, 0)) = true →
       Ends (.msixUnmask port mw) s (fun t => t.msixEntry port mw.vec.toNat = (mw.val, entry.2) ∧ t.mem = s.m.mem ∧
         t.regs = s.m.regs)) ∧
     (ringOff off.toNat = true → owner s.m w ringPage = true →
       (let r := (s.m.windowRing off.toNat).1
        let y := s.m.ringOf r
        ((off.toNat % 64 = 0 ∨ off.toNat % 64 = 8) → y.state ≠ .disabled →
         Gives (.ringWindowWrite off w) s (s.m.cfgReject ringPage 1)) ∧
        (off.toNat % 64 = 0 → y.state = .disabled →
         Gives (.ringWindowWrite off w) s (s.m.setRing r { y with sqBase := w.merge y.sqBase })) ∧
        (off.toNat % 64 = 8 → y.state = .disabled →
         Gives (.ringWindowWrite off w) s (s.m.setRing r { y with cqBase := w.merge y.cqBase })) ∧
        (off.toNat % 64 = 16 → fld w.bits 63 59 = 0 →
         (y.state = .disabled → bit w.bits 6 = true →
           (s.m.enableOk { y with cfg := w.merge y.cfg } = false → Gives (.ringEnable off w) s (s.m.cfgReject ringPage 1)) ∧
           (s.m.enableOk { y with cfg := w.merge y.cfg } = true →
             Ends (.ringEnable off w) s (fun t => t.rings = (s.m.setRing r { y with
               cfg := w.merge y.cfg, state := .active, err := 0, sqHead := 0, sqTail := 0, cqHead := 0, cqTail := 0, started := [],
               unsignalled := 0 }).rings ∧ t.mem = s.m.mem))) ∧
         (bit w.cover 6 = true → bit w.bits 6 = false → (y.state = .active ∨ y.state = .error) →
           Gives (.ringDisable off w) s (s.m.setRing r { y with state := .draining, cfg := setFld y.cfg 6 6 0 }))) ∧
        (off.toNat % 64 = 24 → fld w.bits 63 2 = 0 → fld w.bits 1 0 = 1 →
         (y.state ≠ .orphaned → Gives (.ringDiscard off w) s (s.m.cfgReject ringPage 1)) ∧
         (y.state = .orphaned → y.started = [] →
           Ends (.ringDiscard off w) s (fun t => (t.ringOf r).state = .disabled ∧ (t.ringOf r).held = [] ∧
             (t.ringOf r).discard = none ∧ counted s.m t ringPage Reg.RING.HELD_DISCARDED y.held.length ∧ t.mem = s.m.mem))))) ∧
     (x.state = .draining → x.started = [] →
       Ends (.ringDrained ring) s (fun t => (t.ringOf ring.toNat).state = .disabled ∧ (t.ringOf ring.toNat).cfg = x.cfg ∧
         t.mem = s.m.mem))) ∧
  (∀ (s : State) (ring : BitVec 13) (idx : BitVec 32) (e : RingEnt) (o : Nat × Nat), s.m.canonical = true →
     let r := ring.toNat
     let x := s.m.ringOf r
     let c := [ceWord e.index o.1 (seTag e.words) false, o.2, e.time, 0]
     (x.started.find? (fun e => decide (e.index = idx.toNat) && e.outcome.isSome) = some e → e.outcome = some o →
       (x.state ≠ .orphaned →
         Ends (.ringEntryComplete ring idx) s (fun t => (t.ringOf r).cqTail = (x.cqTail + 1) % 2 ^ 32 ∧
           (t.ringOf r).done = x.done + 1 ∧ (t.ringOf r).started = x.started.erase e ∧
           counted s.m t ringPage Reg.RING.ENTRIES_DONE 1 ∧ t.mem = s.m.mem ∧
           Out.hostWrite x.owner (w64 (x.cqBase.toNat + x.cqTail % x.depth * 32))
             (toBytes 8 (ceWord e.index o.1 (seTag e.words) false + (x.cqTail / x.depth + 1) % 2 * 2 ^ 40) ++ toBytes 8 o.2 ++
               toBytes 8 e.time ++ toBytes 8 0) false ∈ t.outbox)) ∧
       (x.state = .orphaned → x.discard = none →
         Gives (.ringEntryComplete ring idx) s (s.m.setRing r { x with started := x.started.erase e, held := x.held ++ [c] }))) ∧
     (x.unsignalled ≠ 0 → x.coalUs ≠ 0 → x.state ≠ .orphaned → x.oldest + 1000 * x.coalUs ≤ s.m.ticks → x.msixEn = true →
       Gives (.coalTimer ring) s ((s.m.setRing r { x with unsignalled := 0 }).msix x.owner x.vector)))

/-- R440 to R444. A fetched entry is started at SQ_HEAD, refused entries with their code; a failed fetch puts the ring into ERROR.
Each operation finishes its entry: NOP; copies in and out; START, HALT and WAITSTOP of the target's context; DESC enters a queue;
SEND is offered as a packet to the ring it names, where no flow has given up; requests are answered by the keeper.
Where the spec leaves a point open, the model's choice or reading stands: log entries 8, 69, 70, 71 and 72. -/
def Obligations.RingOperations : Prop :=
  ∀ (s : State) (ring : BitVec 13) (idx : BitVec 32) (d : HostData) (e : RingEnt), s.m.canonical = true → d.ok = true →
    let r := ring.toNat
    let x := s.m.ringOf r
    let w := wordsOf 8 d.bytes
    let code := s.m.seCode x w
    let done := fun (m : Mach) (c res : Nat) => m.ringFinish r e.index c res
    let asked := s.m.hostReads x.owner (seHaddr e.words) d
    let fetch := s.m.send (.hostRequest x.owner (w64 (x.sqBase.toNat + x.sqHead % x.depth * 64)) 64)
    (s.m.ringFetches x = true → d.bytes.length = 64 →
      ((d.err = true ∨ d.ep = true) →
        Gives (.ringFetch ring d) s ((fetch.setRing r { x with state := .error, err := 2 }).raise ringPage 16)) ∧
      (d.err = false → d.ep = false →
        ((seFence w = true ∧ x.started ≠ []) ∨ (code = 0 ∧ seAt w = true ∧ s.m.now < wordAt w 5)) →
        Gives (.ringFetch ring d) s s.m) ∧
      (d.err = false → d.ep = false → (seFence w = false ∨ x.started = []) →
        (code ≠ 0 ∨ seAt w = false ∨ wordAt w 5 ≤ s.m.now) →
        Ends (.ringFetch ring d) s (fun t => (t.ringOf r).sqHead = (x.sqHead + 1) % 2 ^ 32 ∧ (∃ y : RingEnt,
          (t.ringOf r).started = x.started ++ [y] ∧ y.index = x.sqHead ∧ y.words = w ∧
          (code = 0 → y.outcome = none) ∧ (code ≠ 0 → y.outcome = some (code, 0))) ∧
          Out.hostRequest x.owner (w64 (x.sqBase.toNat + x.sqHead % x.depth * 64)) 64 ∈ t.outbox ∧ t.mem = s.m.mem))) ∧
    (∀ y : HostRead, d = [y] → asked = s.m.send (.hostRequest x.owner (w64 (seHaddr e.words)) y.data.length)) ∧
    (s.m.ringEntry r idx.toNat 0 = some e → Gives (.ringNop ring idx) s (done s.m 0 0)) ∧
    (s.m.ringEntry r idx.toNat 1 = some e →
      (∀ c, s.m.copyLoc x e.words = .error c → Gives (.ringCopyIn ring idx d) s (done s.m c 0)) ∧
      (∀ l, s.m.copyLoc x e.words = .ok l →
        (d.bytes.length = seLen e.words → s.m.locFree l (seLen e.words) = false →
          Ends (.ringCopyIn ring idx d) s (fun t => t.rings = s.m.rings ∧ t.mem = s.m.mem ∧ t.outbox = s.m.outbox)) ∧
        (d.bytes.length = seLen e.words → s.m.locFree l (seLen e.words) = true →
          (d.err = true → Gives (.ringCopyIn ring idx d) s (done (asked.hostCopies l d) 0x0D 0)) ∧
          (d.err = false → d.ep = true → Gives (.ringCopyIn ring idx d) s (done (asked.hostCopies l d) 0x0B 0)) ∧
          (d.err = false → d.ep = false → Gives (.ringCopyIn ring idx d) s (done (asked.hostCopies l d) 0 0)) ∧
          (∀ y : HostRead, d = [y] → y.err = true → asked.hostCopies l d = asked) ∧
          (∀ y : HostRead, d = [y] → y.err = false → asked.hostCopies l d = asked.locWrite l y.data) ∧
          (∀ y z : HostRead, d = [y, z] → y.err = true → z.err = false →
            asked.hostCopies l d = asked.locWrite (l.plus y.data.length) z.data)))) ∧
    (s.m.ringEntry r idx.toNat 2 = some e →
      (∀ c, s.m.copyLoc x e.words = .error c → Gives (.ringCopyOut ring idx) s (done s.m c 0)) ∧
      (∀ l, s.m.copyLoc x e.words = .ok l → s.m.computeUp = true → s.m.locHeld l (seLen e.words) = false →
        let b := s.m.locPeek l (seLen e.words)
        let bad := (s.m.locRead l (seLen e.words)).1.any (fun b => b.2)
        let sent := fun (t : Mach) (ep : Bool) =>
          t.outbox.getLast? = some (.hostWrite x.owner (w64 (seHaddr e.words)) (b.map (fun b => b.1)) ep)
        (bad = false → Ends (.ringCopyOut ring idx) s (fun t => sent t false ∧ t.rings = (done s.m 0 0).rings ∧ t.mem = s.m.mem)) ∧
        (bad = true → Ends (.ringCopyOut ring idx) s (fun t => sent t true ∧ t.rings = (done s.m 0x0B 0).rings ∧
          t.mem = s.m.mem)))) ∧
    (∀ u, s.m.ringUnit x = some u → s.m.domainGone = false →
      (let c := x.target % 16
       let y := s.m.ctx u c
       (s.m.ringEntry r idx.toNat 3 = some e →
        (y.state = .halted → Ends (.ringStart ring idx) s (fun t => (t.ctx u c).state = .ready ∧
          (t.ctx u c).pc = pcOf u (sePc e.words) ∧ (t.ctx u c).g = y.g ∧ t.rings = (done s.m 0 0).rings ∧ t.mem = s.m.mem)) ∧
        (y.state ≠ .halted → Gives (.ringStart ring idx) s (done (s.m.raise (unitPage u) 19) 0x06 0))) ∧
       (s.m.ringEntry r idx.toNat 4 = some e →
        (y.state = .ready ∨ y.state = .running → Gives (.ringHalt ring idx) s (done (s.m.setCtx u c { y with state := .halted }) 0 0)) ∧
        (∀ o g i, y.state = .waiting → y.wait = .bar o g i →
          Gives (.ringHalt ring idx) s (done (s.m.setCtx u c { y with haltAtRelease := true }) 0 0)) ∧
        (y.stopped = true → Gives (.ringHalt ring idx) s (done (s.m.raise (unitPage u) 19) 0x06 0))) ∧
       (s.m.ringEntry r idx.toNat 5 = some e →
        (y.stopped = true → Gives (.ringWaitstop ring idx) s (done s.m 0 y.cmdWord)) ∧
        (y.stopped = false → Gives (.ringWaitstop ring idx) s s.m)))) ∧
    (s.m.ringEntry r idx.toNat 6 = some e → e.placed = false → s.m.domainGone = false → s.m.live pwrPage Reg.PWR.STATE = 1 →
      (seHaddr e.words % 64 ≠ 0 → Gives (.ringDesc ring idx d) s (done s.m 0x03 0)) ∧
      (seHaddr e.words % 64 = 0 → d.err = false → d.ep = false → d.bytes.length = 128 →
        (let q := s.m.collOf x.target
         let cw := wordsOf 16 d.bytes
         x.kind = 1 → q.queue.length < 32 → s.m.collEntryHeld none cw = false → coListed cw = false →
          s.m.coCode x.target none (cw ++ wordsOf (4 * coCount cw) []) = 0 →
          Ends (.ringDesc ring idx d) s (fun t => t.outbox = asked.outbox ∧ ∃ it : CollItem, it.ring = some (r, e.index) ∧ it.id = q.nextId ∧
            it.words.take 16 = cw ∧ (t.collOf x.target).queue = q.queue ++ [it] ∧ t.mem = s.m.mem)) ∧
        (∀ u, x.kind = 2 → s.m.ringUnit x = some u → (s.m.svOf (u - 180)).queue.length < 16 → svKind (wordsOf 16 d.bytes) = 0 →
          s.m.svEarly (wordsOf 16 d.bytes) = none → s.m.svCode (u - 180) (wordsOf 16 d.bytes) = 0 →
          Ends (.ringDesc ring idx d) s (fun t => t.outbox = asked.outbox ∧ ∃ it : SvItem, it.ring = some (r, e.index) ∧ it.words = wordsOf 16 d.bytes ∧
            (t.svOf (u - 180)).queue = (s.m.svOf (u - 180)).queue ++ [it] ∧ t.mem = s.m.mem)))) ∧
    (s.m.ringEntry r idx.toNat 7 = some e → e.placed = false → 0 < seLen e.words → seLen e.words ≤ 8128 → d.err = false →
      d.bytes.length = seLen e.words → (∀ f ∈ s.m.fab.tx, f.closed = false) →
      Ends (.ringSend ring idx d) s (fun t => ∃ pk : Packet, t.fab.offers = s.m.fab.offers ++ [⟨pk, .ring r e.index⟩] ∧
        pk.kind = 0 ∧ pk.tc = (if seTc0 e.words then 0 else 1) ∧ pk.index = BitVec.ofNat 13 (wfld e.words 4 28 16) ∧
        pk.dstX = BitVec.ofNat 8 (wfld e.words 4 7 0) ∧ pk.dstY = BitVec.ofNat 8 (wfld e.words 4 15 8) ∧
        pk.payload.take 16 = toBytes 8 (seMaddr e.words) ++ toBytes 8 (seLen e.words) ∧
        (pk.payload.drop 64).take (seLen e.words) = d.bytes ∧ t.outbox = asked.outbox ∧ t.mem = s.m.mem)) ∧
    (s.m.ringEntry r idx.toNat 8 = some e → s.m.keeperAnswers = true →
      (let a := s.m.kreqAnswer e.words
       let p := fun (t : Mach) => t.rings = (done s.m a.1 a.2.1).rings ∧ t.mem = s.m.mem ∧
        t.outbox = s.m.outbox ++ (if a.2.2 = [] then [] else [.hostWrite x.owner (w64 (seHaddr e.words)) a.2.2 false])
       (seKreq e.words = 1 → Ends (.kreqAttest ring idx) s p) ∧ (seKreq e.words = 2 → Ends (.kreqSparingMap ring idx) s p) ∧
       (seKreq e.words = 3 → Ends (.kreqFaultLog ring idx) s p)))

/-- R433, R446, R447, R449. A host port: its link comes up, unless the ROM self-test has failed, and goes down, PERST resets its
page and fails it, and without power is noted; a link that stays down for 100 ms fails it and orphans every ring that it owns; a write of
IFLEVEL chooses a level.
Where the spec leaves a point open, the model's choice or reading stands: log entries 14, 73, 76 and 77. -/
def Obligations.HostPorts : Prop :=
  ∀ (s : State) (h : HostId) (speed width : BitVec 4) (flit : Bool) (w : RegWrite), s.m.canonical = true →
    let p := hostPage h
    let x := s.m.port h
    Ends (.hostLinkDown h) s (fun t => t.live p Reg.HOST.LINK_SPEED = 0 ∧ t.live p Reg.HOST.LINK_WIDTH = 0 ∧
      t.live p Reg.HOST.LINK_FLIT = 0 ∧ t.mem = s.m.mem ∧
      t.host = (s.m.setPort h { x with linkUp := false, downSince := if x.linkUp then s.m.ticks else x.downSince }).host) ∧
    (s.m.power.on = false → Gives (.perstAssert h) s (s.m.setPort h { x with perst := true })) ∧
    (s.m.runs = true →
      (1 ≤ speed.toNat → speed.toNat ≤ 6 → (width = 1 ∨ width = 2 ∨ width = 4 ∨ width = 8) →
        Ends (.hostLinkUp h speed width flit) s (fun t => (t.port h).linkUp = true ∧ (t.port h).perst = false ∧
          t.live p Reg.HOST.LINK_SPEED = speed.toNat ∧ t.live p Reg.HOST.LINK_WIDTH = width.toNat ∧
          t.live p Reg.HOST.LINK_FLIT = (if flit then 1 else 0) ∧ t.mem = s.m.mem)) ∧
      Ends (.perstAssert h) s (fun t => (t.port h).perst = true ∧
        t.live p Reg.HOST.PORT_STATE_FAILED = 1 ∧ t.live p Reg.HOST.FAILURES = 1 ∧ t.live p Reg.HOST.IFLEVEL_CHOSEN = 0 ∧
        t.live p Reg.HOST.HEARTBEAT = 0 ∧ t.mem = s.m.mem) ∧
      (x.linkUp = false → x.downSince + 100000000 ≤ s.m.ticks → s.m.failed h = false →
        Ends (.linkDownTimeout h) s (fun t => t.live p Reg.HOST.PORT_STATE_FAILED = 1 ∧ t.live p Reg.HOST.IFLEVEL_CHOSEN = 0 ∧
          counted s.m t p Reg.HOST.FAILURES 1 ∧ bit (t.hdr (hostPage 0)).event 18 = true ∧
          bit (t.hdr (hostPage 1)).event 18 = true ∧ t.mem = s.m.mem ∧
          (∀ r : Nat, r < 8192 → ((s.m.ringOf r).owner = h → t.ringOf r = { s.m.ringOf r with state := .orphaned }) ∧
            ((s.m.ringOf r).owner ≠ h → t.ringOf r = s.m.ringOf r))))) ∧
    (s.m.power.on = true → s.m.power.dead = true → 1 ≤ speed.toNat → speed.toNat ≤ 6 →
      (width = 1 ∨ width = 2 ∨ width = 4 ∨ width = 8) → Gives (.hostLinkUp h speed width flit) s s.m) ∧
    (live s.m w p 0x908 = true → w.lanes = .full →
      (let lo := fld w.val 3 0
       let hi := fld w.val 7 4
       Ends (.iflevelWrite h w) s (fun t => t.live p Reg.HOST.IFLEVEL_MIN = lo ∧ t.live p Reg.HOST.IFLEVEL_MAX = hi ∧
        t.live p Reg.HOST.IFLEVEL_CHOSEN = (if lo ≤ min hi 3 ∧ lo ≤ hi then min hi 3 else 0) ∧
        ((hi < lo ∨ 3 < lo) → bit (t.hdr p).event 20 = true) ∧ t.mem = s.m.mem)))

/-- R448. A FAILED port of a module with power leaves FAILED exactly when PERST is deasserted, its link is up and an armed heartbeat
has changed since it failed; it then raises HOST_RECOVERED, and it regains no ring and no page.
Where the spec leaves a point open, the model's choice or reading stands: log entry 76. -/
def Obligations.FailedPortRecovers : Prop :=
  ∀ (s : State) (h : HostId), s.m.canonical = true → s.m.power.on = true → s.m.failed h = true →
    let p := hostPage h
    let x := s.m.port h
    Ends (.hostRecovered h) s (fun t =>
      (t.failed h = false ↔ x.perst = false ∧ x.linkUp = true ∧ (s.m.live p Reg.HOST.PORT_STATE_HB_ARMED = 1 → x.hbMoved = true)) ∧
      (t.failed h = false → bit (t.hdr p).event 19 = true) ∧ (t.failed h = true → t = s.m) ∧
      t.rings = s.m.rings ∧ (∀ q : Page, (t.hdr q).owner = (s.m.hdr q).owner) ∧ t.mem = s.m.mem)

/-! ## Power and boot (R452 to R468, R481 to R486) -/

/-- R452, R454, R485, R486. PWR_OK powers the module unless the rail is locked out: with a sound ROM and a passing image it is ready
with its contexts at reset and event 21; with none it is in RECOVERY; a failed ROM self-test leaves step 1 in progress, and nothing
further runs. The tray pins are read, and a host port whose PERST is asserted is FAILED. Power-off and
a rail below 45 V reset everything but the flash; the rail's return boots a module whose PWR_OK is high.
Where the spec leaves a point open, the model's choice or reading stands: log entries 1, 4, 79, 80 and 83. -/
def Obligations.PowerAndBoot : Prop :=
  ∀ (s : State) (rep : BootReport) (rd : PowerReading), bootOk rep = true →
    let f := s.m.power.flash
    let first := f.bootSel.getD false
    let lowered := fun (ok lock : Bool) (t : Mach) => t.power.on = false ∧ t.power.pwrOk = ok ∧ t.power.lockout = lock ∧
      t.power.flash = f ∧ t.regs = Mach.reset.regs ∧ t.hdrs = Mach.reset.hdrs ∧ t.mem = Mach.reset.mem ∧
      t.core = CoreSt.reset ∧ t.outbox = s.m.outbox ∧ t.power.trayPins = s.m.power.trayPins ∧ t.power.forced = s.m.power.forced
    let booted := fun (t : Mach) => t.power.on = true ∧ t.power.pwrOk = true ∧ t.power.lockout = false ∧ t.core = CoreSt.reset ∧
      t.live keepPage Reg.KEEP.TRAY_ID = s.m.power.trayPins.toNat ∧
      (∀ h : HostId, (s.m.port h).perst = true → t.live (hostPage h) Reg.HOST.PORT_STATE_FAILED = 1) ∧
      (rep.romOk = false → t.live secPage Reg.SEC.BOOT_STATE = 1 ∧ t.runs = false) ∧
      (rep.romOk = true → f.passes (f.image first) = true → t.live secPage Reg.SEC.BOOT_STATE = 0xA ∧
        t.live secPage Reg.SEC.READY_MS = rep.readyMs.toNat ∧ t.ready = true ∧ bit (t.hdr keepPage).event 21 = true) ∧
      (rep.romOk = true → f.passes f.imgA = false → f.passes f.imgB = false → t.live secPage Reg.SEC.BOOT_STATE = 0xB ∧
        t.live secPage Reg.SEC.SIG_FAILS = 2 ∧ t.ready = false)
    (s.m.power.pwrOk = true → Gives (.powerOn rep) s s.m) ∧
    (s.m.power.pwrOk = false → s.m.power.lockout = true →
      Gives (.powerOn rep) s { s.m with power := { s.m.power with pwrOk := true } }) ∧
    (s.m.power.pwrOk = false → s.m.power.lockout = false → Ends (.powerOn rep) s booted) ∧
    Ends .powerOff s (lowered false s.m.power.lockout) ∧
    (rd.millivoltDiv16.toNat * 16 < 45000 → s.m.power.lockout = false →
      Ends (.undervoltage rd) s (lowered s.m.power.pwrOk true)) ∧
    (45000 ≤ rd.millivoltDiv16.toNat * 16 → Gives (.undervoltage rd) s s.m) ∧
    (s.m.power.lockout = true → s.m.power.pwrOk = false →
      Gives (.undervoltageRecovery rep) s { s.m with power := { s.m.power with lockout := false } }) ∧
    (s.m.power.lockout = true → s.m.power.pwrOk = true → Ends (.undervoltageRecovery rep) s booted)

/-- R462 to R465. The power states: Idle after the idle time, back before a known instant; Entering on request and back on request;
Retain, counted, once the domain is calm, or drained when it is forced; Waking ends Active, or Entering where Retain is forced or was
asked for meanwhile; the pin forces a ready module toward Retain once a wake under way has ended, and its release wakes it.
Where the spec leaves a point open, the model's choice or reading stands: log entry 82. -/
def Obligations.PowerStates : Prop :=
  ∀ (s : State) (w : RegWrite), s.m.canonical = true →
    let st := s.m.live pwrPage Reg.PWR.STATE
    let us := s.m.act pwrPage Reg.PWR.PWRCTL_IDLE_US
    let goes := fun (v : Nat) => (s.m.setLive pwrPage Reg.PWR.STATE v).raise pwrPage 18
    (s.m.domainUp = true →
      (st = 1 → us ≠ 0 → s.m.power.busyAt + 1000 * us ≤ s.m.ticks → s.m.busy = false → Gives .idleEnter s (goes 2)) ∧
      (∀ t ∈ s.m.knownInstants, st = 2 → s.m.now < t → t ≤ s.m.now + 1000 → Gives .idleEarlyWake s (goes 1)) ∧
      (st = 4 → s.m.power.forced = false → s.m.busy = false → s.m.waitsForTime = false →
        Ends .retainEnter s (fun t => t.live pwrPage Reg.PWR.STATE = 3 ∧ counted s.m t pwrPage Reg.PWR.RETAIN_ENTRIES 1 ∧
          bit (t.hdr pwrPage).event 18 = true ∧ t.mem = s.m.mem ∧ t.core = s.m.core)) ∧
      (st = 4 → s.m.power.forced = true → s.m.drained = true →
        Ends .retainEnter s (fun t => t.live pwrPage Reg.PWR.STATE = 3 ∧ counted s.m t pwrPage Reg.PWR.RETAIN_ENTRIES 1 ∧
          bit (t.hdr pwrPage).event 18 = true ∧ bit (t.hdr pwrPage).event 19 = true ∧ t.mem = s.m.mem ∧
          t.core = s.m.core))) ∧
    (live s.m w pwrPage 0x908 = true → s.m.power.forced = false →
      (fld w.bits 1 0 = 1 → (st = 1 ∨ st = 2) → Gives (.retainRequest w) s (goes 4)) ∧
      (fld w.bits 1 0 = 1 → st = 5 → Gives (.retainRequest w) s { s.m with power := { s.m.power with again := true } }) ∧
      (fld w.bits 1 0 = 1 → st ≠ 1 → st ≠ 2 → st ≠ 5 → Gives (.retainRequest w) s s.m) ∧
      (fld w.bits 1 0 = 2 → st = 4 → Gives (.wakeRequest w) s (goes 1)) ∧
      (fld w.bits 1 0 = 2 → st = 3 → Gives (.wakeRequest w) s (goes 5)) ∧
      (fld w.bits 1 0 = 2 → st = 5 → Gives (.wakeRequest w) s { s.m with power := { s.m.power with again := false } }) ∧
      (fld w.bits 1 0 = 2 → st ≠ 3 → st ≠ 4 → st ≠ 5 → Gives (.wakeRequest w) s s.m)) ∧
    (st = 5 → s.m.chan.held = [] → s.m.host.bells = [] → s.m.power.forced = false → s.m.power.again = false →
      Gives .wakeDone s (goes 1)) ∧
    (st = 5 → Ends .wakeDone s (fun t => bit (t.hdr pwrPage).event 18 = true ∧ t.power.again = false ∧ t.host.bells = [] ∧
      ((s.m.power.forced = true ∨ s.m.power.again = true) → t.live pwrPage Reg.PWR.STATE = 4) ∧
      (s.m.power.forced = false → s.m.power.again = false → t.live pwrPage Reg.PWR.STATE = 1))) ∧
    (s.m.ready = true → s.m.runs = true →
      let pin := fun (v : Bool) (next : Nat) (t : Mach) => t.power.forced = v ∧
        t.live keepPage Reg.KEEP.FORCE_RETAIN = (if v then 1 else 0) ∧ t.live pwrPage Reg.PWR.STATE = next ∧ t.mem = s.m.mem ∧
        t.core = s.m.core
      (s.m.power.forced = false →
        ((st = 1 ∨ st = 2) → Ends .forceRetainAssert s (pin true 4)) ∧
        (st ≠ 1 → st ≠ 2 → Ends .forceRetainAssert s (fun t => pin true st t ∧
          (st = 3 → bit (t.hdr pwrPage).event 19 = true)))) ∧
      (s.m.power.forced = true →
        (st = 3 → Ends .forceRetainDeassert s (pin false 5)) ∧ (st = 4 → Ends .forceRetainDeassert s (pin false 1)) ∧
        (st ≠ 3 → st ≠ 4 → Ends .forceRetainDeassert s (pin false st))))

/-- R276, R459 to R461. A compute-domain reset clears the domain's memories, its pages and its contexts and keeps what lake and basin
hold; its end applies the region table of R276, and under an asserted FORCE_RETAIN_N Retain is entered next (R465). A PLL that loses lock is counted with event 16, the root PLL resetting both domains;
one that locks again is signalled with event 17, and one that does not in 10 ms is reported.
Where the spec leaves a point open, the model's choice or reading stands: log entries 75 and 83. -/
def Obligations.ComputeReset : Prop :=
  ∀ (s : State) (w : RegWrite) (rep : BootReport) (pll : BitVec 6), s.m.canonical = true →
    let p := pll.toNat
    let cleared := fun (bist : Bool) (t : Mach) => t.power.computeReset = true ∧ t.power.bist = bist ∧ t.core = CoreSt.reset ∧
      (∀ k, k < 2 ^ 48 → t.rdByte k = 0) ∧ (∀ k, 2 ^ 48 ≤ k → t.rdByte k = s.m.rdByte k) ∧
      t.live pwrPage Reg.PWR.STATE = 1 ∧ counted s.m t pwrPage Reg.PWR.COMPUTE_RESETS 1 ∧
      (∀ q : Page, q.ok = true → computeBlock q.blk = true → t.hdr q = hdrDefault q.num)
    (live s.m w pwrPage 0x910 = true → bit w.bits 0 = true → bit w.bits 1 = false → s.m.power.computeReset = false →
      Ends (.computeReset w) s (cleared (bit w.bits 2)) ∧ (bit w.bits 2 = true → Ends (.computeResetBist w) s (cleared true))) ∧
    (bootOk rep = true → s.m.power.computeReset = true → s.m.power.bist = false →
      Ends (.computeResetDone rep) s (fun t => t.power.computeReset = false ∧ t.mem = s.m.mem ∧
        t.act regionPage Reg.REGION.ENTRY_VALID 0 = 1 ∧ t.act regionPage Reg.REGION.ENTRY_MEM 0 = 0 ∧
        t.act regionPage Reg.REGION.ENTRY_BASE 0 = 0 ∧ t.act regionPage Reg.REGION.ENTRY_SIZE 0 = 285696 ∧
        t.act regionPage Reg.REGION.ENTRY_VALID 1 = 1 ∧ t.act regionPage Reg.REGION.ENTRY_MEM 1 = 1 ∧
        t.act regionPage Reg.REGION.ENTRY_BASE 1 = 0x80000 ∧ t.act regionPage Reg.REGION.ENTRY_SIZE 1 = 786432 ∧
        t.act regionPage Reg.REGION.ENTRY_VALID 2 = 0 ∧
        t.live pwrPage Reg.PWR.STATE = (if s.m.ready && s.m.power.forced && decide (s.m.live pwrPage Reg.PWR.STATE = 1) then 4
          else s.m.live pwrPage Reg.PWR.STATE))) ∧
    (s.m.runs = true → p ≤ 20 →
      (s.m.locked p = true →
        Ends (.pllUnlock pll) s (fun t => t.locked p = false ∧ counted s.m t clkPage Reg.CLK.UNLOCKS 1 ∧
          bit (t.hdr clkPage).event 16 = true ∧
          (p = 0 → t.power.computeReset = true ∧ t.power.routerReset = true) ∧ (1 ≤ p → t.mem = s.m.mem ∧ t.core = s.m.core) ∧
          (15 ≤ p → p < 19 → s.m.portUp (p - 15) = true → t.live (portPage (p - 15)) Reg.PORT.STATE = 0))) ∧
      (s.m.locked p = false →
        Ends (.pllRelock pll) s (fun t => t.locked p = true ∧ bit (t.hdr clkPage).event 17 = true ∧
          (∀ x ∈ pllTargets p, (t.chanOf x).retrain = true) ∧ t.mem = s.m.mem ∧ t.core = s.m.core)) ∧
      (∀ a, SMap.get s.m.power.pllAt (fun _ => none) p = some a → a + 10000000 ≤ s.m.ticks →
        Gives (.pllRelockTimeout pll) s ((s.m.setPllAt p none).report412 clkPage 0x11 p .retryFail false false)))

/-- R468. The governors: a_f of every field is the smallest of the three values; the cap goes down by one over the limit and up by one
100 W below it, the thermal value to 1 above T_HOT + 10 and down by one above T_HOT, and up by one below T_HOT − 5; 1 ms above
T_HOT + 15 resets the compute domain; a droop throttles its field to 8, and its recovery goes up by one.
Where the spec leaves a point open, the model's choice or reading stands: log entry 84. -/
def Obligations.Governors : Prop :=
  ∀ (s : State) (f : FieldId) (c : Int) (rd : PowerReading), s.m.canonical = true → s.m.runs = true →
    let cap := s.m.live pwrPage Reg.PWR.THROTTLE_A_CAP
    let lim := s.m.act pwrPage Reg.PWR.PWRCTL_LIMIT_W
    let cap' := if lim < rd.watts.toNat then max 1 (cap - 1) else if rd.watts.toNat + 100 < lim then min 16 (cap + 1) else cap
    let hot := s.m.tHot
    let old := s.m.thermValue f
    let least := fun (t : Mach) => ∀ g, g < 4 → t.live pwrPage (throttleField g) =
      min (t.live pwrPage Reg.PWR.THROTTLE_A_CAP) (min (t.thermValue g) (t.droopValue g)) % 32
    let therm := fun (v : Nat) => SMap.set s.m.power.therm (fun _ => 16) f v
    Ends (.powerCapMeasure rd) s (fun t => t.live pwrPage Reg.PWR.THROTTLE_A_CAP = cap' ∧ least t ∧
      t.live pwrPage Reg.PWR.INPUT_W = rd.watts.toNat ∧ t.live pwrPage Reg.PWR.IN = rd.coolantIn.toNat ∧
      (cap = 16 → cap' < 16 → bit (t.hdr pwrPage).event 16 = true)) ∧
    (hot + 10 < c → Ends (.thermal f c) s (fun t => t.power.therm = therm 1 ∧ least t)) ∧
    (hot < c → c ≤ hot + 10 → Ends (.thermal f c) s (fun t => t.power.therm = therm (max 1 (old - 1)) ∧ least t)) ∧
    (c ≤ hot → Ends (.thermal f c) s (fun t => t.power.therm = s.m.power.therm)) ∧
    (c < hot - 5 → Ends (.thermalRecovery f c) s (fun t => t.power.therm = therm (min 16 (old + 1)) ∧ least t)) ∧
    (∀ a, hot + 15 < c → SMap.get s.m.power.hotAt (fun _ => none) f = some a → a + 1000000 ≤ s.m.ticks →
      s.m.power.computeReset = false →
      Ends (.thermalTrip f c) s (fun t => t.power.computeReset = true ∧ counted s.m t pwrPage Reg.PWR.THERMAL_TRIPS 1 ∧
        bit (t.hdr pwrPage).event 17 = true)) ∧
    Ends (.droop f) s (fun t => t.power.droop = SMap.set s.m.power.droop (fun _ => 16) f 8 ∧ least t ∧
      bit (t.hdr rasPage).event 24 = true) ∧
    Ends (.droopRecovery f) s (fun t =>
      t.power.droop = SMap.set s.m.power.droop (fun _ => 16) f (min 16 (s.m.droopValue f + 1)) ∧ least t)

/-- R481 to R484. While the keeper runs, a change of the tray pins shows with event 22; an SMBus read answers one byte; a datagram of
64 bytes is answered with a completion entry, for a request with its output after it, in datagrams of at most 1,472 bytes; during a
handover it is held (R445), and in RECOVERY it is not answered (R454).
Where the spec leaves a point open, the model's choice or reading stands: log entries 8, 81 and 88. -/
def Obligations.Management : Prop :=
  ∀ (s : State) (id : BitVec 4) (code : Byte) (src : BitVec 64) (data : Bytes), s.m.keeperRuns = true →
    let pins : Mach := { s.m with power := { s.m.power with trayPins := id } }
    let w := wordsOf 8 data
    let entry := fun (c res : Nat) => toBytes 8 (ceWord 0 c (seTag w) false) ++ toBytes 8 res ++ toBytes 8 s.m.now ++ toBytes 8 0
    let sends := fun (d : Bytes) => Ends (.mgmtDatagram src data) s (fun t => ∃ ps : List Bytes,
      t = { s.m with outbox := s.m.outbox ++ ps.map (fun p => Out.datagram src p) } ∧ ps.flatten = d ∧
        ∀ p ∈ ps, p.length ≤ 1472)
    (s.m.live keepPage Reg.KEEP.TRAY_ID = id.toNat → Gives (.trayIdChange id) s pins) ∧
    (s.m.live keepPage Reg.KEEP.TRAY_ID ≠ id.toNat →
      Gives (.trayIdChange id) s ((pins.setLive keepPage Reg.KEEP.TRAY_ID id.toNat).raise keepPage 22)) ∧
    (∀ b, b = (match code.toNat with
        | 0 => s.m.live pwrPage Reg.PWR.STATE
        | 1 => s.m.live secPage Reg.SEC.BOOT_STATE
        | 2 => s.m.live pwrPage Reg.PWR.DIE_TEMP
        | 3 => s.m.live pwrPage Reg.PWR.IN
        | 4 => s.m.live pwrPage Reg.PWR.OUT
        | 5 => s.m.live pwrPage Reg.PWR.INPUT_W % 256
        | 6 => s.m.live pwrPage Reg.PWR.INPUT_W / 256
        | 7 => b2n (bit (s.m.hdr rasPage).event 21) + 2 * b2n (bit (s.m.hdr rasPage).event 20) +
            4 * b2n (bit (s.m.hdr pwrPage).event 17)
        | _ => 0xFF) →
      Gives (.smbusRead code) s { s.m with outbox := s.m.outbox ++ [.smbus (BitVec.ofNat 8 b)] }) ∧
    (data.length ≠ 64 ∨ s.m.inRecovery = true → Gives (.mgmtDatagram src data) s s.m) ∧
    (data.length = 64 → s.m.inRecovery = false → s.m.fwState = 3 →
      Gives (.mgmtDatagram src data) s { s.m with power := { s.m.power with mgmt := s.m.power.mgmt ++ [(src, data)] } }) ∧
    (data.length = 64 → s.m.inRecovery = false → s.m.fwState ≠ 3 →
      (seOp w ≠ 0 → seOp w ≠ 8 → sends (entry 0x02 0)) ∧
      ((seOp w = 0 ∨ seOp w = 8) → seReserved w = true → sends (entry 0x0C 0)) ∧
      (seOp w = 0 → seReserved w = false → sends (entry 0 0)) ∧
      (seOp w = 8 → seReserved w = false →
        sends (entry (s.m.kreqAnswer w).1 (s.m.kreqAnswer w).2.1 ++ (s.m.kreqAnswer w).2.2)))

/-! ## Pages (R27 to R40) -/

/-- R32 to R35. A staged write takes its value unless a commit is pending (event 3) or its offset is reserved; GO begins a check, and a
second GO, while it is checked or pending, raises event 2; the check ends with the commit pending or refused with the first rule it breaks; at its commit point the
staged set is in force as a whole with CONFIG_EPOCH one higher and event 1; ABORT drops it with reason 0x06 (where that ends the hold
of a REGION or POOL page, for a memory that holds no access).
Where the spec leaves a point open, the model's choice or reading stands: log entries 15, 16 and 17. -/
def Obligations.Commits : Prop :=
  ∀ (s : State) (p : Page) (off : BitVec 12) (w : RegWrite), s.m.canonical = true → p.ok = true →
    let h := s.m.hdr p
    let calm := (p.blk ≠ .region ∧ p.blk ≠ .pool) ∨ s.m.chan.held = []
    let code := goCode h (s.m.stagedReserved p) (s.m.consistent p h.scheduled (if h.scheduled then h.goTarget.toNat else s.m.now))
    (owner s.m w p = true →
      (0x100 ≤ off.toNat → off.toNat < 0x500 → off.toNat % 8 = 0 →
        (fieldsAt p.blk off.toNat = [] → Gives (.stagedWrite p off w) s (s.m.cfgReject p 2)) ∧
        (fieldsAt p.blk off.toNat ≠ [] → (h.pending = true ∨ h.checking = true) →
          Gives (.stagedWrite p off w) s (s.m.raise p 3)) ∧
        (fieldsAt p.blk off.toNat ≠ [] → h.pending = false → h.checking = false →
          Gives (.stagedWrite p off w) s (s.m.setReg p off.toNat (w.merge (s.m.reg p off.toNat))))) ∧
      (fld w.bits 7 6 = 0 → fld w.bits 63 16 = 0 →
        (bit w.bits 0 = true → bit w.bits 4 = false →
          (h.pending = true → Gives (.commitGo p w) s (s.m.raise p 2)) ∧
          (h.pending = false → h.checking = true → calm →
            Ends (.commitGo p w) s (fun t => t.hdr p = (s.m.raise p 2).hdr p ∧ t.regs = s.m.regs ∧ t.mem = s.m.mem)) ∧
          (h.pending = false → h.checking = false → calm →
            Ends (.commitGo p w) s (fun t => t.hdr p = { h with
              checking := true, scheduled := bit w.bits 1, goTarget := h.commitTime, goAt := s.m.time.ns,
              goValid := s.m.timeValid } ∧ t.regs = s.m.regs ∧ t.mem = s.m.mem))) ∧
        (bit w.bits 4 = true → (h.pending = true ∨ h.checking = true) → calm →
          Ends (.commitAbort p w) s (fun t =>
            t.hdr p = { h with pending := false, checking := false, rejected := true, reason := 0x06 } ∧ t.regs = s.m.regs ∧
            t.mem = s.m.mem)))) ∧
    (h.checking = true →
      Ends (.commitCheckDone p) s (fun t => (t.hdr p).checking = false ∧ (t.hdr p).reason = BitVec.ofNat 8 code ∧
        (code = 0 → (t.hdr p).pending = true ∧ (t.hdr p).rejected = false) ∧
        (code ≠ 0 → (t.hdr p).rejected = true ∧ bit (t.hdr p).event 0 = true) ∧ t.regs = s.m.regs ∧ t.mem = s.m.mem)) ∧
    (h.pending = true → (h.scheduled = true → h.goTarget.toNat ≤ s.m.now) → s.m.atCommitPoint p = true →
      (p.blk = .region → Gives (.commitApply p) s { s.m with chan := { s.m.chan with
        remap := true, early := if s.m.chan.remap then s.m.chan.early else s.m.chan.held.length } }) ∧
      (p.blk = .pool → Gives (.commitApply p) s { s.m with chan := { s.m.chan with
        scratchDue := SMap.set s.m.chan.scratchDue (fun _ => false) p.idx true } }) ∧
      (p.blk ≠ .region → p.blk ≠ .pool →
        Ends (.commitApply p) s (fun t => (t.hdr p).pending = false ∧ (t.hdr p).configEpoch = h.configEpoch + 1 ∧
          bit (t.hdr p).event 1 = true ∧ (∀ x ∈ stagedOffs p.blk, t.reg p (x + 0x400) = s.m.reg p x))))

/-- R27, R36, R38 to R40. OWNER is written by the owner, or by anyone once the owning port has failed; EVENT bits written as 1 clear;
EVENT_INJECT arms the detectors that report later. A write of any offset reaches the register there as its own command does; one from
the host that does not own the page is counted with event 16, one of a bad size or alignment with event 17; a register whose fields
are all read-only ignores it, and a reserved offset or bit is refused with 0x02.
Where the spec leaves a point open, the model's choice or reading stands: log entries 16, 44 and 87. -/
def Obligations.PageWrites : Prop :=
  ∀ (s : State) (p : Page) (w : RegWrite) (addr : BitVec 28) (bytes : Nat), s.m.canonical = true → p.ok = true →
    let h := s.m.hdr p
    let mine := owner s.m w p = true
    (bit w.cover 0 = true → fld w.bits 63 1 = 0 →
      (mine ∨ (s.m.runs = true ∧ s.m.ready = true ∧ s.m.live (hostPage h.port) Reg.HOST.PORT_STATE_FAILED = 1)) →
      Gives (.ownerWrite p w) s (s.m.setHdr p { h with owner := bit w.bits 0 })) ∧
    (mine →
      Gives (.eventClear p w) s (s.m.setHdr p { h with event := h.event &&& ~~~w.bits }) ∧
      (p.blk ≠ .ras → p.blk ≠ .clk →
        Gives (.eventInject p w) s (s.m.setHdr p { h with inject := h.inject ||| waitingBits p.blk w.bits })) ∧
      (p.blk = .ras → ∀ n, (n = 22 ∨ n = 23 ∨ n = 24) → bit w.bits n = true →
        Ends (.eventInject p w) s (fun t => bit (t.hdr rasPage).event n = true ∧ t.mem = s.m.mem))) ∧
    (s.m.runs = true →
      (lanesOf addr.toNat bytes = none → w.src = .hostA →
        Gives (.registerWrite w.src addr bytes w.val) s ((s.m.bump (hostPage 0) Reg.HOST.BAD_ACCESS_CNT).raise (hostPage 0) 17)) ∧
      (lanesOf addr.toNat bytes = some w.lanes →
        (pageAt (addr.toNat / 0x1000) = none → Gives (.registerWrite w.src addr bytes w.val) s s.m) ∧
        (∀ off : BitVec 12, off.toNat % 8 = 0 → addr.toNat / 8 * 8 = p.num * 0x1000 + off.toNat →
          let i := Instr.registerWrite w.src addr bytes w.val
          (off = 0x010 → exec i s = exec (.ownerWrite p w) s) ∧
          (off = 0x020 → exec i s = exec (.eventClear p w) s) ∧
          (off = 0x030 → exec i s = exec (.eventInject p w) s) ∧
          (0x100 ≤ off.toNat → off.toNat < 0x500 → exec i s = exec (.stagedWrite p off w) s) ∧
          (∀ x : HostId, off ≠ 0x010 → s.m.ready = true → writerPort w.src = some x → x ≠ h.port →
            Gives i s ((s.m.bump (hostPage x) Reg.HOST.NOT_OWNER_CNT).raise (hostPage x) 16)) ∧
          (mine →
            (off = 0x028 → Gives i s (s.m.setHdr p { h with eventEn := w.merge h.eventEn })) ∧
            (off = 0x040 → Gives i s (s.m.setHdr p { h with commitTime := w.merge h.commitTime })) ∧
            (0x900 ≤ off.toNat →
              (fieldsAt p.blk off.toNat = [] → Gives i s (s.m.cfgReject p 2)) ∧
              (fieldsAt p.blk off.toNat ≠ [] → (heldBits p.blk off.toNat ||| commandBits p.blk off.toNat) = 0 →
                clearBits p.blk off.toNat = 0 → Gives i s s.m) ∧
              (fieldsAt p.blk off.toNat ≠ [] → (heldBits p.blk off.toNat ||| commandBits p.blk off.toNat) ≠ 0 →
                clean p off.toNat w = false → Gives i s (s.m.cfgReject p 2)) ∧
              (p.blk = .host → off = 0xA00 → clean p 0xA00 w = true → w.lanes = .full →
                Ends i s (fun t => t.live p Reg.HOST.BASE = fld w.val 17 0 ∧ t.hdrs = s.m.hdrs ∧ t.mem = s.m.mem)))))))

/-- R32. A write to the staged area that its page accepts changes only the staged register that it names: no configuration in force
and nothing else of the machine changes; two such writes of different registers give the same machine in either order; and when a
commit takes effect, every staged register of the page comes into force with it: REGION's at the remap, once the accesses accepted before
it have completed, and that of a POOL page, which has one staged register, when its slice is free.
Where the spec leaves a point open, the model's choice or reading stands: log entries 15 and 17. -/
def Obligations.StagedWritesChangeOnlyStaged : Prop :=
  ∀ (s : State) (p : Page) (off off' : BitVec 12) (w w' : RegWrite), s.m.canonical = true → p.ok = true →
    let takes := fun (o : BitVec 12) (v : RegWrite) => owner s.m v p = true ∧ 0x100 ≤ o.toNat ∧ o.toNat < 0x500 ∧
      o.toNat % 8 = 0 ∧ fieldsAt p.blk o.toNat ≠ []
    (takes off w → (s.m.hdr p).pending = false → (s.m.hdr p).checking = false →
     Ends (.stagedWrite p off w) s (fun t => t.reg p off.toNat = w.merge (s.m.reg p off.toNat) ∧
      (∀ (q : Page) (x : Nat), x < 0x1000 → q.ok = true → (q ≠ p ∨ x ≠ off.toNat) → t.reg q x = s.m.reg q x) ∧
      (∀ (q : Page) (f : Fld) (i : Nat), q.ok = true → f ∈ Reg.fields q.blk → f.acc = .st → i < f.count →
        t.act q f i = s.m.act q f i) ∧
      t = { s.m with regs := t.regs } ∧
      (takes off' w' → off ≠ off' → ∃ a, exec (.stagedWrite p off' w') { s with m := t } = .next a ∧
        ∃ b, exec (.stagedWrite p off' w') s = .next b ∧ exec (.stagedWrite p off w) b = .next a))) ∧
    (∀ n : Mach, n.canonical = true → (n.hdr p).pending = true → ((n.hdr p).scheduled = true → (n.hdr p).goTarget.toNat ≤ n.now) →
      n.atCommitPoint p = true → p.blk ≠ .region → p.blk ≠ .pool →
      Ends (.commitApply p) { s with m := n } (fun t => ∀ x ∈ stagedOffs p.blk, t.reg p (x + 0x400) = n.reg p x)) ∧
    (∀ n : Mach, n.canonical = true → (n.hdr regionPage).pending = true → n.chan.remap = true →
      n.remapBusy = false →
      Ends .regionRemapApply { s with m := n } (fun t => ∀ x ∈ stagedOffs .region, t.reg regionPage (x + 0x400) = n.reg regionPage x)) ∧
    (∀ (n : Mach) (sl : SliceId), n.canonical = true → (n.hdr (poolPage sl)).pending = true →
      SMap.get n.chan.scratchDue (fun _ => false) sl = true → n.sliceBusy sl = false →
      Ends (.poolScratchApply sl) { s with m := n } (fun t =>
        ∀ x ∈ stagedOffs .pool, t.reg (poolPage sl) (x + 0x400) = n.reg (poolPage sl) x))
end

