-- ==== Sys2Proof/Laws/Map.lean ====
section
/-! SUPPORT. The sorted lists: what a key reads as after a write, and that writes and filters keep the canonical form. -/

namespace Sys2Proof.Machine

variable {α : Type}

/-! ## Reading after a write -/

theorem SMap.find?_insert_same (l : SMap α) (k : Nat) (v : α) : SMap.find? (SMap.insert l k v) k = some v := by
  induction l with
  | nil => simp [SMap.insert, SMap.find?]
  | cons e l ih =>
    obtain ⟨k', v'⟩ := e
    by_cases h1 : k < k'
    · simp [SMap.insert, h1, SMap.find?]
    · by_cases h2 : k' = k <;> simp [SMap.insert, h1, h2, SMap.find?, ih]

theorem SMap.find?_insert_other (l : SMap α) (k j : Nat) (v : α) (h : j ≠ k) :
    SMap.find? (SMap.insert l k v) j = SMap.find? l j := by
  have h' : ¬k = j := fun e => h e.symm
  induction l with
  | nil => simp [SMap.insert, SMap.find?, h']
  | cons e l ih =>
    obtain ⟨k', v'⟩ := e
    by_cases h1 : k < k'
    · simp [SMap.insert, h1, SMap.find?, h']
    · by_cases h2 : k' = k
      · subst h2; simp [SMap.insert, SMap.find?, h']
      · rw [SMap.insert, if_neg h1, if_neg h2, SMap.find?, SMap.find?, ih]

theorem SMap.find?_erase_other (l : SMap α) (k j : Nat) (h : j ≠ k) : SMap.find? (SMap.erase l k) j = SMap.find? l j := by
  have h' : ¬k = j := fun e => h e.symm
  induction l with
  | nil => simp [SMap.erase]
  | cons e l ih =>
    obtain ⟨k', v'⟩ := e
    by_cases h2 : k' = k
    · subst h2; simp [SMap.erase, SMap.find?, h']
    · rw [SMap.erase, if_neg h2, SMap.find?, SMap.find?, ih]

/-- A write leaves every other key as it was. -/
theorem SMap.get_set_other [DecidableEq α] (l : SMap α) (d : Nat → α) (k j : Nat) (v : α) (h : j ≠ k) :
    SMap.get (SMap.set l d k v) d j = SMap.get l d j := by
  unfold SMap.get SMap.set
  split
  · rw [SMap.find?_erase_other l k j h]
  · rw [SMap.find?_insert_other l k j v h]

/-! ## The canonical form -/

/-- A key stands above a bound. -/
def SMap.above : Option Nat → Nat → Prop
  | none, _ => True
  | some b, k => b < k

theorem SMap.wfFrom_cons [DecidableEq α] (d : Nat → α) (lo : Option Nat) (k : Nat) (v : α) (l : SMap α) :
    SMap.wfFrom d lo ((k, v) :: l) = true ↔ SMap.above lo k ∧ v ≠ d k ∧ SMap.wfFrom d (some k) l = true := by
  cases lo <;> simp [SMap.wfFrom, SMap.above, and_assoc]

theorem SMap.wfFrom_mono [DecidableEq α] (d : Nat → α) {lo : Option Nat} {b : Nat} {l : SMap α}
    (h : SMap.wfFrom d (some b) l = true) (hb : SMap.above lo b) : SMap.wfFrom d lo l = true := by
  cases l with
  | nil => rfl
  | cons e l =>
    obtain ⟨k, v⟩ := e
    rw [SMap.wfFrom_cons] at h ⊢
    refine ⟨?_, h.2⟩
    cases lo with
    | none => trivial
    | some a => exact Nat.lt_trans hb h.1

theorem SMap.wfFrom_none [DecidableEq α] (d : Nat → α) {lo : Option Nat} {l : SMap α} (h : SMap.wfFrom d lo l = true) :
    SMap.wf l d = true := by
  cases lo with
  | none => exact h
  | some b => exact SMap.wfFrom_mono d h trivial

theorem SMap.find?_of_wfFrom [DecidableEq α] (d : Nat → α) {b k : Nat} {l : SMap α} (h : SMap.wfFrom d (some b) l = true)
    (hk : k ≤ b) : SMap.find? l k = none := by
  induction l generalizing b with
  | nil => rfl
  | cons e l ih =>
    obtain ⟨k', v⟩ := e
    rw [SMap.wfFrom_cons] at h
    have h1 : b < k' := h.1
    rw [SMap.find?, if_neg (by omega), ih h.2.2 (by omega)]

theorem SMap.wfFrom_erase [DecidableEq α] (d : Nat → α) (lo : Option Nat) (l : SMap α) (k : Nat)
    (h : SMap.wfFrom d lo l = true) : SMap.wfFrom d lo (SMap.erase l k) = true := by
  induction l generalizing lo with
  | nil => rfl
  | cons e l ih =>
    obtain ⟨k', v⟩ := e
    rw [SMap.wfFrom_cons] at h
    by_cases hk : k' = k
    · rw [SMap.erase, if_pos hk]; exact SMap.wfFrom_mono d h.2.2 h.1
    · rw [SMap.erase, if_neg hk, SMap.wfFrom_cons]; exact ⟨h.1, h.2.1, ih _ h.2.2⟩

theorem SMap.wfFrom_insert [DecidableEq α] (d : Nat → α) (lo : Option Nat) (l : SMap α) (k : Nat) (v : α)
    (h : SMap.wfFrom d lo l = true) (hk : SMap.above lo k) (hv : v ≠ d k) : SMap.wfFrom d lo (SMap.insert l k v) = true := by
  induction l generalizing lo with
  | nil => rw [SMap.insert, SMap.wfFrom_cons]; exact ⟨hk, hv, rfl⟩
  | cons e l ih =>
    obtain ⟨k', v'⟩ := e
    rw [SMap.wfFrom_cons] at h
    by_cases h1 : k < k'
    · rw [SMap.insert, if_pos h1, SMap.wfFrom_cons, SMap.wfFrom_cons]
      exact ⟨hk, hv, h1, h.2⟩
    · by_cases h2 : k' = k
      · subst h2
        rw [SMap.insert, if_neg h1, if_pos rfl, SMap.wfFrom_cons]
        exact ⟨h.1, hv, h.2.2⟩
      · rw [SMap.insert, if_neg h1, if_neg h2, SMap.wfFrom_cons]
        exact ⟨h.1, h.2.1, ih _ h.2.2 (show k' < k by omega)⟩

/-- A write keeps the canonical form. -/
theorem SMap.wf_set [DecidableEq α] (l : SMap α) (d : Nat → α) (k : Nat) (v : α) (h : SMap.wf l d = true) :
    SMap.wf (SMap.set l d k v) d = true := by
  unfold SMap.set
  split
  · exact SMap.wfFrom_erase d none l k h
  · exact SMap.wfFrom_insert d none l k v h trivial ‹_›

/-- A removal keeps it. -/
theorem SMap.wf_erase [DecidableEq α] (l : SMap α) (d : Nat → α) (k : Nat) (h : SMap.wf l d = true) :
    SMap.wf (SMap.erase l k) d = true := SMap.wfFrom_erase d none l k h

/-- A filter by keys keeps it. -/
theorem SMap.wf_keep [DecidableEq α] (p : Nat → Bool) (l : SMap α) (d : Nat → α) (h : SMap.wf l d = true) :
    SMap.wf (SMap.keep p l) d = true := by
  have hf : ∀ lo, SMap.wfFrom d lo l = true → SMap.wfFrom d lo (SMap.keep p l) = true := by
    intro lo hl
    induction l generalizing lo with
    | nil => rfl
    | cons e l ih =>
      obtain ⟨k, v⟩ := e
      have h' := (SMap.wfFrom_cons d lo k v l).mp hl
      by_cases hp : p k = true
      · rw [SMap.keep, List.filter_cons_of_pos (by exact hp), SMap.wfFrom_cons]
        exact ⟨h'.1, h'.2.1, ih (SMap.wfFrom_none d h'.2.2) _ h'.2.2⟩
      · rw [SMap.keep, List.filter_cons_of_neg (by exact hp)]
        exact SMap.wfFrom_mono d (ih (SMap.wfFrom_none d h'.2.2) _ h'.2.2) h'.1
  exact hf none h

/-- Writes in a row keep it. -/
theorem SMap.wf_foldl [DecidableEq α] {β : Type} (d : Nat → α) (f : SMap α → β → SMap α)
    (hf : ∀ l b, SMap.wf l d = true → SMap.wf (f l b) d = true) (bs : List β) (l : SMap α) (h : SMap.wf l d = true) :
    SMap.wf (bs.foldl f l) d = true := by
  induction bs generalizing l with
  | nil => exact h
  | cons b bs ih => exact ih _ (hf l b h)

/-- In a canonical list a key reads as what was written to it. -/
theorem SMap.get_set_same [DecidableEq α] (l : SMap α) (d : Nat → α) (k : Nat) (v : α) (h : SMap.wf l d = true) :
    SMap.get (SMap.set l d k v) d k = v := by
  unfold SMap.get SMap.set
  split
  · rename_i hv
    have hn : ∀ lo, SMap.wfFrom d lo l = true → SMap.find? (SMap.erase l k) k = none := by
      intro lo hl
      induction l generalizing lo with
      | nil => rfl
      | cons e l ih =>
        obtain ⟨k', v'⟩ := e
        have h' := (SMap.wfFrom_cons d lo k' v' l).mp hl
        by_cases hk : k' = k
        · rw [SMap.erase, if_pos hk]; exact SMap.find?_of_wfFrom d h'.2.2 (by omega)
        · rw [SMap.erase, if_neg hk, SMap.find?, if_neg hk]; exact ih (SMap.wfFrom_none d h'.2.2) _ h'.2.2
    rw [hn none h]; simp [hv]
  · rw [SMap.find?_insert_same]; rfl

end Sys2Proof.Machine
end

