-- ==== Sys2Proof/Laws/Memory.lean ====
section
/-! SUPPORT. Every operation on the memories and their poison marks keeps the canonical form. -/

namespace Sys2Proof.Machine

theorem memPut_wf (d : Bytes) (mem : SMap Byte) (k : Nat) (h : SMap.wf mem memDefault = true) :
    SMap.wf (memPut mem k d) memDefault = true := by
  induction d generalizing mem k with
  | nil => exact h
  | cons b d ih => exact ih _ _ (SMap.wf_set mem memDefault k b h)

theorem marksAfter_wf (po : SMap Bool) (k n : Nat) (bad : Bool) (h : SMap.wf po (fun _ => false) = true) :
    SMap.wf (marksAfter po k n bad) (fun _ => false) = true := by
  refine SMap.wf_foldl _ _ ?_ _ _ h
  intro l w hl
  split
  · exact SMap.wf_set l _ w true hl
  · split
    · exact SMap.wf_set l _ w false hl
    · exact hl

theorem memoryWf_iff (m : Mach) :
    m.memoryWf = true ↔ SMap.wf m.mem memDefault = true ∧ SMap.wf m.poison (fun _ => false) = true := by
  simp [Mach.memoryWf]

/-- A write of bytes. -/
theorem wrBytes_memoryWf (m : Mach) (k : Nat) (d : Bytes) (bad : Bool) (h : m.memoryWf = true) :
    (m.wrBytes k d bad).memoryWf = true := by
  rw [memoryWf_iff] at h ⊢
  exact ⟨memPut_wf d _ k h.1, marksAfter_wf _ k _ bad h.2⟩

/-- A write of a number. -/
theorem wrNum_memoryWf (m : Mach) (k n v : Nat) (bad : Bool) (h : m.memoryWf = true) : (m.wrNum k n v bad).memoryWf = true :=
  wrBytes_memoryWf m k _ bad h

/-- Memories of which only some keys are kept. -/
theorem keepMemory_memoryWf (m t : Mach) (p q : Nat → Bool) (h : m.memoryWf = true) (hm : t.mem = SMap.keep p m.mem)
    (hp : t.poison = SMap.keep q m.poison) : t.memoryWf = true := by
  rw [memoryWf_iff] at h ⊢
  rw [hm, hp]
  exact ⟨SMap.wf_keep _ _ _ h.1, SMap.wf_keep _ _ _ h.2⟩

/-- A range that reads zero again. -/
theorem clearKeys_memoryWf (m : Mach) (lo hi : Nat) (h : m.memoryWf = true) : (m.clearKeys lo hi).memoryWf = true := by
  unfold Mach.clearKeys
  exact keepMemory_memoryWf m _ (fun k => decide (k < lo ∨ hi ≤ k)) (fun k => decide (8 * k < lo ∨ hi ≤ 8 * k)) h rfl rfl

/-- A stored block that is marked poisoned. -/
theorem poisonBlock_memoryWf (m : Mach) (b : MemBlock) (h : m.memoryWf = true) : (m.poisonBlock b).memoryWf = true := by
  rw [memoryWf_iff] at h ⊢
  exact ⟨h.1, marksAfter_wf _ _ _ _ h.2⟩

/-- The copy of a range of a retired channel. -/
theorem copyRange_memoryWf (m : Mach) (k lo hi : Nat) (h : m.memoryWf = true) : (m.copyRange k lo hi).memoryWf = true := by
  rw [memoryWf_iff] at h ⊢
  refine ⟨SMap.wf_foldl _ _ ?_ _ _ (SMap.wf_keep _ _ _ h.1), SMap.wf_foldl _ _ ?_ _ _ (SMap.wf_keep _ _ _ h.2)⟩
  all_goals
    intro l e hl
    split
    · exact SMap.wf_set _ _ _ _ hl
    · exact hl

/-- The ponds that are cleared when the module leaves test mode. -/
theorem leaveTest_memoryWf (m : Mach) (h : m.memoryWf = true) : m.leaveTest.memoryWf = true := by
  unfold Mach.leaveTest
  exact keepMemory_memoryWf m _ (fun k => !(decide (k < 204 * 2 ^ 24) && !m.inService (k / 2 ^ 24)))
    (fun k => !(decide (8 * k < 204 * 2 ^ 24) && !m.inService (8 * k / 2 ^ 24))) h rfl rfl

/-- A list without the entries that a test on keys rejects. -/
theorem wf_filter_key {α : Type} [DecidableEq α] (p : Nat → Bool) (l : SMap α) (d : Nat → α) (h : SMap.wf l d = true) :
    SMap.wf (l.filter (fun e => p e.1)) d = true := SMap.wf_keep p l d h

theorem wfFrom_values {α : Type} [DecidableEq α] (d : Nat → α) (lo : Option Nat) (l : SMap α) (h : SMap.wfFrom d lo l = true) :
    ∀ e ∈ l, e.2 ≠ d e.1 := by
  induction l generalizing lo with
  | nil => intro e he; cases he
  | cons e l ih =>
    obtain ⟨k, v⟩ := e
    rw [SMap.wfFrom_cons] at h
    intro x hx
    cases List.mem_cons.mp hx with
    | inl hx => subst hx; exact h.2.1
    | inr hx => exact ih _ h.2.2 x hx

/-- A range that moves, where every key reads as the same value when it is not listed. -/
theorem wf_move {α : Type} [DecidableEq α] (c : α) (l : SMap α) (a b n : Nat) (h : SMap.wf l (fun _ => c) = true) :
    SMap.wf (SMap.move l a b n) (fun _ => c) = true := by
  have hv : ∀ e ∈ l.filter (fun e => decide (a ≤ e.1 ∧ e.1 < a + n)), e.2 ≠ c := fun e he =>
    wfFrom_values (fun _ => c) none l h e (List.mem_filter.mp he).1
  have h0 := wf_filter_key (fun k => !decide (a ≤ k ∧ k < a + n) && !decide (b ≤ k ∧ k < b + n)) l (fun _ => c) h
  unfold SMap.move
  generalize l.filter (fun e => decide (a ≤ e.1 ∧ e.1 < a + n)) = es at hv
  generalize l.filter (fun e => !decide (a ≤ e.1 ∧ e.1 < a + n) && !decide (b ≤ e.1 ∧ e.1 < b + n)) = t at h0
  induction es generalizing t with
  | nil => exact h0
  | cons e es ih =>
    refine ih (fun x hx => hv x (List.mem_cons_of_mem _ hx)) _ ?_
    exact SMap.wfFrom_insert _ none t _ _ h0 trivial (hv e List.mem_cons_self)

/-- What a unit holds moves to another. -/
theorem moveMemory_memoryWf (m t : Mach) (u v : Nat) (h : m.memoryWf = true)
    (hm : t.mem = SMap.move m.mem (u * 2 ^ 24) (v * 2 ^ 24) (2 ^ 24))
    (hp : t.poison = SMap.move m.poison (u * 2 ^ 21) (v * 2 ^ 21) (2 ^ 21)) : t.memoryWf = true := by
  rw [memoryWf_iff] at h ⊢
  rw [hm, hp]
  exact ⟨wf_move 0 _ _ _ _ h.1, wf_move false _ _ _ _ h.2⟩

/-- The memories after reset list nothing. -/
theorem reset_memoryWf : Mach.reset.memoryWf = true := rfl

end Sys2Proof.Machine
end

