-- ==== Sys2Proof/Laws/State.lean ====
section
/-! SUPPORT. What each update of the state leaves as it was: one lemma for each part of the machine that the update does not name,
so that no proof unfolds a record update. -/

namespace Sys2Proof.Machine

/-! send -/

@[simp] theorem Mach.send_ticks (m : Mach) (o : Out) : (m.send o).ticks = m.ticks := rfl
@[simp] theorem Mach.send_fresh (m : Mach) (o : Out) : (m.send o).fresh = m.fresh := rfl
@[simp] theorem Mach.send_hdrs (m : Mach) (o : Out) : (m.send o).hdrs = m.hdrs := rfl
@[simp] theorem Mach.send_regs (m : Mach) (o : Out) : (m.send o).regs = m.regs := rfl
@[simp] theorem Mach.send_shadow (m : Mach) (o : Out) : (m.send o).shadow = m.shadow := rfl
@[simp] theorem Mach.send_mem (m : Mach) (o : Out) : (m.send o).mem = m.mem := rfl
@[simp] theorem Mach.send_poison (m : Mach) (o : Out) : (m.send o).poison = m.poison := rfl
@[simp] theorem Mach.send_core (m : Mach) (o : Out) : (m.send o).core = m.core := rfl
@[simp] theorem Mach.send_queue (m : Mach) (o : Out) : (m.send o).queue = m.queue := rfl
@[simp] theorem Mach.send_spare (m : Mach) (o : Out) : (m.send o).spare = m.spare := rfl
@[simp] theorem Mach.send_time (m : Mach) (o : Out) : (m.send o).time = m.time := rfl
@[simp] theorem Mach.send_host (m : Mach) (o : Out) : (m.send o).host = m.host := rfl
@[simp] theorem Mach.send_power (m : Mach) (o : Out) : (m.send o).power = m.power := rfl
@[simp] theorem Mach.send_mx (m : Mach) (o : Out) : (m.send o).mx = m.mx := rfl
@[simp] theorem Mach.send_train (m : Mach) (o : Out) : (m.send o).train = m.train := rfl
@[simp] theorem Mach.send_ras (m : Mach) (o : Out) : (m.send o).ras = m.ras := rfl
@[simp] theorem Mach.send_chan (m : Mach) (o : Out) : (m.send o).chan = m.chan := rfl
@[simp] theorem Mach.send_dma (m : Mach) (o : Out) : (m.send o).dma = m.dma := rfl
@[simp] theorem Mach.send_dig (m : Mach) (o : Out) : (m.send o).dig = m.dig := rfl
@[simp] theorem Mach.send_chk (m : Mach) (o : Out) : (m.send o).chk = m.chk := rfl
@[simp] theorem Mach.send_sv (m : Mach) (o : Out) : (m.send o).sv = m.sv := rfl
@[simp] theorem Mach.send_rings (m : Mach) (o : Out) : (m.send o).rings = m.rings := rfl
@[simp] theorem Mach.send_fab (m : Mach) (o : Out) : (m.send o).fab = m.fab := rfl
@[simp] theorem Mach.send_coll (m : Mach) (o : Out) : (m.send o).coll = m.coll := rfl

/-! stir -/

@[simp] theorem Mach.stir_ticks (m : Mach) : (m.stir).ticks = m.ticks := rfl
@[simp] theorem Mach.stir_outbox (m : Mach) : (m.stir).outbox = m.outbox := rfl
@[simp] theorem Mach.stir_hdrs (m : Mach) : (m.stir).hdrs = m.hdrs := rfl
@[simp] theorem Mach.stir_regs (m : Mach) : (m.stir).regs = m.regs := rfl
@[simp] theorem Mach.stir_shadow (m : Mach) : (m.stir).shadow = m.shadow := rfl
@[simp] theorem Mach.stir_mem (m : Mach) : (m.stir).mem = m.mem := rfl
@[simp] theorem Mach.stir_poison (m : Mach) : (m.stir).poison = m.poison := rfl
@[simp] theorem Mach.stir_core (m : Mach) : (m.stir).core = m.core := rfl
@[simp] theorem Mach.stir_queue (m : Mach) : (m.stir).queue = m.queue := rfl
@[simp] theorem Mach.stir_spare (m : Mach) : (m.stir).spare = m.spare := rfl
@[simp] theorem Mach.stir_time (m : Mach) : (m.stir).time = m.time := rfl
@[simp] theorem Mach.stir_host (m : Mach) : (m.stir).host = m.host := rfl
@[simp] theorem Mach.stir_power (m : Mach) : (m.stir).power = m.power := rfl
@[simp] theorem Mach.stir_mx (m : Mach) : (m.stir).mx = m.mx := rfl
@[simp] theorem Mach.stir_train (m : Mach) : (m.stir).train = m.train := rfl
@[simp] theorem Mach.stir_ras (m : Mach) : (m.stir).ras = m.ras := rfl
@[simp] theorem Mach.stir_chan (m : Mach) : (m.stir).chan = m.chan := rfl
@[simp] theorem Mach.stir_dma (m : Mach) : (m.stir).dma = m.dma := rfl
@[simp] theorem Mach.stir_dig (m : Mach) : (m.stir).dig = m.dig := rfl
@[simp] theorem Mach.stir_chk (m : Mach) : (m.stir).chk = m.chk := rfl
@[simp] theorem Mach.stir_sv (m : Mach) : (m.stir).sv = m.sv := rfl
@[simp] theorem Mach.stir_rings (m : Mach) : (m.stir).rings = m.rings := rfl
@[simp] theorem Mach.stir_fab (m : Mach) : (m.stir).fab = m.fab := rfl
@[simp] theorem Mach.stir_coll (m : Mach) : (m.stir).coll = m.coll := rfl

/-! setReg -/

@[simp] theorem Mach.setReg_ticks (m : Mach) (p : Page) (off : Nat) (v : Word) : (m.setReg p off v).ticks = m.ticks := rfl
@[simp] theorem Mach.setReg_fresh (m : Mach) (p : Page) (off : Nat) (v : Word) : (m.setReg p off v).fresh = m.fresh := rfl
@[simp] theorem Mach.setReg_outbox (m : Mach) (p : Page) (off : Nat) (v : Word) : (m.setReg p off v).outbox = m.outbox := rfl
@[simp] theorem Mach.setReg_hdrs (m : Mach) (p : Page) (off : Nat) (v : Word) : (m.setReg p off v).hdrs = m.hdrs := rfl
@[simp] theorem Mach.setReg_shadow (m : Mach) (p : Page) (off : Nat) (v : Word) : (m.setReg p off v).shadow = m.shadow := rfl
@[simp] theorem Mach.setReg_mem (m : Mach) (p : Page) (off : Nat) (v : Word) : (m.setReg p off v).mem = m.mem := rfl
@[simp] theorem Mach.setReg_poison (m : Mach) (p : Page) (off : Nat) (v : Word) : (m.setReg p off v).poison = m.poison := rfl
@[simp] theorem Mach.setReg_core (m : Mach) (p : Page) (off : Nat) (v : Word) : (m.setReg p off v).core = m.core := rfl
@[simp] theorem Mach.setReg_queue (m : Mach) (p : Page) (off : Nat) (v : Word) : (m.setReg p off v).queue = m.queue := rfl
@[simp] theorem Mach.setReg_spare (m : Mach) (p : Page) (off : Nat) (v : Word) : (m.setReg p off v).spare = m.spare := rfl
@[simp] theorem Mach.setReg_time (m : Mach) (p : Page) (off : Nat) (v : Word) : (m.setReg p off v).time = m.time := rfl
@[simp] theorem Mach.setReg_host (m : Mach) (p : Page) (off : Nat) (v : Word) : (m.setReg p off v).host = m.host := rfl
@[simp] theorem Mach.setReg_power (m : Mach) (p : Page) (off : Nat) (v : Word) : (m.setReg p off v).power = m.power := rfl
@[simp] theorem Mach.setReg_mx (m : Mach) (p : Page) (off : Nat) (v : Word) : (m.setReg p off v).mx = m.mx := rfl
@[simp] theorem Mach.setReg_train (m : Mach) (p : Page) (off : Nat) (v : Word) : (m.setReg p off v).train = m.train := rfl
@[simp] theorem Mach.setReg_ras (m : Mach) (p : Page) (off : Nat) (v : Word) : (m.setReg p off v).ras = m.ras := rfl
@[simp] theorem Mach.setReg_chan (m : Mach) (p : Page) (off : Nat) (v : Word) : (m.setReg p off v).chan = m.chan := rfl
@[simp] theorem Mach.setReg_dma (m : Mach) (p : Page) (off : Nat) (v : Word) : (m.setReg p off v).dma = m.dma := rfl
@[simp] theorem Mach.setReg_dig (m : Mach) (p : Page) (off : Nat) (v : Word) : (m.setReg p off v).dig = m.dig := rfl
@[simp] theorem Mach.setReg_chk (m : Mach) (p : Page) (off : Nat) (v : Word) : (m.setReg p off v).chk = m.chk := rfl
@[simp] theorem Mach.setReg_sv (m : Mach) (p : Page) (off : Nat) (v : Word) : (m.setReg p off v).sv = m.sv := rfl
@[simp] theorem Mach.setReg_rings (m : Mach) (p : Page) (off : Nat) (v : Word) : (m.setReg p off v).rings = m.rings := rfl
@[simp] theorem Mach.setReg_fab (m : Mach) (p : Page) (off : Nat) (v : Word) : (m.setReg p off v).fab = m.fab := rfl
@[simp] theorem Mach.setReg_coll (m : Mach) (p : Page) (off : Nat) (v : Word) : (m.setReg p off v).coll = m.coll := rfl

/-! setLive -/

@[simp] theorem Mach.setLive_ticks (m : Mach) (p : Page) (f : Fld) (v i : Nat) : (m.setLive p f v i).ticks = m.ticks := rfl
@[simp] theorem Mach.setLive_fresh (m : Mach) (p : Page) (f : Fld) (v i : Nat) : (m.setLive p f v i).fresh = m.fresh := rfl
@[simp] theorem Mach.setLive_outbox (m : Mach) (p : Page) (f : Fld) (v i : Nat) : (m.setLive p f v i).outbox = m.outbox := rfl
@[simp] theorem Mach.setLive_hdrs (m : Mach) (p : Page) (f : Fld) (v i : Nat) : (m.setLive p f v i).hdrs = m.hdrs := rfl
@[simp] theorem Mach.setLive_shadow (m : Mach) (p : Page) (f : Fld) (v i : Nat) : (m.setLive p f v i).shadow = m.shadow := rfl
@[simp] theorem Mach.setLive_mem (m : Mach) (p : Page) (f : Fld) (v i : Nat) : (m.setLive p f v i).mem = m.mem := rfl
@[simp] theorem Mach.setLive_poison (m : Mach) (p : Page) (f : Fld) (v i : Nat) : (m.setLive p f v i).poison = m.poison := rfl
@[simp] theorem Mach.setLive_core (m : Mach) (p : Page) (f : Fld) (v i : Nat) : (m.setLive p f v i).core = m.core := rfl
@[simp] theorem Mach.setLive_queue (m : Mach) (p : Page) (f : Fld) (v i : Nat) : (m.setLive p f v i).queue = m.queue := rfl
@[simp] theorem Mach.setLive_spare (m : Mach) (p : Page) (f : Fld) (v i : Nat) : (m.setLive p f v i).spare = m.spare := rfl
@[simp] theorem Mach.setLive_time (m : Mach) (p : Page) (f : Fld) (v i : Nat) : (m.setLive p f v i).time = m.time := rfl
@[simp] theorem Mach.setLive_host (m : Mach) (p : Page) (f : Fld) (v i : Nat) : (m.setLive p f v i).host = m.host := rfl
@[simp] theorem Mach.setLive_power (m : Mach) (p : Page) (f : Fld) (v i : Nat) : (m.setLive p f v i).power = m.power := rfl
@[simp] theorem Mach.setLive_mx (m : Mach) (p : Page) (f : Fld) (v i : Nat) : (m.setLive p f v i).mx = m.mx := rfl
@[simp] theorem Mach.setLive_train (m : Mach) (p : Page) (f : Fld) (v i : Nat) : (m.setLive p f v i).train = m.train := rfl
@[simp] theorem Mach.setLive_ras (m : Mach) (p : Page) (f : Fld) (v i : Nat) : (m.setLive p f v i).ras = m.ras := rfl
@[simp] theorem Mach.setLive_chan (m : Mach) (p : Page) (f : Fld) (v i : Nat) : (m.setLive p f v i).chan = m.chan := rfl
@[simp] theorem Mach.setLive_dma (m : Mach) (p : Page) (f : Fld) (v i : Nat) : (m.setLive p f v i).dma = m.dma := rfl
@[simp] theorem Mach.setLive_dig (m : Mach) (p : Page) (f : Fld) (v i : Nat) : (m.setLive p f v i).dig = m.dig := rfl
@[simp] theorem Mach.setLive_chk (m : Mach) (p : Page) (f : Fld) (v i : Nat) : (m.setLive p f v i).chk = m.chk := rfl
@[simp] theorem Mach.setLive_sv (m : Mach) (p : Page) (f : Fld) (v i : Nat) : (m.setLive p f v i).sv = m.sv := rfl
@[simp] theorem Mach.setLive_rings (m : Mach) (p : Page) (f : Fld) (v i : Nat) : (m.setLive p f v i).rings = m.rings := rfl
@[simp] theorem Mach.setLive_fab (m : Mach) (p : Page) (f : Fld) (v i : Nat) : (m.setLive p f v i).fab = m.fab := rfl
@[simp] theorem Mach.setLive_coll (m : Mach) (p : Page) (f : Fld) (v i : Nat) : (m.setLive p f v i).coll = m.coll := rfl

/-! bump -/

@[simp] theorem Mach.bump_ticks (m : Mach) (p : Page) (f : Fld) (n : Nat) : (m.bump p f n).ticks = m.ticks := rfl
@[simp] theorem Mach.bump_fresh (m : Mach) (p : Page) (f : Fld) (n : Nat) : (m.bump p f n).fresh = m.fresh := rfl
@[simp] theorem Mach.bump_outbox (m : Mach) (p : Page) (f : Fld) (n : Nat) : (m.bump p f n).outbox = m.outbox := rfl
@[simp] theorem Mach.bump_hdrs (m : Mach) (p : Page) (f : Fld) (n : Nat) : (m.bump p f n).hdrs = m.hdrs := rfl
@[simp] theorem Mach.bump_shadow (m : Mach) (p : Page) (f : Fld) (n : Nat) : (m.bump p f n).shadow = m.shadow := rfl
@[simp] theorem Mach.bump_mem (m : Mach) (p : Page) (f : Fld) (n : Nat) : (m.bump p f n).mem = m.mem := rfl
@[simp] theorem Mach.bump_poison (m : Mach) (p : Page) (f : Fld) (n : Nat) : (m.bump p f n).poison = m.poison := rfl
@[simp] theorem Mach.bump_core (m : Mach) (p : Page) (f : Fld) (n : Nat) : (m.bump p f n).core = m.core := rfl
@[simp] theorem Mach.bump_queue (m : Mach) (p : Page) (f : Fld) (n : Nat) : (m.bump p f n).queue = m.queue := rfl
@[simp] theorem Mach.bump_spare (m : Mach) (p : Page) (f : Fld) (n : Nat) : (m.bump p f n).spare = m.spare := rfl
@[simp] theorem Mach.bump_time (m : Mach) (p : Page) (f : Fld) (n : Nat) : (m.bump p f n).time = m.time := rfl
@[simp] theorem Mach.bump_host (m : Mach) (p : Page) (f : Fld) (n : Nat) : (m.bump p f n).host = m.host := rfl
@[simp] theorem Mach.bump_power (m : Mach) (p : Page) (f : Fld) (n : Nat) : (m.bump p f n).power = m.power := rfl
@[simp] theorem Mach.bump_mx (m : Mach) (p : Page) (f : Fld) (n : Nat) : (m.bump p f n).mx = m.mx := rfl
@[simp] theorem Mach.bump_train (m : Mach) (p : Page) (f : Fld) (n : Nat) : (m.bump p f n).train = m.train := rfl
@[simp] theorem Mach.bump_ras (m : Mach) (p : Page) (f : Fld) (n : Nat) : (m.bump p f n).ras = m.ras := rfl
@[simp] theorem Mach.bump_chan (m : Mach) (p : Page) (f : Fld) (n : Nat) : (m.bump p f n).chan = m.chan := rfl
@[simp] theorem Mach.bump_dma (m : Mach) (p : Page) (f : Fld) (n : Nat) : (m.bump p f n).dma = m.dma := rfl
@[simp] theorem Mach.bump_dig (m : Mach) (p : Page) (f : Fld) (n : Nat) : (m.bump p f n).dig = m.dig := rfl
@[simp] theorem Mach.bump_chk (m : Mach) (p : Page) (f : Fld) (n : Nat) : (m.bump p f n).chk = m.chk := rfl
@[simp] theorem Mach.bump_sv (m : Mach) (p : Page) (f : Fld) (n : Nat) : (m.bump p f n).sv = m.sv := rfl
@[simp] theorem Mach.bump_rings (m : Mach) (p : Page) (f : Fld) (n : Nat) : (m.bump p f n).rings = m.rings := rfl
@[simp] theorem Mach.bump_fab (m : Mach) (p : Page) (f : Fld) (n : Nat) : (m.bump p f n).fab = m.fab := rfl
@[simp] theorem Mach.bump_coll (m : Mach) (p : Page) (f : Fld) (n : Nat) : (m.bump p f n).coll = m.coll := rfl

/-! setHdr -/

@[simp] theorem Mach.setHdr_ticks (m : Mach) (p : Page) (h : Header) : (m.setHdr p h).ticks = m.ticks := rfl
@[simp] theorem Mach.setHdr_fresh (m : Mach) (p : Page) (h : Header) : (m.setHdr p h).fresh = m.fresh := rfl
@[simp] theorem Mach.setHdr_outbox (m : Mach) (p : Page) (h : Header) : (m.setHdr p h).outbox = m.outbox := rfl
@[simp] theorem Mach.setHdr_regs (m : Mach) (p : Page) (h : Header) : (m.setHdr p h).regs = m.regs := rfl
@[simp] theorem Mach.setHdr_shadow (m : Mach) (p : Page) (h : Header) : (m.setHdr p h).shadow = m.shadow := rfl
@[simp] theorem Mach.setHdr_mem (m : Mach) (p : Page) (h : Header) : (m.setHdr p h).mem = m.mem := rfl
@[simp] theorem Mach.setHdr_poison (m : Mach) (p : Page) (h : Header) : (m.setHdr p h).poison = m.poison := rfl
@[simp] theorem Mach.setHdr_core (m : Mach) (p : Page) (h : Header) : (m.setHdr p h).core = m.core := rfl
@[simp] theorem Mach.setHdr_queue (m : Mach) (p : Page) (h : Header) : (m.setHdr p h).queue = m.queue := rfl
@[simp] theorem Mach.setHdr_spare (m : Mach) (p : Page) (h : Header) : (m.setHdr p h).spare = m.spare := rfl
@[simp] theorem Mach.setHdr_time (m : Mach) (p : Page) (h : Header) : (m.setHdr p h).time = m.time := rfl
@[simp] theorem Mach.setHdr_host (m : Mach) (p : Page) (h : Header) : (m.setHdr p h).host = m.host := rfl
@[simp] theorem Mach.setHdr_power (m : Mach) (p : Page) (h : Header) : (m.setHdr p h).power = m.power := rfl
@[simp] theorem Mach.setHdr_mx (m : Mach) (p : Page) (h : Header) : (m.setHdr p h).mx = m.mx := rfl
@[simp] theorem Mach.setHdr_train (m : Mach) (p : Page) (h : Header) : (m.setHdr p h).train = m.train := rfl
@[simp] theorem Mach.setHdr_ras (m : Mach) (p : Page) (h : Header) : (m.setHdr p h).ras = m.ras := rfl
@[simp] theorem Mach.setHdr_chan (m : Mach) (p : Page) (h : Header) : (m.setHdr p h).chan = m.chan := rfl
@[simp] theorem Mach.setHdr_dma (m : Mach) (p : Page) (h : Header) : (m.setHdr p h).dma = m.dma := rfl
@[simp] theorem Mach.setHdr_dig (m : Mach) (p : Page) (h : Header) : (m.setHdr p h).dig = m.dig := rfl
@[simp] theorem Mach.setHdr_chk (m : Mach) (p : Page) (h : Header) : (m.setHdr p h).chk = m.chk := rfl
@[simp] theorem Mach.setHdr_sv (m : Mach) (p : Page) (h : Header) : (m.setHdr p h).sv = m.sv := rfl
@[simp] theorem Mach.setHdr_rings (m : Mach) (p : Page) (h : Header) : (m.setHdr p h).rings = m.rings := rfl
@[simp] theorem Mach.setHdr_fab (m : Mach) (p : Page) (h : Header) : (m.setHdr p h).fab = m.fab := rfl
@[simp] theorem Mach.setHdr_coll (m : Mach) (p : Page) (h : Header) : (m.setHdr p h).coll = m.coll := rfl

/-! wrBytes -/

@[simp] theorem Mach.wrBytes_ticks (m : Mach) (k : Nat) (d : Bytes) (bad : Bool) : (m.wrBytes k d bad).ticks = m.ticks := rfl
@[simp] theorem Mach.wrBytes_fresh (m : Mach) (k : Nat) (d : Bytes) (bad : Bool) : (m.wrBytes k d bad).fresh = m.fresh := rfl
@[simp] theorem Mach.wrBytes_outbox (m : Mach) (k : Nat) (d : Bytes) (bad : Bool) : (m.wrBytes k d bad).outbox = m.outbox := rfl
@[simp] theorem Mach.wrBytes_hdrs (m : Mach) (k : Nat) (d : Bytes) (bad : Bool) : (m.wrBytes k d bad).hdrs = m.hdrs := rfl
@[simp] theorem Mach.wrBytes_regs (m : Mach) (k : Nat) (d : Bytes) (bad : Bool) : (m.wrBytes k d bad).regs = m.regs := rfl
@[simp] theorem Mach.wrBytes_shadow (m : Mach) (k : Nat) (d : Bytes) (bad : Bool) : (m.wrBytes k d bad).shadow = m.shadow := rfl
@[simp] theorem Mach.wrBytes_core (m : Mach) (k : Nat) (d : Bytes) (bad : Bool) : (m.wrBytes k d bad).core = m.core := rfl
@[simp] theorem Mach.wrBytes_queue (m : Mach) (k : Nat) (d : Bytes) (bad : Bool) : (m.wrBytes k d bad).queue = m.queue := rfl
@[simp] theorem Mach.wrBytes_spare (m : Mach) (k : Nat) (d : Bytes) (bad : Bool) : (m.wrBytes k d bad).spare = m.spare := rfl
@[simp] theorem Mach.wrBytes_time (m : Mach) (k : Nat) (d : Bytes) (bad : Bool) : (m.wrBytes k d bad).time = m.time := rfl
@[simp] theorem Mach.wrBytes_host (m : Mach) (k : Nat) (d : Bytes) (bad : Bool) : (m.wrBytes k d bad).host = m.host := rfl
@[simp] theorem Mach.wrBytes_power (m : Mach) (k : Nat) (d : Bytes) (bad : Bool) : (m.wrBytes k d bad).power = m.power := rfl
@[simp] theorem Mach.wrBytes_mx (m : Mach) (k : Nat) (d : Bytes) (bad : Bool) : (m.wrBytes k d bad).mx = m.mx := rfl
@[simp] theorem Mach.wrBytes_train (m : Mach) (k : Nat) (d : Bytes) (bad : Bool) : (m.wrBytes k d bad).train = m.train := rfl
@[simp] theorem Mach.wrBytes_ras (m : Mach) (k : Nat) (d : Bytes) (bad : Bool) : (m.wrBytes k d bad).ras = m.ras := rfl
@[simp] theorem Mach.wrBytes_chan (m : Mach) (k : Nat) (d : Bytes) (bad : Bool) : (m.wrBytes k d bad).chan = m.chan := rfl
@[simp] theorem Mach.wrBytes_dma (m : Mach) (k : Nat) (d : Bytes) (bad : Bool) : (m.wrBytes k d bad).dma = m.dma := rfl
@[simp] theorem Mach.wrBytes_dig (m : Mach) (k : Nat) (d : Bytes) (bad : Bool) : (m.wrBytes k d bad).dig = m.dig := rfl
@[simp] theorem Mach.wrBytes_chk (m : Mach) (k : Nat) (d : Bytes) (bad : Bool) : (m.wrBytes k d bad).chk = m.chk := rfl
@[simp] theorem Mach.wrBytes_sv (m : Mach) (k : Nat) (d : Bytes) (bad : Bool) : (m.wrBytes k d bad).sv = m.sv := rfl
@[simp] theorem Mach.wrBytes_rings (m : Mach) (k : Nat) (d : Bytes) (bad : Bool) : (m.wrBytes k d bad).rings = m.rings := rfl
@[simp] theorem Mach.wrBytes_fab (m : Mach) (k : Nat) (d : Bytes) (bad : Bool) : (m.wrBytes k d bad).fab = m.fab := rfl
@[simp] theorem Mach.wrBytes_coll (m : Mach) (k : Nat) (d : Bytes) (bad : Bool) : (m.wrBytes k d bad).coll = m.coll := rfl

/-! setCtx -/

@[simp] theorem Mach.setCtx_ticks (m : Mach) (u c : Nat) (x : Ctx) : (m.setCtx u c x).ticks = m.ticks := rfl
@[simp] theorem Mach.setCtx_fresh (m : Mach) (u c : Nat) (x : Ctx) : (m.setCtx u c x).fresh = m.fresh := rfl
@[simp] theorem Mach.setCtx_outbox (m : Mach) (u c : Nat) (x : Ctx) : (m.setCtx u c x).outbox = m.outbox := rfl
@[simp] theorem Mach.setCtx_hdrs (m : Mach) (u c : Nat) (x : Ctx) : (m.setCtx u c x).hdrs = m.hdrs := rfl
@[simp] theorem Mach.setCtx_regs (m : Mach) (u c : Nat) (x : Ctx) : (m.setCtx u c x).regs = m.regs := rfl
@[simp] theorem Mach.setCtx_shadow (m : Mach) (u c : Nat) (x : Ctx) : (m.setCtx u c x).shadow = m.shadow := rfl
@[simp] theorem Mach.setCtx_mem (m : Mach) (u c : Nat) (x : Ctx) : (m.setCtx u c x).mem = m.mem := rfl
@[simp] theorem Mach.setCtx_poison (m : Mach) (u c : Nat) (x : Ctx) : (m.setCtx u c x).poison = m.poison := rfl
@[simp] theorem Mach.setCtx_queue (m : Mach) (u c : Nat) (x : Ctx) : (m.setCtx u c x).queue = m.queue := rfl
@[simp] theorem Mach.setCtx_spare (m : Mach) (u c : Nat) (x : Ctx) : (m.setCtx u c x).spare = m.spare := rfl
@[simp] theorem Mach.setCtx_time (m : Mach) (u c : Nat) (x : Ctx) : (m.setCtx u c x).time = m.time := rfl
@[simp] theorem Mach.setCtx_host (m : Mach) (u c : Nat) (x : Ctx) : (m.setCtx u c x).host = m.host := rfl
@[simp] theorem Mach.setCtx_power (m : Mach) (u c : Nat) (x : Ctx) : (m.setCtx u c x).power = m.power := rfl
@[simp] theorem Mach.setCtx_mx (m : Mach) (u c : Nat) (x : Ctx) : (m.setCtx u c x).mx = m.mx := rfl
@[simp] theorem Mach.setCtx_train (m : Mach) (u c : Nat) (x : Ctx) : (m.setCtx u c x).train = m.train := rfl
@[simp] theorem Mach.setCtx_ras (m : Mach) (u c : Nat) (x : Ctx) : (m.setCtx u c x).ras = m.ras := rfl
@[simp] theorem Mach.setCtx_chan (m : Mach) (u c : Nat) (x : Ctx) : (m.setCtx u c x).chan = m.chan := rfl
@[simp] theorem Mach.setCtx_dma (m : Mach) (u c : Nat) (x : Ctx) : (m.setCtx u c x).dma = m.dma := rfl
@[simp] theorem Mach.setCtx_dig (m : Mach) (u c : Nat) (x : Ctx) : (m.setCtx u c x).dig = m.dig := rfl
@[simp] theorem Mach.setCtx_chk (m : Mach) (u c : Nat) (x : Ctx) : (m.setCtx u c x).chk = m.chk := rfl
@[simp] theorem Mach.setCtx_sv (m : Mach) (u c : Nat) (x : Ctx) : (m.setCtx u c x).sv = m.sv := rfl
@[simp] theorem Mach.setCtx_rings (m : Mach) (u c : Nat) (x : Ctx) : (m.setCtx u c x).rings = m.rings := rfl
@[simp] theorem Mach.setCtx_fab (m : Mach) (u c : Nat) (x : Ctx) : (m.setCtx u c x).fab = m.fab := rfl
@[simp] theorem Mach.setCtx_coll (m : Mach) (u c : Nat) (x : Ctx) : (m.setCtx u c x).coll = m.coll := rfl

/-! setUnit -/

@[simp] theorem Mach.setUnit_ticks (m : Mach) (u : Nat) (x : UnitSt) : (m.setUnit u x).ticks = m.ticks := rfl
@[simp] theorem Mach.setUnit_fresh (m : Mach) (u : Nat) (x : UnitSt) : (m.setUnit u x).fresh = m.fresh := rfl
@[simp] theorem Mach.setUnit_outbox (m : Mach) (u : Nat) (x : UnitSt) : (m.setUnit u x).outbox = m.outbox := rfl
@[simp] theorem Mach.setUnit_hdrs (m : Mach) (u : Nat) (x : UnitSt) : (m.setUnit u x).hdrs = m.hdrs := rfl
@[simp] theorem Mach.setUnit_regs (m : Mach) (u : Nat) (x : UnitSt) : (m.setUnit u x).regs = m.regs := rfl
@[simp] theorem Mach.setUnit_shadow (m : Mach) (u : Nat) (x : UnitSt) : (m.setUnit u x).shadow = m.shadow := rfl
@[simp] theorem Mach.setUnit_mem (m : Mach) (u : Nat) (x : UnitSt) : (m.setUnit u x).mem = m.mem := rfl
@[simp] theorem Mach.setUnit_poison (m : Mach) (u : Nat) (x : UnitSt) : (m.setUnit u x).poison = m.poison := rfl
@[simp] theorem Mach.setUnit_queue (m : Mach) (u : Nat) (x : UnitSt) : (m.setUnit u x).queue = m.queue := rfl
@[simp] theorem Mach.setUnit_spare (m : Mach) (u : Nat) (x : UnitSt) : (m.setUnit u x).spare = m.spare := rfl
@[simp] theorem Mach.setUnit_time (m : Mach) (u : Nat) (x : UnitSt) : (m.setUnit u x).time = m.time := rfl
@[simp] theorem Mach.setUnit_host (m : Mach) (u : Nat) (x : UnitSt) : (m.setUnit u x).host = m.host := rfl
@[simp] theorem Mach.setUnit_power (m : Mach) (u : Nat) (x : UnitSt) : (m.setUnit u x).power = m.power := rfl
@[simp] theorem Mach.setUnit_mx (m : Mach) (u : Nat) (x : UnitSt) : (m.setUnit u x).mx = m.mx := rfl
@[simp] theorem Mach.setUnit_train (m : Mach) (u : Nat) (x : UnitSt) : (m.setUnit u x).train = m.train := rfl
@[simp] theorem Mach.setUnit_ras (m : Mach) (u : Nat) (x : UnitSt) : (m.setUnit u x).ras = m.ras := rfl
@[simp] theorem Mach.setUnit_chan (m : Mach) (u : Nat) (x : UnitSt) : (m.setUnit u x).chan = m.chan := rfl
@[simp] theorem Mach.setUnit_dma (m : Mach) (u : Nat) (x : UnitSt) : (m.setUnit u x).dma = m.dma := rfl
@[simp] theorem Mach.setUnit_dig (m : Mach) (u : Nat) (x : UnitSt) : (m.setUnit u x).dig = m.dig := rfl
@[simp] theorem Mach.setUnit_chk (m : Mach) (u : Nat) (x : UnitSt) : (m.setUnit u x).chk = m.chk := rfl
@[simp] theorem Mach.setUnit_sv (m : Mach) (u : Nat) (x : UnitSt) : (m.setUnit u x).sv = m.sv := rfl
@[simp] theorem Mach.setUnit_rings (m : Mach) (u : Nat) (x : UnitSt) : (m.setUnit u x).rings = m.rings := rfl
@[simp] theorem Mach.setUnit_fab (m : Mach) (u : Nat) (x : UnitSt) : (m.setUnit u x).fab = m.fab := rfl
@[simp] theorem Mach.setUnit_coll (m : Mach) (u : Nat) (x : UnitSt) : (m.setUnit u x).coll = m.coll := rfl

/-! setG -/

@[simp] theorem Mach.setG_ticks (m : Mach) (u c : Nat) (r : RegNo) (v : Word) : (m.setG u c r v).ticks = m.ticks := rfl
@[simp] theorem Mach.setG_fresh (m : Mach) (u c : Nat) (r : RegNo) (v : Word) : (m.setG u c r v).fresh = m.fresh := rfl
@[simp] theorem Mach.setG_outbox (m : Mach) (u c : Nat) (r : RegNo) (v : Word) : (m.setG u c r v).outbox = m.outbox := rfl
@[simp] theorem Mach.setG_hdrs (m : Mach) (u c : Nat) (r : RegNo) (v : Word) : (m.setG u c r v).hdrs = m.hdrs := rfl
@[simp] theorem Mach.setG_regs (m : Mach) (u c : Nat) (r : RegNo) (v : Word) : (m.setG u c r v).regs = m.regs := rfl
@[simp] theorem Mach.setG_shadow (m : Mach) (u c : Nat) (r : RegNo) (v : Word) : (m.setG u c r v).shadow = m.shadow := rfl
@[simp] theorem Mach.setG_mem (m : Mach) (u c : Nat) (r : RegNo) (v : Word) : (m.setG u c r v).mem = m.mem := rfl
@[simp] theorem Mach.setG_poison (m : Mach) (u c : Nat) (r : RegNo) (v : Word) : (m.setG u c r v).poison = m.poison := rfl
@[simp] theorem Mach.setG_queue (m : Mach) (u c : Nat) (r : RegNo) (v : Word) : (m.setG u c r v).queue = m.queue := rfl
@[simp] theorem Mach.setG_spare (m : Mach) (u c : Nat) (r : RegNo) (v : Word) : (m.setG u c r v).spare = m.spare := rfl
@[simp] theorem Mach.setG_time (m : Mach) (u c : Nat) (r : RegNo) (v : Word) : (m.setG u c r v).time = m.time := rfl
@[simp] theorem Mach.setG_host (m : Mach) (u c : Nat) (r : RegNo) (v : Word) : (m.setG u c r v).host = m.host := rfl
@[simp] theorem Mach.setG_power (m : Mach) (u c : Nat) (r : RegNo) (v : Word) : (m.setG u c r v).power = m.power := rfl
@[simp] theorem Mach.setG_mx (m : Mach) (u c : Nat) (r : RegNo) (v : Word) : (m.setG u c r v).mx = m.mx := rfl
@[simp] theorem Mach.setG_train (m : Mach) (u c : Nat) (r : RegNo) (v : Word) : (m.setG u c r v).train = m.train := rfl
@[simp] theorem Mach.setG_ras (m : Mach) (u c : Nat) (r : RegNo) (v : Word) : (m.setG u c r v).ras = m.ras := rfl
@[simp] theorem Mach.setG_chan (m : Mach) (u c : Nat) (r : RegNo) (v : Word) : (m.setG u c r v).chan = m.chan := rfl
@[simp] theorem Mach.setG_dma (m : Mach) (u c : Nat) (r : RegNo) (v : Word) : (m.setG u c r v).dma = m.dma := rfl
@[simp] theorem Mach.setG_dig (m : Mach) (u c : Nat) (r : RegNo) (v : Word) : (m.setG u c r v).dig = m.dig := rfl
@[simp] theorem Mach.setG_chk (m : Mach) (u c : Nat) (r : RegNo) (v : Word) : (m.setG u c r v).chk = m.chk := rfl
@[simp] theorem Mach.setG_sv (m : Mach) (u c : Nat) (r : RegNo) (v : Word) : (m.setG u c r v).sv = m.sv := rfl
@[simp] theorem Mach.setG_rings (m : Mach) (u c : Nat) (r : RegNo) (v : Word) : (m.setG u c r v).rings = m.rings := rfl
@[simp] theorem Mach.setG_fab (m : Mach) (u c : Nat) (r : RegNo) (v : Word) : (m.setG u c r v).fab = m.fab := rfl
@[simp] theorem Mach.setG_coll (m : Mach) (u c : Nat) (r : RegNo) (v : Word) : (m.setG u c r v).coll = m.coll := rfl

/-! setVreg -/

@[simp] theorem Mach.setVreg_ticks (m : Mach) (u v : Nat) (r : BitVec 2048) (k : BitVec 512) : (m.setVreg u v r k).ticks = m.ticks := rfl
@[simp] theorem Mach.setVreg_fresh (m : Mach) (u v : Nat) (r : BitVec 2048) (k : BitVec 512) : (m.setVreg u v r k).fresh = m.fresh := rfl
@[simp] theorem Mach.setVreg_outbox (m : Mach) (u v : Nat) (r : BitVec 2048) (k : BitVec 512) : (m.setVreg u v r k).outbox = m.outbox := rfl
@[simp] theorem Mach.setVreg_hdrs (m : Mach) (u v : Nat) (r : BitVec 2048) (k : BitVec 512) : (m.setVreg u v r k).hdrs = m.hdrs := rfl
@[simp] theorem Mach.setVreg_regs (m : Mach) (u v : Nat) (r : BitVec 2048) (k : BitVec 512) : (m.setVreg u v r k).regs = m.regs := rfl
@[simp] theorem Mach.setVreg_shadow (m : Mach) (u v : Nat) (r : BitVec 2048) (k : BitVec 512) : (m.setVreg u v r k).shadow = m.shadow := rfl
@[simp] theorem Mach.setVreg_mem (m : Mach) (u v : Nat) (r : BitVec 2048) (k : BitVec 512) : (m.setVreg u v r k).mem = m.mem := rfl
@[simp] theorem Mach.setVreg_poison (m : Mach) (u v : Nat) (r : BitVec 2048) (k : BitVec 512) : (m.setVreg u v r k).poison = m.poison := rfl
@[simp] theorem Mach.setVreg_queue (m : Mach) (u v : Nat) (r : BitVec 2048) (k : BitVec 512) : (m.setVreg u v r k).queue = m.queue := rfl
@[simp] theorem Mach.setVreg_spare (m : Mach) (u v : Nat) (r : BitVec 2048) (k : BitVec 512) : (m.setVreg u v r k).spare = m.spare := rfl
@[simp] theorem Mach.setVreg_time (m : Mach) (u v : Nat) (r : BitVec 2048) (k : BitVec 512) : (m.setVreg u v r k).time = m.time := rfl
@[simp] theorem Mach.setVreg_host (m : Mach) (u v : Nat) (r : BitVec 2048) (k : BitVec 512) : (m.setVreg u v r k).host = m.host := rfl
@[simp] theorem Mach.setVreg_power (m : Mach) (u v : Nat) (r : BitVec 2048) (k : BitVec 512) : (m.setVreg u v r k).power = m.power := rfl
@[simp] theorem Mach.setVreg_mx (m : Mach) (u v : Nat) (r : BitVec 2048) (k : BitVec 512) : (m.setVreg u v r k).mx = m.mx := rfl
@[simp] theorem Mach.setVreg_train (m : Mach) (u v : Nat) (r : BitVec 2048) (k : BitVec 512) : (m.setVreg u v r k).train = m.train := rfl
@[simp] theorem Mach.setVreg_ras (m : Mach) (u v : Nat) (r : BitVec 2048) (k : BitVec 512) : (m.setVreg u v r k).ras = m.ras := rfl
@[simp] theorem Mach.setVreg_chan (m : Mach) (u v : Nat) (r : BitVec 2048) (k : BitVec 512) : (m.setVreg u v r k).chan = m.chan := rfl
@[simp] theorem Mach.setVreg_dma (m : Mach) (u v : Nat) (r : BitVec 2048) (k : BitVec 512) : (m.setVreg u v r k).dma = m.dma := rfl
@[simp] theorem Mach.setVreg_dig (m : Mach) (u v : Nat) (r : BitVec 2048) (k : BitVec 512) : (m.setVreg u v r k).dig = m.dig := rfl
@[simp] theorem Mach.setVreg_chk (m : Mach) (u v : Nat) (r : BitVec 2048) (k : BitVec 512) : (m.setVreg u v r k).chk = m.chk := rfl
@[simp] theorem Mach.setVreg_sv (m : Mach) (u v : Nat) (r : BitVec 2048) (k : BitVec 512) : (m.setVreg u v r k).sv = m.sv := rfl
@[simp] theorem Mach.setVreg_rings (m : Mach) (u v : Nat) (r : BitVec 2048) (k : BitVec 512) : (m.setVreg u v r k).rings = m.rings := rfl
@[simp] theorem Mach.setVreg_fab (m : Mach) (u v : Nat) (r : BitVec 2048) (k : BitVec 512) : (m.setVreg u v r k).fab = m.fab := rfl
@[simp] theorem Mach.setVreg_coll (m : Mach) (u v : Nat) (r : BitVec 2048) (k : BitVec 512) : (m.setVreg u v r k).coll = m.coll := rfl

/-! setSv -/

@[simp] theorem Mach.setSv_ticks (m : Mach) (n : Nat) (x : SvSt) : (m.setSv n x).ticks = m.ticks := rfl
@[simp] theorem Mach.setSv_fresh (m : Mach) (n : Nat) (x : SvSt) : (m.setSv n x).fresh = m.fresh := rfl
@[simp] theorem Mach.setSv_outbox (m : Mach) (n : Nat) (x : SvSt) : (m.setSv n x).outbox = m.outbox := rfl
@[simp] theorem Mach.setSv_hdrs (m : Mach) (n : Nat) (x : SvSt) : (m.setSv n x).hdrs = m.hdrs := rfl
@[simp] theorem Mach.setSv_regs (m : Mach) (n : Nat) (x : SvSt) : (m.setSv n x).regs = m.regs := rfl
@[simp] theorem Mach.setSv_shadow (m : Mach) (n : Nat) (x : SvSt) : (m.setSv n x).shadow = m.shadow := rfl
@[simp] theorem Mach.setSv_mem (m : Mach) (n : Nat) (x : SvSt) : (m.setSv n x).mem = m.mem := rfl
@[simp] theorem Mach.setSv_poison (m : Mach) (n : Nat) (x : SvSt) : (m.setSv n x).poison = m.poison := rfl
@[simp] theorem Mach.setSv_core (m : Mach) (n : Nat) (x : SvSt) : (m.setSv n x).core = m.core := rfl
@[simp] theorem Mach.setSv_queue (m : Mach) (n : Nat) (x : SvSt) : (m.setSv n x).queue = m.queue := rfl
@[simp] theorem Mach.setSv_spare (m : Mach) (n : Nat) (x : SvSt) : (m.setSv n x).spare = m.spare := rfl
@[simp] theorem Mach.setSv_time (m : Mach) (n : Nat) (x : SvSt) : (m.setSv n x).time = m.time := rfl
@[simp] theorem Mach.setSv_host (m : Mach) (n : Nat) (x : SvSt) : (m.setSv n x).host = m.host := rfl
@[simp] theorem Mach.setSv_power (m : Mach) (n : Nat) (x : SvSt) : (m.setSv n x).power = m.power := rfl
@[simp] theorem Mach.setSv_mx (m : Mach) (n : Nat) (x : SvSt) : (m.setSv n x).mx = m.mx := rfl
@[simp] theorem Mach.setSv_train (m : Mach) (n : Nat) (x : SvSt) : (m.setSv n x).train = m.train := rfl
@[simp] theorem Mach.setSv_ras (m : Mach) (n : Nat) (x : SvSt) : (m.setSv n x).ras = m.ras := rfl
@[simp] theorem Mach.setSv_chan (m : Mach) (n : Nat) (x : SvSt) : (m.setSv n x).chan = m.chan := rfl
@[simp] theorem Mach.setSv_dma (m : Mach) (n : Nat) (x : SvSt) : (m.setSv n x).dma = m.dma := rfl
@[simp] theorem Mach.setSv_dig (m : Mach) (n : Nat) (x : SvSt) : (m.setSv n x).dig = m.dig := rfl
@[simp] theorem Mach.setSv_chk (m : Mach) (n : Nat) (x : SvSt) : (m.setSv n x).chk = m.chk := rfl
@[simp] theorem Mach.setSv_rings (m : Mach) (n : Nat) (x : SvSt) : (m.setSv n x).rings = m.rings := rfl
@[simp] theorem Mach.setSv_fab (m : Mach) (n : Nat) (x : SvSt) : (m.setSv n x).fab = m.fab := rfl
@[simp] theorem Mach.setSv_coll (m : Mach) (n : Nat) (x : SvSt) : (m.setSv n x).coll = m.coll := rfl

/-! setBar -/

@[simp] theorem Mach.setBar_ticks (m : Mach) (o : Nat) (b : BarObj) : (m.setBar o b).ticks = m.ticks := rfl
@[simp] theorem Mach.setBar_fresh (m : Mach) (o : Nat) (b : BarObj) : (m.setBar o b).fresh = m.fresh := rfl
@[simp] theorem Mach.setBar_outbox (m : Mach) (o : Nat) (b : BarObj) : (m.setBar o b).outbox = m.outbox := rfl
@[simp] theorem Mach.setBar_hdrs (m : Mach) (o : Nat) (b : BarObj) : (m.setBar o b).hdrs = m.hdrs := rfl
@[simp] theorem Mach.setBar_regs (m : Mach) (o : Nat) (b : BarObj) : (m.setBar o b).regs = m.regs := rfl
@[simp] theorem Mach.setBar_shadow (m : Mach) (o : Nat) (b : BarObj) : (m.setBar o b).shadow = m.shadow := rfl
@[simp] theorem Mach.setBar_mem (m : Mach) (o : Nat) (b : BarObj) : (m.setBar o b).mem = m.mem := rfl
@[simp] theorem Mach.setBar_poison (m : Mach) (o : Nat) (b : BarObj) : (m.setBar o b).poison = m.poison := rfl
@[simp] theorem Mach.setBar_core (m : Mach) (o : Nat) (b : BarObj) : (m.setBar o b).core = m.core := rfl
@[simp] theorem Mach.setBar_queue (m : Mach) (o : Nat) (b : BarObj) : (m.setBar o b).queue = m.queue := rfl
@[simp] theorem Mach.setBar_spare (m : Mach) (o : Nat) (b : BarObj) : (m.setBar o b).spare = m.spare := rfl
@[simp] theorem Mach.setBar_time (m : Mach) (o : Nat) (b : BarObj) : (m.setBar o b).time = m.time := rfl
@[simp] theorem Mach.setBar_host (m : Mach) (o : Nat) (b : BarObj) : (m.setBar o b).host = m.host := rfl
@[simp] theorem Mach.setBar_power (m : Mach) (o : Nat) (b : BarObj) : (m.setBar o b).power = m.power := rfl
@[simp] theorem Mach.setBar_mx (m : Mach) (o : Nat) (b : BarObj) : (m.setBar o b).mx = m.mx := rfl
@[simp] theorem Mach.setBar_train (m : Mach) (o : Nat) (b : BarObj) : (m.setBar o b).train = m.train := rfl
@[simp] theorem Mach.setBar_ras (m : Mach) (o : Nat) (b : BarObj) : (m.setBar o b).ras = m.ras := rfl
@[simp] theorem Mach.setBar_chan (m : Mach) (o : Nat) (b : BarObj) : (m.setBar o b).chan = m.chan := rfl
@[simp] theorem Mach.setBar_dma (m : Mach) (o : Nat) (b : BarObj) : (m.setBar o b).dma = m.dma := rfl
@[simp] theorem Mach.setBar_dig (m : Mach) (o : Nat) (b : BarObj) : (m.setBar o b).dig = m.dig := rfl
@[simp] theorem Mach.setBar_chk (m : Mach) (o : Nat) (b : BarObj) : (m.setBar o b).chk = m.chk := rfl
@[simp] theorem Mach.setBar_sv (m : Mach) (o : Nat) (b : BarObj) : (m.setBar o b).sv = m.sv := rfl
@[simp] theorem Mach.setBar_rings (m : Mach) (o : Nat) (b : BarObj) : (m.setBar o b).rings = m.rings := rfl
@[simp] theorem Mach.setBar_coll (m : Mach) (o : Nat) (b : BarObj) : (m.setBar o b).coll = m.coll := rfl

/-! setTimePort -/

@[simp] theorem Mach.setTimePort_ticks (m : Mach) (p : Nat) (x : TimePort) : (m.setTimePort p x).ticks = m.ticks := rfl
@[simp] theorem Mach.setTimePort_fresh (m : Mach) (p : Nat) (x : TimePort) : (m.setTimePort p x).fresh = m.fresh := rfl
@[simp] theorem Mach.setTimePort_outbox (m : Mach) (p : Nat) (x : TimePort) : (m.setTimePort p x).outbox = m.outbox := rfl
@[simp] theorem Mach.setTimePort_hdrs (m : Mach) (p : Nat) (x : TimePort) : (m.setTimePort p x).hdrs = m.hdrs := rfl
@[simp] theorem Mach.setTimePort_regs (m : Mach) (p : Nat) (x : TimePort) : (m.setTimePort p x).regs = m.regs := rfl
@[simp] theorem Mach.setTimePort_shadow (m : Mach) (p : Nat) (x : TimePort) : (m.setTimePort p x).shadow = m.shadow := rfl
@[simp] theorem Mach.setTimePort_mem (m : Mach) (p : Nat) (x : TimePort) : (m.setTimePort p x).mem = m.mem := rfl
@[simp] theorem Mach.setTimePort_poison (m : Mach) (p : Nat) (x : TimePort) : (m.setTimePort p x).poison = m.poison := rfl
@[simp] theorem Mach.setTimePort_core (m : Mach) (p : Nat) (x : TimePort) : (m.setTimePort p x).core = m.core := rfl
@[simp] theorem Mach.setTimePort_queue (m : Mach) (p : Nat) (x : TimePort) : (m.setTimePort p x).queue = m.queue := rfl
@[simp] theorem Mach.setTimePort_spare (m : Mach) (p : Nat) (x : TimePort) : (m.setTimePort p x).spare = m.spare := rfl
@[simp] theorem Mach.setTimePort_host (m : Mach) (p : Nat) (x : TimePort) : (m.setTimePort p x).host = m.host := rfl
@[simp] theorem Mach.setTimePort_power (m : Mach) (p : Nat) (x : TimePort) : (m.setTimePort p x).power = m.power := rfl
@[simp] theorem Mach.setTimePort_mx (m : Mach) (p : Nat) (x : TimePort) : (m.setTimePort p x).mx = m.mx := rfl
@[simp] theorem Mach.setTimePort_train (m : Mach) (p : Nat) (x : TimePort) : (m.setTimePort p x).train = m.train := rfl
@[simp] theorem Mach.setTimePort_ras (m : Mach) (p : Nat) (x : TimePort) : (m.setTimePort p x).ras = m.ras := rfl
@[simp] theorem Mach.setTimePort_chan (m : Mach) (p : Nat) (x : TimePort) : (m.setTimePort p x).chan = m.chan := rfl
@[simp] theorem Mach.setTimePort_dma (m : Mach) (p : Nat) (x : TimePort) : (m.setTimePort p x).dma = m.dma := rfl
@[simp] theorem Mach.setTimePort_dig (m : Mach) (p : Nat) (x : TimePort) : (m.setTimePort p x).dig = m.dig := rfl
@[simp] theorem Mach.setTimePort_chk (m : Mach) (p : Nat) (x : TimePort) : (m.setTimePort p x).chk = m.chk := rfl
@[simp] theorem Mach.setTimePort_sv (m : Mach) (p : Nat) (x : TimePort) : (m.setTimePort p x).sv = m.sv := rfl
@[simp] theorem Mach.setTimePort_rings (m : Mach) (p : Nat) (x : TimePort) : (m.setTimePort p x).rings = m.rings := rfl
@[simp] theorem Mach.setTimePort_fab (m : Mach) (p : Nat) (x : TimePort) : (m.setTimePort p x).fab = m.fab := rfl
@[simp] theorem Mach.setTimePort_coll (m : Mach) (p : Nat) (x : TimePort) : (m.setTimePort p x).coll = m.coll := rfl

/-! setDig -/

@[simp] theorem Mach.setDig_ticks (m : Mach) (e : Nat) (d : DigSt) : (m.setDig e d).ticks = m.ticks := rfl
@[simp] theorem Mach.setDig_fresh (m : Mach) (e : Nat) (d : DigSt) : (m.setDig e d).fresh = m.fresh := rfl
@[simp] theorem Mach.setDig_outbox (m : Mach) (e : Nat) (d : DigSt) : (m.setDig e d).outbox = m.outbox := rfl
@[simp] theorem Mach.setDig_hdrs (m : Mach) (e : Nat) (d : DigSt) : (m.setDig e d).hdrs = m.hdrs := rfl
@[simp] theorem Mach.setDig_regs (m : Mach) (e : Nat) (d : DigSt) : (m.setDig e d).regs = m.regs := rfl
@[simp] theorem Mach.setDig_shadow (m : Mach) (e : Nat) (d : DigSt) : (m.setDig e d).shadow = m.shadow := rfl
@[simp] theorem Mach.setDig_mem (m : Mach) (e : Nat) (d : DigSt) : (m.setDig e d).mem = m.mem := rfl
@[simp] theorem Mach.setDig_poison (m : Mach) (e : Nat) (d : DigSt) : (m.setDig e d).poison = m.poison := rfl
@[simp] theorem Mach.setDig_core (m : Mach) (e : Nat) (d : DigSt) : (m.setDig e d).core = m.core := rfl
@[simp] theorem Mach.setDig_queue (m : Mach) (e : Nat) (d : DigSt) : (m.setDig e d).queue = m.queue := rfl
@[simp] theorem Mach.setDig_spare (m : Mach) (e : Nat) (d : DigSt) : (m.setDig e d).spare = m.spare := rfl
@[simp] theorem Mach.setDig_time (m : Mach) (e : Nat) (d : DigSt) : (m.setDig e d).time = m.time := rfl
@[simp] theorem Mach.setDig_host (m : Mach) (e : Nat) (d : DigSt) : (m.setDig e d).host = m.host := rfl
@[simp] theorem Mach.setDig_power (m : Mach) (e : Nat) (d : DigSt) : (m.setDig e d).power = m.power := rfl
@[simp] theorem Mach.setDig_mx (m : Mach) (e : Nat) (d : DigSt) : (m.setDig e d).mx = m.mx := rfl
@[simp] theorem Mach.setDig_train (m : Mach) (e : Nat) (d : DigSt) : (m.setDig e d).train = m.train := rfl
@[simp] theorem Mach.setDig_ras (m : Mach) (e : Nat) (d : DigSt) : (m.setDig e d).ras = m.ras := rfl
@[simp] theorem Mach.setDig_chan (m : Mach) (e : Nat) (d : DigSt) : (m.setDig e d).chan = m.chan := rfl
@[simp] theorem Mach.setDig_dma (m : Mach) (e : Nat) (d : DigSt) : (m.setDig e d).dma = m.dma := rfl
@[simp] theorem Mach.setDig_chk (m : Mach) (e : Nat) (d : DigSt) : (m.setDig e d).chk = m.chk := rfl
@[simp] theorem Mach.setDig_sv (m : Mach) (e : Nat) (d : DigSt) : (m.setDig e d).sv = m.sv := rfl
@[simp] theorem Mach.setDig_rings (m : Mach) (e : Nat) (d : DigSt) : (m.setDig e d).rings = m.rings := rfl
@[simp] theorem Mach.setDig_fab (m : Mach) (e : Nat) (d : DigSt) : (m.setDig e d).fab = m.fab := rfl
@[simp] theorem Mach.setDig_coll (m : Mach) (e : Nat) (d : DigSt) : (m.setDig e d).coll = m.coll := rfl

/-! setDmaQueue -/

@[simp] theorem Mach.setDmaQueue_ticks (m : Mach) (u : Nat) (q : List DmaItem) : (m.setDmaQueue u q).ticks = m.ticks := rfl
@[simp] theorem Mach.setDmaQueue_fresh (m : Mach) (u : Nat) (q : List DmaItem) : (m.setDmaQueue u q).fresh = m.fresh := rfl
@[simp] theorem Mach.setDmaQueue_outbox (m : Mach) (u : Nat) (q : List DmaItem) : (m.setDmaQueue u q).outbox = m.outbox := rfl
@[simp] theorem Mach.setDmaQueue_hdrs (m : Mach) (u : Nat) (q : List DmaItem) : (m.setDmaQueue u q).hdrs = m.hdrs := rfl
@[simp] theorem Mach.setDmaQueue_regs (m : Mach) (u : Nat) (q : List DmaItem) : (m.setDmaQueue u q).regs = m.regs := rfl
@[simp] theorem Mach.setDmaQueue_shadow (m : Mach) (u : Nat) (q : List DmaItem) : (m.setDmaQueue u q).shadow = m.shadow := rfl
@[simp] theorem Mach.setDmaQueue_mem (m : Mach) (u : Nat) (q : List DmaItem) : (m.setDmaQueue u q).mem = m.mem := rfl
@[simp] theorem Mach.setDmaQueue_poison (m : Mach) (u : Nat) (q : List DmaItem) : (m.setDmaQueue u q).poison = m.poison := rfl
@[simp] theorem Mach.setDmaQueue_core (m : Mach) (u : Nat) (q : List DmaItem) : (m.setDmaQueue u q).core = m.core := rfl
@[simp] theorem Mach.setDmaQueue_queue (m : Mach) (u : Nat) (q : List DmaItem) : (m.setDmaQueue u q).queue = m.queue := rfl
@[simp] theorem Mach.setDmaQueue_spare (m : Mach) (u : Nat) (q : List DmaItem) : (m.setDmaQueue u q).spare = m.spare := rfl
@[simp] theorem Mach.setDmaQueue_time (m : Mach) (u : Nat) (q : List DmaItem) : (m.setDmaQueue u q).time = m.time := rfl
@[simp] theorem Mach.setDmaQueue_host (m : Mach) (u : Nat) (q : List DmaItem) : (m.setDmaQueue u q).host = m.host := rfl
@[simp] theorem Mach.setDmaQueue_power (m : Mach) (u : Nat) (q : List DmaItem) : (m.setDmaQueue u q).power = m.power := rfl
@[simp] theorem Mach.setDmaQueue_mx (m : Mach) (u : Nat) (q : List DmaItem) : (m.setDmaQueue u q).mx = m.mx := rfl
@[simp] theorem Mach.setDmaQueue_train (m : Mach) (u : Nat) (q : List DmaItem) : (m.setDmaQueue u q).train = m.train := rfl
@[simp] theorem Mach.setDmaQueue_ras (m : Mach) (u : Nat) (q : List DmaItem) : (m.setDmaQueue u q).ras = m.ras := rfl
@[simp] theorem Mach.setDmaQueue_chan (m : Mach) (u : Nat) (q : List DmaItem) : (m.setDmaQueue u q).chan = m.chan := rfl
@[simp] theorem Mach.setDmaQueue_dig (m : Mach) (u : Nat) (q : List DmaItem) : (m.setDmaQueue u q).dig = m.dig := rfl
@[simp] theorem Mach.setDmaQueue_chk (m : Mach) (u : Nat) (q : List DmaItem) : (m.setDmaQueue u q).chk = m.chk := rfl
@[simp] theorem Mach.setDmaQueue_sv (m : Mach) (u : Nat) (q : List DmaItem) : (m.setDmaQueue u q).sv = m.sv := rfl
@[simp] theorem Mach.setDmaQueue_rings (m : Mach) (u : Nat) (q : List DmaItem) : (m.setDmaQueue u q).rings = m.rings := rfl
@[simp] theorem Mach.setDmaQueue_fab (m : Mach) (u : Nat) (q : List DmaItem) : (m.setDmaQueue u q).fab = m.fab := rfl
@[simp] theorem Mach.setDmaQueue_coll (m : Mach) (u : Nat) (q : List DmaItem) : (m.setDmaQueue u q).coll = m.coll := rfl

/-! setChk -/

@[simp] theorem Mach.setChk_ticks (m : Mach) (n : Nat) (x : ChkSt) : (m.setChk n x).ticks = m.ticks := rfl
@[simp] theorem Mach.setChk_fresh (m : Mach) (n : Nat) (x : ChkSt) : (m.setChk n x).fresh = m.fresh := rfl
@[simp] theorem Mach.setChk_outbox (m : Mach) (n : Nat) (x : ChkSt) : (m.setChk n x).outbox = m.outbox := rfl
@[simp] theorem Mach.setChk_hdrs (m : Mach) (n : Nat) (x : ChkSt) : (m.setChk n x).hdrs = m.hdrs := rfl
@[simp] theorem Mach.setChk_regs (m : Mach) (n : Nat) (x : ChkSt) : (m.setChk n x).regs = m.regs := rfl
@[simp] theorem Mach.setChk_shadow (m : Mach) (n : Nat) (x : ChkSt) : (m.setChk n x).shadow = m.shadow := rfl
@[simp] theorem Mach.setChk_mem (m : Mach) (n : Nat) (x : ChkSt) : (m.setChk n x).mem = m.mem := rfl
@[simp] theorem Mach.setChk_poison (m : Mach) (n : Nat) (x : ChkSt) : (m.setChk n x).poison = m.poison := rfl
@[simp] theorem Mach.setChk_core (m : Mach) (n : Nat) (x : ChkSt) : (m.setChk n x).core = m.core := rfl
@[simp] theorem Mach.setChk_queue (m : Mach) (n : Nat) (x : ChkSt) : (m.setChk n x).queue = m.queue := rfl
@[simp] theorem Mach.setChk_spare (m : Mach) (n : Nat) (x : ChkSt) : (m.setChk n x).spare = m.spare := rfl
@[simp] theorem Mach.setChk_time (m : Mach) (n : Nat) (x : ChkSt) : (m.setChk n x).time = m.time := rfl
@[simp] theorem Mach.setChk_host (m : Mach) (n : Nat) (x : ChkSt) : (m.setChk n x).host = m.host := rfl
@[simp] theorem Mach.setChk_power (m : Mach) (n : Nat) (x : ChkSt) : (m.setChk n x).power = m.power := rfl
@[simp] theorem Mach.setChk_mx (m : Mach) (n : Nat) (x : ChkSt) : (m.setChk n x).mx = m.mx := rfl
@[simp] theorem Mach.setChk_train (m : Mach) (n : Nat) (x : ChkSt) : (m.setChk n x).train = m.train := rfl
@[simp] theorem Mach.setChk_ras (m : Mach) (n : Nat) (x : ChkSt) : (m.setChk n x).ras = m.ras := rfl
@[simp] theorem Mach.setChk_chan (m : Mach) (n : Nat) (x : ChkSt) : (m.setChk n x).chan = m.chan := rfl
@[simp] theorem Mach.setChk_dma (m : Mach) (n : Nat) (x : ChkSt) : (m.setChk n x).dma = m.dma := rfl
@[simp] theorem Mach.setChk_dig (m : Mach) (n : Nat) (x : ChkSt) : (m.setChk n x).dig = m.dig := rfl
@[simp] theorem Mach.setChk_sv (m : Mach) (n : Nat) (x : ChkSt) : (m.setChk n x).sv = m.sv := rfl
@[simp] theorem Mach.setChk_rings (m : Mach) (n : Nat) (x : ChkSt) : (m.setChk n x).rings = m.rings := rfl
@[simp] theorem Mach.setChk_fab (m : Mach) (n : Nat) (x : ChkSt) : (m.setChk n x).fab = m.fab := rfl
@[simp] theorem Mach.setChk_coll (m : Mach) (n : Nat) (x : ChkSt) : (m.setChk n x).coll = m.coll := rfl

/-! setPort -/

@[simp] theorem Mach.setPort_ticks (m : Mach) (h : HostId) (x : HostPort) : (m.setPort h x).ticks = m.ticks := rfl
@[simp] theorem Mach.setPort_fresh (m : Mach) (h : HostId) (x : HostPort) : (m.setPort h x).fresh = m.fresh := rfl
@[simp] theorem Mach.setPort_outbox (m : Mach) (h : HostId) (x : HostPort) : (m.setPort h x).outbox = m.outbox := rfl
@[simp] theorem Mach.setPort_hdrs (m : Mach) (h : HostId) (x : HostPort) : (m.setPort h x).hdrs = m.hdrs := rfl
@[simp] theorem Mach.setPort_regs (m : Mach) (h : HostId) (x : HostPort) : (m.setPort h x).regs = m.regs := rfl
@[simp] theorem Mach.setPort_shadow (m : Mach) (h : HostId) (x : HostPort) : (m.setPort h x).shadow = m.shadow := rfl
@[simp] theorem Mach.setPort_mem (m : Mach) (h : HostId) (x : HostPort) : (m.setPort h x).mem = m.mem := rfl
@[simp] theorem Mach.setPort_poison (m : Mach) (h : HostId) (x : HostPort) : (m.setPort h x).poison = m.poison := rfl
@[simp] theorem Mach.setPort_core (m : Mach) (h : HostId) (x : HostPort) : (m.setPort h x).core = m.core := rfl
@[simp] theorem Mach.setPort_queue (m : Mach) (h : HostId) (x : HostPort) : (m.setPort h x).queue = m.queue := rfl
@[simp] theorem Mach.setPort_spare (m : Mach) (h : HostId) (x : HostPort) : (m.setPort h x).spare = m.spare := rfl
@[simp] theorem Mach.setPort_time (m : Mach) (h : HostId) (x : HostPort) : (m.setPort h x).time = m.time := rfl
@[simp] theorem Mach.setPort_power (m : Mach) (h : HostId) (x : HostPort) : (m.setPort h x).power = m.power := rfl
@[simp] theorem Mach.setPort_mx (m : Mach) (h : HostId) (x : HostPort) : (m.setPort h x).mx = m.mx := rfl
@[simp] theorem Mach.setPort_train (m : Mach) (h : HostId) (x : HostPort) : (m.setPort h x).train = m.train := rfl
@[simp] theorem Mach.setPort_ras (m : Mach) (h : HostId) (x : HostPort) : (m.setPort h x).ras = m.ras := rfl
@[simp] theorem Mach.setPort_chan (m : Mach) (h : HostId) (x : HostPort) : (m.setPort h x).chan = m.chan := rfl
@[simp] theorem Mach.setPort_dma (m : Mach) (h : HostId) (x : HostPort) : (m.setPort h x).dma = m.dma := rfl
@[simp] theorem Mach.setPort_dig (m : Mach) (h : HostId) (x : HostPort) : (m.setPort h x).dig = m.dig := rfl
@[simp] theorem Mach.setPort_chk (m : Mach) (h : HostId) (x : HostPort) : (m.setPort h x).chk = m.chk := rfl
@[simp] theorem Mach.setPort_sv (m : Mach) (h : HostId) (x : HostPort) : (m.setPort h x).sv = m.sv := rfl
@[simp] theorem Mach.setPort_rings (m : Mach) (h : HostId) (x : HostPort) : (m.setPort h x).rings = m.rings := rfl
@[simp] theorem Mach.setPort_fab (m : Mach) (h : HostId) (x : HostPort) : (m.setPort h x).fab = m.fab := rfl
@[simp] theorem Mach.setPort_coll (m : Mach) (h : HostId) (x : HostPort) : (m.setPort h x).coll = m.coll := rfl

/-! setCalWord -/

@[simp] theorem Mach.setCalWord_ticks (m : Mach) (p b off : Nat) (v : Word) : (m.setCalWord p b off v).ticks = m.ticks := rfl
@[simp] theorem Mach.setCalWord_fresh (m : Mach) (p b off : Nat) (v : Word) : (m.setCalWord p b off v).fresh = m.fresh := rfl
@[simp] theorem Mach.setCalWord_outbox (m : Mach) (p b off : Nat) (v : Word) : (m.setCalWord p b off v).outbox = m.outbox := rfl
@[simp] theorem Mach.setCalWord_hdrs (m : Mach) (p b off : Nat) (v : Word) : (m.setCalWord p b off v).hdrs = m.hdrs := rfl
@[simp] theorem Mach.setCalWord_regs (m : Mach) (p b off : Nat) (v : Word) : (m.setCalWord p b off v).regs = m.regs := rfl
@[simp] theorem Mach.setCalWord_shadow (m : Mach) (p b off : Nat) (v : Word) : (m.setCalWord p b off v).shadow = m.shadow := rfl
@[simp] theorem Mach.setCalWord_mem (m : Mach) (p b off : Nat) (v : Word) : (m.setCalWord p b off v).mem = m.mem := rfl
@[simp] theorem Mach.setCalWord_poison (m : Mach) (p b off : Nat) (v : Word) : (m.setCalWord p b off v).poison = m.poison := rfl
@[simp] theorem Mach.setCalWord_core (m : Mach) (p b off : Nat) (v : Word) : (m.setCalWord p b off v).core = m.core := rfl
@[simp] theorem Mach.setCalWord_queue (m : Mach) (p b off : Nat) (v : Word) : (m.setCalWord p b off v).queue = m.queue := rfl
@[simp] theorem Mach.setCalWord_spare (m : Mach) (p b off : Nat) (v : Word) : (m.setCalWord p b off v).spare = m.spare := rfl
@[simp] theorem Mach.setCalWord_time (m : Mach) (p b off : Nat) (v : Word) : (m.setCalWord p b off v).time = m.time := rfl
@[simp] theorem Mach.setCalWord_host (m : Mach) (p b off : Nat) (v : Word) : (m.setCalWord p b off v).host = m.host := rfl
@[simp] theorem Mach.setCalWord_power (m : Mach) (p b off : Nat) (v : Word) : (m.setCalWord p b off v).power = m.power := rfl
@[simp] theorem Mach.setCalWord_mx (m : Mach) (p b off : Nat) (v : Word) : (m.setCalWord p b off v).mx = m.mx := rfl
@[simp] theorem Mach.setCalWord_train (m : Mach) (p b off : Nat) (v : Word) : (m.setCalWord p b off v).train = m.train := rfl
@[simp] theorem Mach.setCalWord_ras (m : Mach) (p b off : Nat) (v : Word) : (m.setCalWord p b off v).ras = m.ras := rfl
@[simp] theorem Mach.setCalWord_chan (m : Mach) (p b off : Nat) (v : Word) : (m.setCalWord p b off v).chan = m.chan := rfl
@[simp] theorem Mach.setCalWord_dma (m : Mach) (p b off : Nat) (v : Word) : (m.setCalWord p b off v).dma = m.dma := rfl
@[simp] theorem Mach.setCalWord_dig (m : Mach) (p b off : Nat) (v : Word) : (m.setCalWord p b off v).dig = m.dig := rfl
@[simp] theorem Mach.setCalWord_chk (m : Mach) (p b off : Nat) (v : Word) : (m.setCalWord p b off v).chk = m.chk := rfl
@[simp] theorem Mach.setCalWord_sv (m : Mach) (p b off : Nat) (v : Word) : (m.setCalWord p b off v).sv = m.sv := rfl
@[simp] theorem Mach.setCalWord_rings (m : Mach) (p b off : Nat) (v : Word) : (m.setCalWord p b off v).rings = m.rings := rfl
@[simp] theorem Mach.setCalWord_coll (m : Mach) (p b off : Nat) (v : Word) : (m.setCalWord p b off v).coll = m.coll := rfl

/-! setRing -/

@[simp] theorem Mach.setRing_ticks (m : Mach) (r : Nat) (x : RingSt) : (m.setRing r x).ticks = m.ticks := rfl
@[simp] theorem Mach.setRing_fresh (m : Mach) (r : Nat) (x : RingSt) : (m.setRing r x).fresh = m.fresh := rfl
@[simp] theorem Mach.setRing_outbox (m : Mach) (r : Nat) (x : RingSt) : (m.setRing r x).outbox = m.outbox := rfl
@[simp] theorem Mach.setRing_hdrs (m : Mach) (r : Nat) (x : RingSt) : (m.setRing r x).hdrs = m.hdrs := rfl
@[simp] theorem Mach.setRing_regs (m : Mach) (r : Nat) (x : RingSt) : (m.setRing r x).regs = m.regs := rfl
@[simp] theorem Mach.setRing_shadow (m : Mach) (r : Nat) (x : RingSt) : (m.setRing r x).shadow = m.shadow := rfl
@[simp] theorem Mach.setRing_mem (m : Mach) (r : Nat) (x : RingSt) : (m.setRing r x).mem = m.mem := rfl
@[simp] theorem Mach.setRing_poison (m : Mach) (r : Nat) (x : RingSt) : (m.setRing r x).poison = m.poison := rfl
@[simp] theorem Mach.setRing_core (m : Mach) (r : Nat) (x : RingSt) : (m.setRing r x).core = m.core := rfl
@[simp] theorem Mach.setRing_queue (m : Mach) (r : Nat) (x : RingSt) : (m.setRing r x).queue = m.queue := rfl
@[simp] theorem Mach.setRing_spare (m : Mach) (r : Nat) (x : RingSt) : (m.setRing r x).spare = m.spare := rfl
@[simp] theorem Mach.setRing_time (m : Mach) (r : Nat) (x : RingSt) : (m.setRing r x).time = m.time := rfl
@[simp] theorem Mach.setRing_host (m : Mach) (r : Nat) (x : RingSt) : (m.setRing r x).host = m.host := rfl
@[simp] theorem Mach.setRing_power (m : Mach) (r : Nat) (x : RingSt) : (m.setRing r x).power = m.power := rfl
@[simp] theorem Mach.setRing_mx (m : Mach) (r : Nat) (x : RingSt) : (m.setRing r x).mx = m.mx := rfl
@[simp] theorem Mach.setRing_train (m : Mach) (r : Nat) (x : RingSt) : (m.setRing r x).train = m.train := rfl
@[simp] theorem Mach.setRing_ras (m : Mach) (r : Nat) (x : RingSt) : (m.setRing r x).ras = m.ras := rfl
@[simp] theorem Mach.setRing_chan (m : Mach) (r : Nat) (x : RingSt) : (m.setRing r x).chan = m.chan := rfl
@[simp] theorem Mach.setRing_dma (m : Mach) (r : Nat) (x : RingSt) : (m.setRing r x).dma = m.dma := rfl
@[simp] theorem Mach.setRing_dig (m : Mach) (r : Nat) (x : RingSt) : (m.setRing r x).dig = m.dig := rfl
@[simp] theorem Mach.setRing_chk (m : Mach) (r : Nat) (x : RingSt) : (m.setRing r x).chk = m.chk := rfl
@[simp] theorem Mach.setRing_sv (m : Mach) (r : Nat) (x : RingSt) : (m.setRing r x).sv = m.sv := rfl
@[simp] theorem Mach.setRing_fab (m : Mach) (r : Nat) (x : RingSt) : (m.setRing r x).fab = m.fab := rfl
@[simp] theorem Mach.setRing_coll (m : Mach) (r : Nat) (x : RingSt) : (m.setRing r x).coll = m.coll := rfl

/-! setMx -/

@[simp] theorem Mach.setMx_ticks (m : Mach) (u : Nat) (x : MxSt) : (m.setMx u x).ticks = m.ticks := rfl
@[simp] theorem Mach.setMx_fresh (m : Mach) (u : Nat) (x : MxSt) : (m.setMx u x).fresh = m.fresh := rfl
@[simp] theorem Mach.setMx_outbox (m : Mach) (u : Nat) (x : MxSt) : (m.setMx u x).outbox = m.outbox := rfl
@[simp] theorem Mach.setMx_hdrs (m : Mach) (u : Nat) (x : MxSt) : (m.setMx u x).hdrs = m.hdrs := rfl
@[simp] theorem Mach.setMx_regs (m : Mach) (u : Nat) (x : MxSt) : (m.setMx u x).regs = m.regs := rfl
@[simp] theorem Mach.setMx_shadow (m : Mach) (u : Nat) (x : MxSt) : (m.setMx u x).shadow = m.shadow := rfl
@[simp] theorem Mach.setMx_mem (m : Mach) (u : Nat) (x : MxSt) : (m.setMx u x).mem = m.mem := rfl
@[simp] theorem Mach.setMx_poison (m : Mach) (u : Nat) (x : MxSt) : (m.setMx u x).poison = m.poison := rfl
@[simp] theorem Mach.setMx_core (m : Mach) (u : Nat) (x : MxSt) : (m.setMx u x).core = m.core := rfl
@[simp] theorem Mach.setMx_queue (m : Mach) (u : Nat) (x : MxSt) : (m.setMx u x).queue = m.queue := rfl
@[simp] theorem Mach.setMx_spare (m : Mach) (u : Nat) (x : MxSt) : (m.setMx u x).spare = m.spare := rfl
@[simp] theorem Mach.setMx_time (m : Mach) (u : Nat) (x : MxSt) : (m.setMx u x).time = m.time := rfl
@[simp] theorem Mach.setMx_host (m : Mach) (u : Nat) (x : MxSt) : (m.setMx u x).host = m.host := rfl
@[simp] theorem Mach.setMx_power (m : Mach) (u : Nat) (x : MxSt) : (m.setMx u x).power = m.power := rfl
@[simp] theorem Mach.setMx_train (m : Mach) (u : Nat) (x : MxSt) : (m.setMx u x).train = m.train := rfl
@[simp] theorem Mach.setMx_ras (m : Mach) (u : Nat) (x : MxSt) : (m.setMx u x).ras = m.ras := rfl
@[simp] theorem Mach.setMx_chan (m : Mach) (u : Nat) (x : MxSt) : (m.setMx u x).chan = m.chan := rfl
@[simp] theorem Mach.setMx_dma (m : Mach) (u : Nat) (x : MxSt) : (m.setMx u x).dma = m.dma := rfl
@[simp] theorem Mach.setMx_dig (m : Mach) (u : Nat) (x : MxSt) : (m.setMx u x).dig = m.dig := rfl
@[simp] theorem Mach.setMx_chk (m : Mach) (u : Nat) (x : MxSt) : (m.setMx u x).chk = m.chk := rfl
@[simp] theorem Mach.setMx_sv (m : Mach) (u : Nat) (x : MxSt) : (m.setMx u x).sv = m.sv := rfl
@[simp] theorem Mach.setMx_rings (m : Mach) (u : Nat) (x : MxSt) : (m.setMx u x).rings = m.rings := rfl
@[simp] theorem Mach.setMx_fab (m : Mach) (u : Nat) (x : MxSt) : (m.setMx u x).fab = m.fab := rfl
@[simp] theorem Mach.setMx_coll (m : Mach) (u : Nat) (x : MxSt) : (m.setMx u x).coll = m.coll := rfl

/-! setCombMaps -/

@[simp] theorem Mach.setCombMaps_ticks (m : Mach) (c : Nat) (x : CombMaps) : (m.setCombMaps c x).ticks = m.ticks := rfl
@[simp] theorem Mach.setCombMaps_fresh (m : Mach) (c : Nat) (x : CombMaps) : (m.setCombMaps c x).fresh = m.fresh := rfl
@[simp] theorem Mach.setCombMaps_outbox (m : Mach) (c : Nat) (x : CombMaps) : (m.setCombMaps c x).outbox = m.outbox := rfl
@[simp] theorem Mach.setCombMaps_hdrs (m : Mach) (c : Nat) (x : CombMaps) : (m.setCombMaps c x).hdrs = m.hdrs := rfl
@[simp] theorem Mach.setCombMaps_regs (m : Mach) (c : Nat) (x : CombMaps) : (m.setCombMaps c x).regs = m.regs := rfl
@[simp] theorem Mach.setCombMaps_shadow (m : Mach) (c : Nat) (x : CombMaps) : (m.setCombMaps c x).shadow = m.shadow := rfl
@[simp] theorem Mach.setCombMaps_mem (m : Mach) (c : Nat) (x : CombMaps) : (m.setCombMaps c x).mem = m.mem := rfl
@[simp] theorem Mach.setCombMaps_poison (m : Mach) (c : Nat) (x : CombMaps) : (m.setCombMaps c x).poison = m.poison := rfl
@[simp] theorem Mach.setCombMaps_core (m : Mach) (c : Nat) (x : CombMaps) : (m.setCombMaps c x).core = m.core := rfl
@[simp] theorem Mach.setCombMaps_spare (m : Mach) (c : Nat) (x : CombMaps) : (m.setCombMaps c x).spare = m.spare := rfl
@[simp] theorem Mach.setCombMaps_time (m : Mach) (c : Nat) (x : CombMaps) : (m.setCombMaps c x).time = m.time := rfl
@[simp] theorem Mach.setCombMaps_host (m : Mach) (c : Nat) (x : CombMaps) : (m.setCombMaps c x).host = m.host := rfl
@[simp] theorem Mach.setCombMaps_power (m : Mach) (c : Nat) (x : CombMaps) : (m.setCombMaps c x).power = m.power := rfl
@[simp] theorem Mach.setCombMaps_mx (m : Mach) (c : Nat) (x : CombMaps) : (m.setCombMaps c x).mx = m.mx := rfl
@[simp] theorem Mach.setCombMaps_train (m : Mach) (c : Nat) (x : CombMaps) : (m.setCombMaps c x).train = m.train := rfl
@[simp] theorem Mach.setCombMaps_ras (m : Mach) (c : Nat) (x : CombMaps) : (m.setCombMaps c x).ras = m.ras := rfl
@[simp] theorem Mach.setCombMaps_chan (m : Mach) (c : Nat) (x : CombMaps) : (m.setCombMaps c x).chan = m.chan := rfl
@[simp] theorem Mach.setCombMaps_dma (m : Mach) (c : Nat) (x : CombMaps) : (m.setCombMaps c x).dma = m.dma := rfl
@[simp] theorem Mach.setCombMaps_dig (m : Mach) (c : Nat) (x : CombMaps) : (m.setCombMaps c x).dig = m.dig := rfl
@[simp] theorem Mach.setCombMaps_chk (m : Mach) (c : Nat) (x : CombMaps) : (m.setCombMaps c x).chk = m.chk := rfl
@[simp] theorem Mach.setCombMaps_sv (m : Mach) (c : Nat) (x : CombMaps) : (m.setCombMaps c x).sv = m.sv := rfl
@[simp] theorem Mach.setCombMaps_rings (m : Mach) (c : Nat) (x : CombMaps) : (m.setCombMaps c x).rings = m.rings := rfl
@[simp] theorem Mach.setCombMaps_fab (m : Mach) (c : Nat) (x : CombMaps) : (m.setCombMaps c x).fab = m.fab := rfl
@[simp] theorem Mach.setCombMaps_coll (m : Mach) (c : Nat) (x : CombMaps) : (m.setCombMaps c x).coll = m.coll := rfl

/-! setQst -/

@[simp] theorem Mach.setQst_ticks (m : Mach) (k : Nat) (s : QState) : (m.setQst k s).ticks = m.ticks := rfl
@[simp] theorem Mach.setQst_fresh (m : Mach) (k : Nat) (s : QState) : (m.setQst k s).fresh = m.fresh := rfl
@[simp] theorem Mach.setQst_outbox (m : Mach) (k : Nat) (s : QState) : (m.setQst k s).outbox = m.outbox := rfl
@[simp] theorem Mach.setQst_hdrs (m : Mach) (k : Nat) (s : QState) : (m.setQst k s).hdrs = m.hdrs := rfl
@[simp] theorem Mach.setQst_regs (m : Mach) (k : Nat) (s : QState) : (m.setQst k s).regs = m.regs := rfl
@[simp] theorem Mach.setQst_shadow (m : Mach) (k : Nat) (s : QState) : (m.setQst k s).shadow = m.shadow := rfl
@[simp] theorem Mach.setQst_mem (m : Mach) (k : Nat) (s : QState) : (m.setQst k s).mem = m.mem := rfl
@[simp] theorem Mach.setQst_poison (m : Mach) (k : Nat) (s : QState) : (m.setQst k s).poison = m.poison := rfl
@[simp] theorem Mach.setQst_core (m : Mach) (k : Nat) (s : QState) : (m.setQst k s).core = m.core := rfl
@[simp] theorem Mach.setQst_spare (m : Mach) (k : Nat) (s : QState) : (m.setQst k s).spare = m.spare := rfl
@[simp] theorem Mach.setQst_time (m : Mach) (k : Nat) (s : QState) : (m.setQst k s).time = m.time := rfl
@[simp] theorem Mach.setQst_host (m : Mach) (k : Nat) (s : QState) : (m.setQst k s).host = m.host := rfl
@[simp] theorem Mach.setQst_power (m : Mach) (k : Nat) (s : QState) : (m.setQst k s).power = m.power := rfl
@[simp] theorem Mach.setQst_mx (m : Mach) (k : Nat) (s : QState) : (m.setQst k s).mx = m.mx := rfl
@[simp] theorem Mach.setQst_train (m : Mach) (k : Nat) (s : QState) : (m.setQst k s).train = m.train := rfl
@[simp] theorem Mach.setQst_ras (m : Mach) (k : Nat) (s : QState) : (m.setQst k s).ras = m.ras := rfl
@[simp] theorem Mach.setQst_chan (m : Mach) (k : Nat) (s : QState) : (m.setQst k s).chan = m.chan := rfl
@[simp] theorem Mach.setQst_dma (m : Mach) (k : Nat) (s : QState) : (m.setQst k s).dma = m.dma := rfl
@[simp] theorem Mach.setQst_dig (m : Mach) (k : Nat) (s : QState) : (m.setQst k s).dig = m.dig := rfl
@[simp] theorem Mach.setQst_chk (m : Mach) (k : Nat) (s : QState) : (m.setQst k s).chk = m.chk := rfl
@[simp] theorem Mach.setQst_sv (m : Mach) (k : Nat) (s : QState) : (m.setQst k s).sv = m.sv := rfl
@[simp] theorem Mach.setQst_rings (m : Mach) (k : Nat) (s : QState) : (m.setQst k s).rings = m.rings := rfl
@[simp] theorem Mach.setQst_fab (m : Mach) (k : Nat) (s : QState) : (m.setQst k s).fab = m.fab := rfl
@[simp] theorem Mach.setQst_coll (m : Mach) (k : Nat) (s : QState) : (m.setQst k s).coll = m.coll := rfl

/-! setColl -/

@[simp] theorem Mach.setColl_ticks (m : Mach) (f : Nat) (x : CollSt) : (m.setColl f x).ticks = m.ticks := rfl
@[simp] theorem Mach.setColl_fresh (m : Mach) (f : Nat) (x : CollSt) : (m.setColl f x).fresh = m.fresh := rfl
@[simp] theorem Mach.setColl_outbox (m : Mach) (f : Nat) (x : CollSt) : (m.setColl f x).outbox = m.outbox := rfl
@[simp] theorem Mach.setColl_hdrs (m : Mach) (f : Nat) (x : CollSt) : (m.setColl f x).hdrs = m.hdrs := rfl
@[simp] theorem Mach.setColl_regs (m : Mach) (f : Nat) (x : CollSt) : (m.setColl f x).regs = m.regs := rfl
@[simp] theorem Mach.setColl_shadow (m : Mach) (f : Nat) (x : CollSt) : (m.setColl f x).shadow = m.shadow := rfl
@[simp] theorem Mach.setColl_mem (m : Mach) (f : Nat) (x : CollSt) : (m.setColl f x).mem = m.mem := rfl
@[simp] theorem Mach.setColl_poison (m : Mach) (f : Nat) (x : CollSt) : (m.setColl f x).poison = m.poison := rfl
@[simp] theorem Mach.setColl_core (m : Mach) (f : Nat) (x : CollSt) : (m.setColl f x).core = m.core := rfl
@[simp] theorem Mach.setColl_queue (m : Mach) (f : Nat) (x : CollSt) : (m.setColl f x).queue = m.queue := rfl
@[simp] theorem Mach.setColl_spare (m : Mach) (f : Nat) (x : CollSt) : (m.setColl f x).spare = m.spare := rfl
@[simp] theorem Mach.setColl_time (m : Mach) (f : Nat) (x : CollSt) : (m.setColl f x).time = m.time := rfl
@[simp] theorem Mach.setColl_host (m : Mach) (f : Nat) (x : CollSt) : (m.setColl f x).host = m.host := rfl
@[simp] theorem Mach.setColl_power (m : Mach) (f : Nat) (x : CollSt) : (m.setColl f x).power = m.power := rfl
@[simp] theorem Mach.setColl_mx (m : Mach) (f : Nat) (x : CollSt) : (m.setColl f x).mx = m.mx := rfl
@[simp] theorem Mach.setColl_train (m : Mach) (f : Nat) (x : CollSt) : (m.setColl f x).train = m.train := rfl
@[simp] theorem Mach.setColl_ras (m : Mach) (f : Nat) (x : CollSt) : (m.setColl f x).ras = m.ras := rfl
@[simp] theorem Mach.setColl_chan (m : Mach) (f : Nat) (x : CollSt) : (m.setColl f x).chan = m.chan := rfl
@[simp] theorem Mach.setColl_dma (m : Mach) (f : Nat) (x : CollSt) : (m.setColl f x).dma = m.dma := rfl
@[simp] theorem Mach.setColl_dig (m : Mach) (f : Nat) (x : CollSt) : (m.setColl f x).dig = m.dig := rfl
@[simp] theorem Mach.setColl_chk (m : Mach) (f : Nat) (x : CollSt) : (m.setColl f x).chk = m.chk := rfl
@[simp] theorem Mach.setColl_sv (m : Mach) (f : Nat) (x : CollSt) : (m.setColl f x).sv = m.sv := rfl
@[simp] theorem Mach.setColl_rings (m : Mach) (f : Nat) (x : CollSt) : (m.setColl f x).rings = m.rings := rfl
@[simp] theorem Mach.setColl_fab (m : Mach) (f : Nat) (x : CollSt) : (m.setColl f x).fab = m.fab := rfl

/-! setFlowTx -/

@[simp] theorem Mach.setFlowTx_ticks (m : Mach) (t : FlowTx) : (m.setFlowTx t).ticks = m.ticks := rfl
@[simp] theorem Mach.setFlowTx_fresh (m : Mach) (t : FlowTx) : (m.setFlowTx t).fresh = m.fresh := rfl
@[simp] theorem Mach.setFlowTx_outbox (m : Mach) (t : FlowTx) : (m.setFlowTx t).outbox = m.outbox := rfl
@[simp] theorem Mach.setFlowTx_hdrs (m : Mach) (t : FlowTx) : (m.setFlowTx t).hdrs = m.hdrs := rfl
@[simp] theorem Mach.setFlowTx_regs (m : Mach) (t : FlowTx) : (m.setFlowTx t).regs = m.regs := rfl
@[simp] theorem Mach.setFlowTx_shadow (m : Mach) (t : FlowTx) : (m.setFlowTx t).shadow = m.shadow := rfl
@[simp] theorem Mach.setFlowTx_mem (m : Mach) (t : FlowTx) : (m.setFlowTx t).mem = m.mem := rfl
@[simp] theorem Mach.setFlowTx_poison (m : Mach) (t : FlowTx) : (m.setFlowTx t).poison = m.poison := rfl
@[simp] theorem Mach.setFlowTx_core (m : Mach) (t : FlowTx) : (m.setFlowTx t).core = m.core := rfl
@[simp] theorem Mach.setFlowTx_queue (m : Mach) (t : FlowTx) : (m.setFlowTx t).queue = m.queue := rfl
@[simp] theorem Mach.setFlowTx_spare (m : Mach) (t : FlowTx) : (m.setFlowTx t).spare = m.spare := rfl
@[simp] theorem Mach.setFlowTx_time (m : Mach) (t : FlowTx) : (m.setFlowTx t).time = m.time := rfl
@[simp] theorem Mach.setFlowTx_host (m : Mach) (t : FlowTx) : (m.setFlowTx t).host = m.host := rfl
@[simp] theorem Mach.setFlowTx_power (m : Mach) (t : FlowTx) : (m.setFlowTx t).power = m.power := rfl
@[simp] theorem Mach.setFlowTx_mx (m : Mach) (t : FlowTx) : (m.setFlowTx t).mx = m.mx := rfl
@[simp] theorem Mach.setFlowTx_train (m : Mach) (t : FlowTx) : (m.setFlowTx t).train = m.train := rfl
@[simp] theorem Mach.setFlowTx_ras (m : Mach) (t : FlowTx) : (m.setFlowTx t).ras = m.ras := rfl
@[simp] theorem Mach.setFlowTx_chan (m : Mach) (t : FlowTx) : (m.setFlowTx t).chan = m.chan := rfl
@[simp] theorem Mach.setFlowTx_dma (m : Mach) (t : FlowTx) : (m.setFlowTx t).dma = m.dma := rfl
@[simp] theorem Mach.setFlowTx_dig (m : Mach) (t : FlowTx) : (m.setFlowTx t).dig = m.dig := rfl
@[simp] theorem Mach.setFlowTx_chk (m : Mach) (t : FlowTx) : (m.setFlowTx t).chk = m.chk := rfl
@[simp] theorem Mach.setFlowTx_sv (m : Mach) (t : FlowTx) : (m.setFlowTx t).sv = m.sv := rfl
@[simp] theorem Mach.setFlowTx_rings (m : Mach) (t : FlowTx) : (m.setFlowTx t).rings = m.rings := rfl
@[simp] theorem Mach.setFlowTx_coll (m : Mach) (t : FlowTx) : (m.setFlowTx t).coll = m.coll := rfl

/-! setFlowRx -/

@[simp] theorem Mach.setFlowRx_ticks (m : Mach) (t : FlowRx) : (m.setFlowRx t).ticks = m.ticks := rfl
@[simp] theorem Mach.setFlowRx_fresh (m : Mach) (t : FlowRx) : (m.setFlowRx t).fresh = m.fresh := rfl
@[simp] theorem Mach.setFlowRx_outbox (m : Mach) (t : FlowRx) : (m.setFlowRx t).outbox = m.outbox := rfl
@[simp] theorem Mach.setFlowRx_hdrs (m : Mach) (t : FlowRx) : (m.setFlowRx t).hdrs = m.hdrs := rfl
@[simp] theorem Mach.setFlowRx_regs (m : Mach) (t : FlowRx) : (m.setFlowRx t).regs = m.regs := rfl
@[simp] theorem Mach.setFlowRx_shadow (m : Mach) (t : FlowRx) : (m.setFlowRx t).shadow = m.shadow := rfl
@[simp] theorem Mach.setFlowRx_mem (m : Mach) (t : FlowRx) : (m.setFlowRx t).mem = m.mem := rfl
@[simp] theorem Mach.setFlowRx_poison (m : Mach) (t : FlowRx) : (m.setFlowRx t).poison = m.poison := rfl
@[simp] theorem Mach.setFlowRx_core (m : Mach) (t : FlowRx) : (m.setFlowRx t).core = m.core := rfl
@[simp] theorem Mach.setFlowRx_queue (m : Mach) (t : FlowRx) : (m.setFlowRx t).queue = m.queue := rfl
@[simp] theorem Mach.setFlowRx_spare (m : Mach) (t : FlowRx) : (m.setFlowRx t).spare = m.spare := rfl
@[simp] theorem Mach.setFlowRx_time (m : Mach) (t : FlowRx) : (m.setFlowRx t).time = m.time := rfl
@[simp] theorem Mach.setFlowRx_host (m : Mach) (t : FlowRx) : (m.setFlowRx t).host = m.host := rfl
@[simp] theorem Mach.setFlowRx_power (m : Mach) (t : FlowRx) : (m.setFlowRx t).power = m.power := rfl
@[simp] theorem Mach.setFlowRx_mx (m : Mach) (t : FlowRx) : (m.setFlowRx t).mx = m.mx := rfl
@[simp] theorem Mach.setFlowRx_train (m : Mach) (t : FlowRx) : (m.setFlowRx t).train = m.train := rfl
@[simp] theorem Mach.setFlowRx_ras (m : Mach) (t : FlowRx) : (m.setFlowRx t).ras = m.ras := rfl
@[simp] theorem Mach.setFlowRx_chan (m : Mach) (t : FlowRx) : (m.setFlowRx t).chan = m.chan := rfl
@[simp] theorem Mach.setFlowRx_dma (m : Mach) (t : FlowRx) : (m.setFlowRx t).dma = m.dma := rfl
@[simp] theorem Mach.setFlowRx_dig (m : Mach) (t : FlowRx) : (m.setFlowRx t).dig = m.dig := rfl
@[simp] theorem Mach.setFlowRx_chk (m : Mach) (t : FlowRx) : (m.setFlowRx t).chk = m.chk := rfl
@[simp] theorem Mach.setFlowRx_sv (m : Mach) (t : FlowRx) : (m.setFlowRx t).sv = m.sv := rfl
@[simp] theorem Mach.setFlowRx_rings (m : Mach) (t : FlowRx) : (m.setFlowRx t).rings = m.rings := rfl
@[simp] theorem Mach.setFlowRx_coll (m : Mach) (t : FlowRx) : (m.setFlowRx t).coll = m.coll := rfl

/-! takeOffer -/

@[simp] theorem Mach.takeOffer_ticks (m : Mach) (o : Offer) : (m.takeOffer o).ticks = m.ticks := rfl
@[simp] theorem Mach.takeOffer_fresh (m : Mach) (o : Offer) : (m.takeOffer o).fresh = m.fresh := rfl
@[simp] theorem Mach.takeOffer_outbox (m : Mach) (o : Offer) : (m.takeOffer o).outbox = m.outbox := rfl
@[simp] theorem Mach.takeOffer_hdrs (m : Mach) (o : Offer) : (m.takeOffer o).hdrs = m.hdrs := rfl
@[simp] theorem Mach.takeOffer_regs (m : Mach) (o : Offer) : (m.takeOffer o).regs = m.regs := rfl
@[simp] theorem Mach.takeOffer_shadow (m : Mach) (o : Offer) : (m.takeOffer o).shadow = m.shadow := rfl
@[simp] theorem Mach.takeOffer_mem (m : Mach) (o : Offer) : (m.takeOffer o).mem = m.mem := rfl
@[simp] theorem Mach.takeOffer_poison (m : Mach) (o : Offer) : (m.takeOffer o).poison = m.poison := rfl
@[simp] theorem Mach.takeOffer_core (m : Mach) (o : Offer) : (m.takeOffer o).core = m.core := rfl
@[simp] theorem Mach.takeOffer_queue (m : Mach) (o : Offer) : (m.takeOffer o).queue = m.queue := rfl
@[simp] theorem Mach.takeOffer_spare (m : Mach) (o : Offer) : (m.takeOffer o).spare = m.spare := rfl
@[simp] theorem Mach.takeOffer_time (m : Mach) (o : Offer) : (m.takeOffer o).time = m.time := rfl
@[simp] theorem Mach.takeOffer_host (m : Mach) (o : Offer) : (m.takeOffer o).host = m.host := rfl
@[simp] theorem Mach.takeOffer_power (m : Mach) (o : Offer) : (m.takeOffer o).power = m.power := rfl
@[simp] theorem Mach.takeOffer_mx (m : Mach) (o : Offer) : (m.takeOffer o).mx = m.mx := rfl
@[simp] theorem Mach.takeOffer_train (m : Mach) (o : Offer) : (m.takeOffer o).train = m.train := rfl
@[simp] theorem Mach.takeOffer_ras (m : Mach) (o : Offer) : (m.takeOffer o).ras = m.ras := rfl
@[simp] theorem Mach.takeOffer_chan (m : Mach) (o : Offer) : (m.takeOffer o).chan = m.chan := rfl
@[simp] theorem Mach.takeOffer_dma (m : Mach) (o : Offer) : (m.takeOffer o).dma = m.dma := rfl
@[simp] theorem Mach.takeOffer_dig (m : Mach) (o : Offer) : (m.takeOffer o).dig = m.dig := rfl
@[simp] theorem Mach.takeOffer_chk (m : Mach) (o : Offer) : (m.takeOffer o).chk = m.chk := rfl
@[simp] theorem Mach.takeOffer_sv (m : Mach) (o : Offer) : (m.takeOffer o).sv = m.sv := rfl
@[simp] theorem Mach.takeOffer_rings (m : Mach) (o : Offer) : (m.takeOffer o).rings = m.rings := rfl
@[simp] theorem Mach.takeOffer_coll (m : Mach) (o : Offer) : (m.takeOffer o).coll = m.coll := rfl

/-! setAgain -/

@[simp] theorem Mach.setAgain_ticks (m : Mach) (v : Bool) : (m.setAgain v).ticks = m.ticks := rfl
@[simp] theorem Mach.setAgain_fresh (m : Mach) (v : Bool) : (m.setAgain v).fresh = m.fresh := rfl
@[simp] theorem Mach.setAgain_outbox (m : Mach) (v : Bool) : (m.setAgain v).outbox = m.outbox := rfl
@[simp] theorem Mach.setAgain_hdrs (m : Mach) (v : Bool) : (m.setAgain v).hdrs = m.hdrs := rfl
@[simp] theorem Mach.setAgain_regs (m : Mach) (v : Bool) : (m.setAgain v).regs = m.regs := rfl
@[simp] theorem Mach.setAgain_shadow (m : Mach) (v : Bool) : (m.setAgain v).shadow = m.shadow := rfl
@[simp] theorem Mach.setAgain_mem (m : Mach) (v : Bool) : (m.setAgain v).mem = m.mem := rfl
@[simp] theorem Mach.setAgain_poison (m : Mach) (v : Bool) : (m.setAgain v).poison = m.poison := rfl
@[simp] theorem Mach.setAgain_core (m : Mach) (v : Bool) : (m.setAgain v).core = m.core := rfl
@[simp] theorem Mach.setAgain_queue (m : Mach) (v : Bool) : (m.setAgain v).queue = m.queue := rfl
@[simp] theorem Mach.setAgain_spare (m : Mach) (v : Bool) : (m.setAgain v).spare = m.spare := rfl
@[simp] theorem Mach.setAgain_time (m : Mach) (v : Bool) : (m.setAgain v).time = m.time := rfl
@[simp] theorem Mach.setAgain_host (m : Mach) (v : Bool) : (m.setAgain v).host = m.host := rfl
@[simp] theorem Mach.setAgain_mx (m : Mach) (v : Bool) : (m.setAgain v).mx = m.mx := rfl
@[simp] theorem Mach.setAgain_train (m : Mach) (v : Bool) : (m.setAgain v).train = m.train := rfl
@[simp] theorem Mach.setAgain_ras (m : Mach) (v : Bool) : (m.setAgain v).ras = m.ras := rfl
@[simp] theorem Mach.setAgain_chan (m : Mach) (v : Bool) : (m.setAgain v).chan = m.chan := rfl
@[simp] theorem Mach.setAgain_dma (m : Mach) (v : Bool) : (m.setAgain v).dma = m.dma := rfl
@[simp] theorem Mach.setAgain_dig (m : Mach) (v : Bool) : (m.setAgain v).dig = m.dig := rfl
@[simp] theorem Mach.setAgain_chk (m : Mach) (v : Bool) : (m.setAgain v).chk = m.chk := rfl
@[simp] theorem Mach.setAgain_sv (m : Mach) (v : Bool) : (m.setAgain v).sv = m.sv := rfl
@[simp] theorem Mach.setAgain_rings (m : Mach) (v : Bool) : (m.setAgain v).rings = m.rings := rfl
@[simp] theorem Mach.setAgain_fab (m : Mach) (v : Bool) : (m.setAgain v).fab = m.fab := rfl
@[simp] theorem Mach.setAgain_coll (m : Mach) (v : Bool) : (m.setAgain v).coll = m.coll := rfl

/-! setTherm -/

@[simp] theorem Mach.setTherm_ticks (m : Mach) (f v : Nat) : (m.setTherm f v).ticks = m.ticks := rfl
@[simp] theorem Mach.setTherm_fresh (m : Mach) (f v : Nat) : (m.setTherm f v).fresh = m.fresh := rfl
@[simp] theorem Mach.setTherm_outbox (m : Mach) (f v : Nat) : (m.setTherm f v).outbox = m.outbox := rfl
@[simp] theorem Mach.setTherm_hdrs (m : Mach) (f v : Nat) : (m.setTherm f v).hdrs = m.hdrs := rfl
@[simp] theorem Mach.setTherm_regs (m : Mach) (f v : Nat) : (m.setTherm f v).regs = m.regs := rfl
@[simp] theorem Mach.setTherm_shadow (m : Mach) (f v : Nat) : (m.setTherm f v).shadow = m.shadow := rfl
@[simp] theorem Mach.setTherm_mem (m : Mach) (f v : Nat) : (m.setTherm f v).mem = m.mem := rfl
@[simp] theorem Mach.setTherm_poison (m : Mach) (f v : Nat) : (m.setTherm f v).poison = m.poison := rfl
@[simp] theorem Mach.setTherm_core (m : Mach) (f v : Nat) : (m.setTherm f v).core = m.core := rfl
@[simp] theorem Mach.setTherm_queue (m : Mach) (f v : Nat) : (m.setTherm f v).queue = m.queue := rfl
@[simp] theorem Mach.setTherm_spare (m : Mach) (f v : Nat) : (m.setTherm f v).spare = m.spare := rfl
@[simp] theorem Mach.setTherm_time (m : Mach) (f v : Nat) : (m.setTherm f v).time = m.time := rfl
@[simp] theorem Mach.setTherm_host (m : Mach) (f v : Nat) : (m.setTherm f v).host = m.host := rfl
@[simp] theorem Mach.setTherm_mx (m : Mach) (f v : Nat) : (m.setTherm f v).mx = m.mx := rfl
@[simp] theorem Mach.setTherm_train (m : Mach) (f v : Nat) : (m.setTherm f v).train = m.train := rfl
@[simp] theorem Mach.setTherm_ras (m : Mach) (f v : Nat) : (m.setTherm f v).ras = m.ras := rfl
@[simp] theorem Mach.setTherm_chan (m : Mach) (f v : Nat) : (m.setTherm f v).chan = m.chan := rfl
@[simp] theorem Mach.setTherm_dma (m : Mach) (f v : Nat) : (m.setTherm f v).dma = m.dma := rfl
@[simp] theorem Mach.setTherm_dig (m : Mach) (f v : Nat) : (m.setTherm f v).dig = m.dig := rfl
@[simp] theorem Mach.setTherm_chk (m : Mach) (f v : Nat) : (m.setTherm f v).chk = m.chk := rfl
@[simp] theorem Mach.setTherm_sv (m : Mach) (f v : Nat) : (m.setTherm f v).sv = m.sv := rfl
@[simp] theorem Mach.setTherm_rings (m : Mach) (f v : Nat) : (m.setTherm f v).rings = m.rings := rfl
@[simp] theorem Mach.setTherm_fab (m : Mach) (f v : Nat) : (m.setTherm f v).fab = m.fab := rfl
@[simp] theorem Mach.setTherm_coll (m : Mach) (f v : Nat) : (m.setTherm f v).coll = m.coll := rfl

/-! setDroop -/

@[simp] theorem Mach.setDroop_ticks (m : Mach) (f v : Nat) : (m.setDroop f v).ticks = m.ticks := rfl
@[simp] theorem Mach.setDroop_fresh (m : Mach) (f v : Nat) : (m.setDroop f v).fresh = m.fresh := rfl
@[simp] theorem Mach.setDroop_outbox (m : Mach) (f v : Nat) : (m.setDroop f v).outbox = m.outbox := rfl
@[simp] theorem Mach.setDroop_hdrs (m : Mach) (f v : Nat) : (m.setDroop f v).hdrs = m.hdrs := rfl
@[simp] theorem Mach.setDroop_regs (m : Mach) (f v : Nat) : (m.setDroop f v).regs = m.regs := rfl
@[simp] theorem Mach.setDroop_shadow (m : Mach) (f v : Nat) : (m.setDroop f v).shadow = m.shadow := rfl
@[simp] theorem Mach.setDroop_mem (m : Mach) (f v : Nat) : (m.setDroop f v).mem = m.mem := rfl
@[simp] theorem Mach.setDroop_poison (m : Mach) (f v : Nat) : (m.setDroop f v).poison = m.poison := rfl
@[simp] theorem Mach.setDroop_core (m : Mach) (f v : Nat) : (m.setDroop f v).core = m.core := rfl
@[simp] theorem Mach.setDroop_queue (m : Mach) (f v : Nat) : (m.setDroop f v).queue = m.queue := rfl
@[simp] theorem Mach.setDroop_spare (m : Mach) (f v : Nat) : (m.setDroop f v).spare = m.spare := rfl
@[simp] theorem Mach.setDroop_time (m : Mach) (f v : Nat) : (m.setDroop f v).time = m.time := rfl
@[simp] theorem Mach.setDroop_host (m : Mach) (f v : Nat) : (m.setDroop f v).host = m.host := rfl
@[simp] theorem Mach.setDroop_mx (m : Mach) (f v : Nat) : (m.setDroop f v).mx = m.mx := rfl
@[simp] theorem Mach.setDroop_train (m : Mach) (f v : Nat) : (m.setDroop f v).train = m.train := rfl
@[simp] theorem Mach.setDroop_ras (m : Mach) (f v : Nat) : (m.setDroop f v).ras = m.ras := rfl
@[simp] theorem Mach.setDroop_chan (m : Mach) (f v : Nat) : (m.setDroop f v).chan = m.chan := rfl
@[simp] theorem Mach.setDroop_dma (m : Mach) (f v : Nat) : (m.setDroop f v).dma = m.dma := rfl
@[simp] theorem Mach.setDroop_dig (m : Mach) (f v : Nat) : (m.setDroop f v).dig = m.dig := rfl
@[simp] theorem Mach.setDroop_chk (m : Mach) (f v : Nat) : (m.setDroop f v).chk = m.chk := rfl
@[simp] theorem Mach.setDroop_sv (m : Mach) (f v : Nat) : (m.setDroop f v).sv = m.sv := rfl
@[simp] theorem Mach.setDroop_rings (m : Mach) (f v : Nat) : (m.setDroop f v).rings = m.rings := rfl
@[simp] theorem Mach.setDroop_fab (m : Mach) (f v : Nat) : (m.setDroop f v).fab = m.fab := rfl
@[simp] theorem Mach.setDroop_coll (m : Mach) (f v : Nat) : (m.setDroop f v).coll = m.coll := rfl

/-! setPllAt -/

@[simp] theorem Mach.setPllAt_ticks (m : Mach) (p : Nat) (t : Option Nat) : (m.setPllAt p t).ticks = m.ticks := rfl
@[simp] theorem Mach.setPllAt_fresh (m : Mach) (p : Nat) (t : Option Nat) : (m.setPllAt p t).fresh = m.fresh := rfl
@[simp] theorem Mach.setPllAt_outbox (m : Mach) (p : Nat) (t : Option Nat) : (m.setPllAt p t).outbox = m.outbox := rfl
@[simp] theorem Mach.setPllAt_hdrs (m : Mach) (p : Nat) (t : Option Nat) : (m.setPllAt p t).hdrs = m.hdrs := rfl
@[simp] theorem Mach.setPllAt_regs (m : Mach) (p : Nat) (t : Option Nat) : (m.setPllAt p t).regs = m.regs := rfl
@[simp] theorem Mach.setPllAt_shadow (m : Mach) (p : Nat) (t : Option Nat) : (m.setPllAt p t).shadow = m.shadow := rfl
@[simp] theorem Mach.setPllAt_mem (m : Mach) (p : Nat) (t : Option Nat) : (m.setPllAt p t).mem = m.mem := rfl
@[simp] theorem Mach.setPllAt_poison (m : Mach) (p : Nat) (t : Option Nat) : (m.setPllAt p t).poison = m.poison := rfl
@[simp] theorem Mach.setPllAt_core (m : Mach) (p : Nat) (t : Option Nat) : (m.setPllAt p t).core = m.core := rfl
@[simp] theorem Mach.setPllAt_queue (m : Mach) (p : Nat) (t : Option Nat) : (m.setPllAt p t).queue = m.queue := rfl
@[simp] theorem Mach.setPllAt_spare (m : Mach) (p : Nat) (t : Option Nat) : (m.setPllAt p t).spare = m.spare := rfl
@[simp] theorem Mach.setPllAt_time (m : Mach) (p : Nat) (t : Option Nat) : (m.setPllAt p t).time = m.time := rfl
@[simp] theorem Mach.setPllAt_host (m : Mach) (p : Nat) (t : Option Nat) : (m.setPllAt p t).host = m.host := rfl
@[simp] theorem Mach.setPllAt_mx (m : Mach) (p : Nat) (t : Option Nat) : (m.setPllAt p t).mx = m.mx := rfl
@[simp] theorem Mach.setPllAt_train (m : Mach) (p : Nat) (t : Option Nat) : (m.setPllAt p t).train = m.train := rfl
@[simp] theorem Mach.setPllAt_ras (m : Mach) (p : Nat) (t : Option Nat) : (m.setPllAt p t).ras = m.ras := rfl
@[simp] theorem Mach.setPllAt_chan (m : Mach) (p : Nat) (t : Option Nat) : (m.setPllAt p t).chan = m.chan := rfl
@[simp] theorem Mach.setPllAt_dma (m : Mach) (p : Nat) (t : Option Nat) : (m.setPllAt p t).dma = m.dma := rfl
@[simp] theorem Mach.setPllAt_dig (m : Mach) (p : Nat) (t : Option Nat) : (m.setPllAt p t).dig = m.dig := rfl
@[simp] theorem Mach.setPllAt_chk (m : Mach) (p : Nat) (t : Option Nat) : (m.setPllAt p t).chk = m.chk := rfl
@[simp] theorem Mach.setPllAt_sv (m : Mach) (p : Nat) (t : Option Nat) : (m.setPllAt p t).sv = m.sv := rfl
@[simp] theorem Mach.setPllAt_rings (m : Mach) (p : Nat) (t : Option Nat) : (m.setPllAt p t).rings = m.rings := rfl
@[simp] theorem Mach.setPllAt_fab (m : Mach) (p : Nat) (t : Option Nat) : (m.setPllAt p t).fab = m.fab := rfl
@[simp] theorem Mach.setPllAt_coll (m : Mach) (p : Nat) (t : Option Nat) : (m.setPllAt p t).coll = m.coll := rfl

/-! setChan -/

@[simp] theorem Mach.setChan_ticks (m : Mach) (t : Nat) (c : ChanSt) : (m.setChan t c).ticks = m.ticks := rfl
@[simp] theorem Mach.setChan_fresh (m : Mach) (t : Nat) (c : ChanSt) : (m.setChan t c).fresh = m.fresh := rfl
@[simp] theorem Mach.setChan_outbox (m : Mach) (t : Nat) (c : ChanSt) : (m.setChan t c).outbox = m.outbox := rfl
@[simp] theorem Mach.setChan_hdrs (m : Mach) (t : Nat) (c : ChanSt) : (m.setChan t c).hdrs = m.hdrs := rfl
@[simp] theorem Mach.setChan_regs (m : Mach) (t : Nat) (c : ChanSt) : (m.setChan t c).regs = m.regs := rfl
@[simp] theorem Mach.setChan_shadow (m : Mach) (t : Nat) (c : ChanSt) : (m.setChan t c).shadow = m.shadow := rfl
@[simp] theorem Mach.setChan_mem (m : Mach) (t : Nat) (c : ChanSt) : (m.setChan t c).mem = m.mem := rfl
@[simp] theorem Mach.setChan_poison (m : Mach) (t : Nat) (c : ChanSt) : (m.setChan t c).poison = m.poison := rfl
@[simp] theorem Mach.setChan_core (m : Mach) (t : Nat) (c : ChanSt) : (m.setChan t c).core = m.core := rfl
@[simp] theorem Mach.setChan_queue (m : Mach) (t : Nat) (c : ChanSt) : (m.setChan t c).queue = m.queue := rfl
@[simp] theorem Mach.setChan_spare (m : Mach) (t : Nat) (c : ChanSt) : (m.setChan t c).spare = m.spare := rfl
@[simp] theorem Mach.setChan_time (m : Mach) (t : Nat) (c : ChanSt) : (m.setChan t c).time = m.time := rfl
@[simp] theorem Mach.setChan_host (m : Mach) (t : Nat) (c : ChanSt) : (m.setChan t c).host = m.host := rfl
@[simp] theorem Mach.setChan_power (m : Mach) (t : Nat) (c : ChanSt) : (m.setChan t c).power = m.power := rfl
@[simp] theorem Mach.setChan_mx (m : Mach) (t : Nat) (c : ChanSt) : (m.setChan t c).mx = m.mx := rfl
@[simp] theorem Mach.setChan_train (m : Mach) (t : Nat) (c : ChanSt) : (m.setChan t c).train = m.train := rfl
@[simp] theorem Mach.setChan_ras (m : Mach) (t : Nat) (c : ChanSt) : (m.setChan t c).ras = m.ras := rfl
@[simp] theorem Mach.setChan_dma (m : Mach) (t : Nat) (c : ChanSt) : (m.setChan t c).dma = m.dma := rfl
@[simp] theorem Mach.setChan_dig (m : Mach) (t : Nat) (c : ChanSt) : (m.setChan t c).dig = m.dig := rfl
@[simp] theorem Mach.setChan_chk (m : Mach) (t : Nat) (c : ChanSt) : (m.setChan t c).chk = m.chk := rfl
@[simp] theorem Mach.setChan_sv (m : Mach) (t : Nat) (c : ChanSt) : (m.setChan t c).sv = m.sv := rfl
@[simp] theorem Mach.setChan_rings (m : Mach) (t : Nat) (c : ChanSt) : (m.setChan t c).rings = m.rings := rfl
@[simp] theorem Mach.setChan_fab (m : Mach) (t : Nat) (c : ChanSt) : (m.setChan t c).fab = m.fab := rfl
@[simp] theorem Mach.setChan_coll (m : Mach) (t : Nat) (c : ChanSt) : (m.setChan t c).coll = m.coll := rfl

/-! setSlot -/

@[simp] theorem Mach.setSlot_ticks (m : Mach) (n : Nat) (s : Slot) : (m.setSlot n s).ticks = m.ticks := rfl
@[simp] theorem Mach.setSlot_fresh (m : Mach) (n : Nat) (s : Slot) : (m.setSlot n s).fresh = m.fresh := rfl
@[simp] theorem Mach.setSlot_outbox (m : Mach) (n : Nat) (s : Slot) : (m.setSlot n s).outbox = m.outbox := rfl
@[simp] theorem Mach.setSlot_hdrs (m : Mach) (n : Nat) (s : Slot) : (m.setSlot n s).hdrs = m.hdrs := rfl
@[simp] theorem Mach.setSlot_regs (m : Mach) (n : Nat) (s : Slot) : (m.setSlot n s).regs = m.regs := rfl
@[simp] theorem Mach.setSlot_shadow (m : Mach) (n : Nat) (s : Slot) : (m.setSlot n s).shadow = m.shadow := rfl
@[simp] theorem Mach.setSlot_mem (m : Mach) (n : Nat) (s : Slot) : (m.setSlot n s).mem = m.mem := rfl
@[simp] theorem Mach.setSlot_poison (m : Mach) (n : Nat) (s : Slot) : (m.setSlot n s).poison = m.poison := rfl
@[simp] theorem Mach.setSlot_core (m : Mach) (n : Nat) (s : Slot) : (m.setSlot n s).core = m.core := rfl
@[simp] theorem Mach.setSlot_queue (m : Mach) (n : Nat) (s : Slot) : (m.setSlot n s).queue = m.queue := rfl
@[simp] theorem Mach.setSlot_spare (m : Mach) (n : Nat) (s : Slot) : (m.setSlot n s).spare = m.spare := rfl
@[simp] theorem Mach.setSlot_time (m : Mach) (n : Nat) (s : Slot) : (m.setSlot n s).time = m.time := rfl
@[simp] theorem Mach.setSlot_host (m : Mach) (n : Nat) (s : Slot) : (m.setSlot n s).host = m.host := rfl
@[simp] theorem Mach.setSlot_power (m : Mach) (n : Nat) (s : Slot) : (m.setSlot n s).power = m.power := rfl
@[simp] theorem Mach.setSlot_mx (m : Mach) (n : Nat) (s : Slot) : (m.setSlot n s).mx = m.mx := rfl
@[simp] theorem Mach.setSlot_ras (m : Mach) (n : Nat) (s : Slot) : (m.setSlot n s).ras = m.ras := rfl
@[simp] theorem Mach.setSlot_chan (m : Mach) (n : Nat) (s : Slot) : (m.setSlot n s).chan = m.chan := rfl
@[simp] theorem Mach.setSlot_dma (m : Mach) (n : Nat) (s : Slot) : (m.setSlot n s).dma = m.dma := rfl
@[simp] theorem Mach.setSlot_dig (m : Mach) (n : Nat) (s : Slot) : (m.setSlot n s).dig = m.dig := rfl
@[simp] theorem Mach.setSlot_chk (m : Mach) (n : Nat) (s : Slot) : (m.setSlot n s).chk = m.chk := rfl
@[simp] theorem Mach.setSlot_sv (m : Mach) (n : Nat) (s : Slot) : (m.setSlot n s).sv = m.sv := rfl
@[simp] theorem Mach.setSlot_rings (m : Mach) (n : Nat) (s : Slot) : (m.setSlot n s).rings = m.rings := rfl
@[simp] theorem Mach.setSlot_fab (m : Mach) (n : Nat) (s : Slot) : (m.setSlot n s).fab = m.fab := rfl
@[simp] theorem Mach.setSlot_coll (m : Mach) (n : Nat) (s : Slot) : (m.setSlot n s).coll = m.coll := rfl

end Sys2Proof.Machine
end

