-- ==== Sys2Proof/Laws/Ops.lean ====
section
/-! SUPPORT. For each shared operation what it can do: its own result, and everything that it leaves as it was. -/

namespace Sys2Proof.Machine

/-! The outcome of a command -/

/-- A command whose operands name something answers a next state with the queue as it was. -/
theorem State.run_true (s : State) (f : Mach → Mach) : s.run true f = .next { s with m := f s.m } := rfl

/-- A command whose operands name nothing is refused. -/
theorem State.run_false (s : State) (f : Mach → Mach) : s.run false f = .refused .illFormed := rfl

/-- A command answers one of two things. -/
theorem State.run_cases (s : State) (ok : Bool) (f : Mach → Mach) :
    (ok = true ∧ s.run ok f = .next { s with m := f s.m }) ∨ (ok = false ∧ s.run ok f = .refused .illFormed) := by
  cases ok
  · exact .inr ⟨rfl, rfl⟩
  · exact .inl ⟨rfl, rfl⟩

/-! Headers, contexts, units and registers -/

/-- A listed value is read back, whatever else the list holds. -/
theorem SMap.get_set_listed {α : Type} [DecidableEq α] (l : SMap α) (d : Nat → α) (k : Nat) (v : α) (h : v ≠ d k) :
    SMap.get (SMap.set l d k v) d k = v := by
  simp [SMap.get, SMap.set, h, SMap.find?_insert_same]

theorem Mach.hdr_setHdr (m : Mach) (p : Page) (h : Header) (hw : SMap.wf m.hdrs hdrDefault = true) :
    (m.setHdr p h).hdr p = h :=
  SMap.get_set_same m.hdrs hdrDefault p.num h hw

theorem Mach.hdr_setHdr_of_ne (m : Mach) (p q : Page) (h : Header) (n : q.num ≠ p.num) : (m.setHdr p h).hdr q = m.hdr q :=
  SMap.get_set_other m.hdrs hdrDefault p.num q.num h n

theorem Mach.setHdr_wf (m : Mach) (p : Page) (h : Header) (hw : SMap.wf m.hdrs hdrDefault = true) :
    SMap.wf (m.setHdr p h).hdrs hdrDefault = true :=
  SMap.wf_set m.hdrs hdrDefault p.num h hw

theorem Mach.ctx_setCtx (m : Mach) (u c : Nat) (x : Ctx) (hw : SMap.wf m.core.ctxs ctxDefault = true) :
    (m.setCtx u c x).ctx u c = x :=
  SMap.get_set_same m.core.ctxs ctxDefault _ x hw

/-- A context that is not in its reset state is read back, whatever else the list holds. -/
theorem Mach.ctx_setCtx_of_state (m : Mach) (u c : Nat) (x : Ctx) (h : x.state ≠ .halted) : (m.setCtx u c x).ctx u c = x :=
  SMap.get_set_listed m.core.ctxs ctxDefault _ x (fun e => h (congrArg Ctx.state e))

theorem Mach.ctx_setCtx_of_ne (m : Mach) (u c v d : Nat) (x : Ctx) (n : v * 16 + d ≠ u * 16 + c) :
    (m.setCtx u c x).ctx v d = m.ctx v d :=
  SMap.get_set_other m.core.ctxs ctxDefault _ _ x n

theorem Mach.setCtx_wf (m : Mach) (u c : Nat) (x : Ctx) (hw : SMap.wf m.core.ctxs ctxDefault = true) :
    SMap.wf (m.setCtx u c x).core.ctxs ctxDefault = true :=
  SMap.wf_set m.core.ctxs ctxDefault _ x hw

theorem Mach.unit_setUnit (m : Mach) (u : Nat) (x : UnitSt) (hw : SMap.wf m.core.units unitDefault = true) :
    (m.setUnit u x).unit u = x :=
  SMap.get_set_same m.core.units unitDefault u x hw

theorem Mach.unit_setUnit_of_ne (m : Mach) (u v : Nat) (x : UnitSt) (n : v ≠ u) : (m.setUnit u x).unit v = m.unit v :=
  SMap.get_set_other m.core.units unitDefault u v x n

theorem Mach.reg_setReg (m : Mach) (p : Page) (off : Nat) (v : Word) (hw : SMap.wf m.regs regDefault = true) :
    (m.setReg p off v).reg p off = v :=
  SMap.get_set_same m.regs regDefault _ v hw

theorem Mach.reg_setReg_of_ne (m : Mach) (p q : Page) (off o : Nat) (v : Word)
    (n : q.num * 0x1000 + o ≠ p.num * 0x1000 + off) : (m.setReg p off v).reg q o = m.reg q o :=
  SMap.get_set_other m.regs regDefault _ _ v n

theorem Mach.setReg_wf (m : Mach) (p : Page) (off : Nat) (v : Word) (hw : SMap.wf m.regs regDefault = true) :
    SMap.wf (m.setReg p off v).regs regDefault = true :=
  SMap.wf_set m.regs regDefault _ v hw

theorem Mach.setLive_wf (m : Mach) (p : Page) (f : Fld) (v i : Nat) (hw : SMap.wf m.regs regDefault = true) :
    SMap.wf (m.setLive p f v i).regs regDefault = true :=
  Mach.setReg_wf m p _ _ hw

theorem Mach.bump_wf (m : Mach) (p : Page) (f : Fld) (n : Nat) (hw : SMap.wf m.regs regDefault = true) :
    SMap.wf (m.bump p f n).regs regDefault = true :=
  Mach.setLive_wf m p f _ _ hw

@[simp] theorem Ctx.getG_zero (x : Ctx) : x.getG 0 = 0 := rfl

@[simp] theorem Ctx.setG_zero (x : Ctx) (v : Word) : x.setG 0 v = x := rfl

/-- The fetch reads the context's PC, which a write of a register leaves as it was. -/
@[simp] theorem Ctx.setG_pc (x : Ctx) (r : RegNo) (v : Word) : (x.setG r v).pc = x.pc := by
  unfold Ctx.setG
  split <;> rfl

/-- What an instruction with a result does to its context: the register and the PC, nothing else (R114). -/
theorem Mach.ctx_writeBack (m : Mach) (u c : Nat) (r : RegNo) (v : Word)
    (hw : SMap.wf m.core.ctxs ctxDefault = true) :
    (m.writeBack u c r v).ctx u c = { (m.ctx u c).setG r v with pc := pcOf u ((m.ctx u c).pc.toNat + 4) } := by
  simp only [Mach.writeBack, Mach.advance, Mach.setPc, Mach.setG]
  rw [Mach.ctx_setCtx _ _ _ _ (Mach.setCtx_wf m u c _ hw), Mach.ctx_setCtx m u c _ hw, Ctx.setG_pc]

/-! The issue of an instruction -/

/-- The running context is the one that executes. -/
theorem Mach.schedule_of_runs (m : Mach) (u c : Nat) (hr : m.unitRuns u = true) (hc : m.running u = some c) :
    m.schedule u c = some m := by
  simp [Mach.schedule, hr, hc]

/-- A command that executes an instruction has the instruction's effect where its context runs, no injection waits, its PC is a
multiple of 4 and the fetched word is not poisoned and lies in no row under repair (R115, R116, R122, R418). -/
theorem Mach.issue_of_runs (m : Mach) (u c : Nat) (f : Mach → Mach) (hr : m.unitRuns u = true) (hc : m.running u = some c)
    (hi : (m.hdr (unitPage u)).inject &&& 0xF0000000 = 0) (ha : (m.ctx u c).pc.toNat % 4 = 0) (hp : m.anyMarked (pondKey u (m.ctx u c).pc.toNat) 4 = false)
    (hh : m.rowHeld (pondKey u (m.ctx u c).pc.toNat) 4 = false) : m.issue u c f = f m := by
  rw [Mach.issue, Mach.schedule_of_runs m u c hr hc]
  dsimp only
  rw [if_neg (fun h => h.1 hi)]
  simp [Mach.fetched, Mach.fetchFault, ha, hp, hh]

/-- A context whose unit takes up no work has no effect. -/
theorem Mach.issue_of_stopped (m : Mach) (u c : Nat) (f : Mach → Mach) (hr : m.unitRuns u = false) : m.issue u c f = m := by
  simp [Mach.issue, Mach.schedule, hr]

/-- A context has no effect while another runs (R116). -/
theorem Mach.issue_of_other (m : Mach) (u c d : Nat) (f : Mach → Mach) (hr : m.unitRuns u = true) (hc : m.running u = some d)
    (hd : d ≠ c) : m.issue u c f = m := by
  simp [Mach.issue, Mach.schedule, hr, hc, hd]

/-- A poisoned instruction word faults its context with code 6 (R122). -/
theorem Mach.issue_of_poisoned (m : Mach) (u c : Nat) (f : Mach → Mach) (hr : m.unitRuns u = true) (hc : m.running u = some c)
    (hi : (m.hdr (unitPage u)).inject &&& 0xF0000000 = 0) (ha : (m.ctx u c).pc.toNat % 4 = 0) (hp : m.anyMarked (pondKey u (m.ctx u c).pc.toNat) 4 = true) :
    m.issue u c f = m.fault u c 0x06 := by
  rw [Mach.issue, Mach.schedule_of_runs m u c hr hc]
  dsimp only
  rw [if_neg (fun h => h.1 hi)]
  simp [Mach.fetched, Mach.fetchFault, ha, hp]

/-- A PC that is no multiple of 4 faults its context with code 2 (R115, R121). -/
theorem Mach.issue_of_misaligned (m : Mach) (u c : Nat) (f : Mach → Mach) (hr : m.unitRuns u = true) (hc : m.running u = some c)
    (ha : (m.ctx u c).pc.toNat % 4 ≠ 0) : m.issue u c f = m.fault u c 0x02 := by
  rw [Mach.issue, Mach.schedule_of_runs m u c hr hc]
  dsimp only
  rw [if_neg (fun h => ha h.2)]
  simp [Mach.fetched, Mach.fetchFault, ha]

/-- The same for a whole state. -/
theorem State.issue_of_runs (s : State) (u : UnitId) (c : CtxId) (f : Mach → Mach) (hr : s.m.unitRuns u = true)
    (hc : s.m.running u = some c.val) (hi : (s.m.hdr (unitPage u)).inject &&& 0xF0000000 = 0)
    (ha : (s.m.ctx u c).pc.toNat % 4 = 0) (hp : s.m.anyMarked (pondKey u (s.m.ctx u c).pc.toNat) 4 = false)
    (hh : s.m.rowHeld (pondKey u (s.m.ctx u c).pc.toNat) 4 = false) : s.issue u c f = .next { s with m := f s.m } := by
  simp [State.issue, State.run, Mach.issue_of_runs s.m u.val c.val f hr hc hi ha hp hh]

/-! Messages -/

/-- A message is sent or kept pending: nothing but the outbox and the host part can change. -/
theorem Mach.msix_cases (m : Mach) (port : HostId) (vec : Nat) :
    m.msix port vec = m ∨ m.msix port vec = { m with outbox := m.outbox ++ [m.msixOut port vec] } ∨
      m.msix port vec =
        { m with host := { m.host with pend := SMap.set m.host.pend (fun _ => false) (port.val * 2048 + vec) true } } := by
  unfold Mach.msix
  split
  · exact .inl rfl
  · split
    · exact .inr (.inl rfl)
    · exact .inr (.inr rfl)

@[simp] theorem Mach.msix_ticks (m : Mach) (port : HostId) (vec : Nat) : (m.msix port vec).ticks = m.ticks := by
  rcases m.msix_cases port vec with h | h | h <;> rw [h]
@[simp] theorem Mach.msix_fresh (m : Mach) (port : HostId) (vec : Nat) : (m.msix port vec).fresh = m.fresh := by
  rcases m.msix_cases port vec with h | h | h <;> rw [h]
@[simp] theorem Mach.msix_regs (m : Mach) (port : HostId) (vec : Nat) : (m.msix port vec).regs = m.regs := by
  rcases m.msix_cases port vec with h | h | h <;> rw [h]
@[simp] theorem Mach.msix_shadow (m : Mach) (port : HostId) (vec : Nat) : (m.msix port vec).shadow = m.shadow := by
  rcases m.msix_cases port vec with h | h | h <;> rw [h]
@[simp] theorem Mach.msix_mem (m : Mach) (port : HostId) (vec : Nat) : (m.msix port vec).mem = m.mem := by
  rcases m.msix_cases port vec with h | h | h <;> rw [h]
@[simp] theorem Mach.msix_poison (m : Mach) (port : HostId) (vec : Nat) : (m.msix port vec).poison = m.poison := by
  rcases m.msix_cases port vec with h | h | h <;> rw [h]
@[simp] theorem Mach.msix_core (m : Mach) (port : HostId) (vec : Nat) : (m.msix port vec).core = m.core := by
  rcases m.msix_cases port vec with h | h | h <;> rw [h]
@[simp] theorem Mach.msix_queue (m : Mach) (port : HostId) (vec : Nat) : (m.msix port vec).queue = m.queue := by
  rcases m.msix_cases port vec with h | h | h <;> rw [h]
@[simp] theorem Mach.msix_spare (m : Mach) (port : HostId) (vec : Nat) : (m.msix port vec).spare = m.spare := by
  rcases m.msix_cases port vec with h | h | h <;> rw [h]
@[simp] theorem Mach.msix_time (m : Mach) (port : HostId) (vec : Nat) : (m.msix port vec).time = m.time := by
  rcases m.msix_cases port vec with h | h | h <;> rw [h]
@[simp] theorem Mach.msix_power (m : Mach) (port : HostId) (vec : Nat) : (m.msix port vec).power = m.power := by
  rcases m.msix_cases port vec with h | h | h <;> rw [h]
@[simp] theorem Mach.msix_mx (m : Mach) (port : HostId) (vec : Nat) : (m.msix port vec).mx = m.mx := by
  rcases m.msix_cases port vec with h | h | h <;> rw [h]
@[simp] theorem Mach.msix_train (m : Mach) (port : HostId) (vec : Nat) : (m.msix port vec).train = m.train := by
  rcases m.msix_cases port vec with h | h | h <;> rw [h]
@[simp] theorem Mach.msix_ras (m : Mach) (port : HostId) (vec : Nat) : (m.msix port vec).ras = m.ras := by
  rcases m.msix_cases port vec with h | h | h <;> rw [h]
@[simp] theorem Mach.msix_chan (m : Mach) (port : HostId) (vec : Nat) : (m.msix port vec).chan = m.chan := by
  rcases m.msix_cases port vec with h | h | h <;> rw [h]
@[simp] theorem Mach.msix_dma (m : Mach) (port : HostId) (vec : Nat) : (m.msix port vec).dma = m.dma := by
  rcases m.msix_cases port vec with h | h | h <;> rw [h]
@[simp] theorem Mach.msix_dig (m : Mach) (port : HostId) (vec : Nat) : (m.msix port vec).dig = m.dig := by
  rcases m.msix_cases port vec with h | h | h <;> rw [h]
@[simp] theorem Mach.msix_chk (m : Mach) (port : HostId) (vec : Nat) : (m.msix port vec).chk = m.chk := by
  rcases m.msix_cases port vec with h | h | h <;> rw [h]
@[simp] theorem Mach.msix_sv (m : Mach) (port : HostId) (vec : Nat) : (m.msix port vec).sv = m.sv := by
  rcases m.msix_cases port vec with h | h | h <;> rw [h]
@[simp] theorem Mach.msix_rings (m : Mach) (port : HostId) (vec : Nat) : (m.msix port vec).rings = m.rings := by
  rcases m.msix_cases port vec with h | h | h <;> rw [h]
@[simp] theorem Mach.msix_fab (m : Mach) (port : HostId) (vec : Nat) : (m.msix port vec).fab = m.fab := by
  rcases m.msix_cases port vec with h | h | h <;> rw [h]
@[simp] theorem Mach.msix_coll (m : Mach) (port : HostId) (vec : Nat) : (m.msix port vec).coll = m.coll := by
  rcases m.msix_cases port vec with h | h | h <;> rw [h]
@[simp] theorem Mach.msix_hdrs (m : Mach) (port : HostId) (vec : Nat) : (m.msix port vec).hdrs = m.hdrs := by
  rcases m.msix_cases port vec with h | h | h <;> rw [h]

/-! Events (R27) -/

/-- Raising an event bit sets the bit and may send a message. -/
theorem Mach.raise_cases (m : Mach) (p : Page) (b : Nat) :
    m.raise p b = m.setHdr p { m.hdr p with event := (m.hdr p).event ||| w64 (2 ^ b) } ∨
      ∃ port vec, m.raise p b = (m.setHdr p { m.hdr p with event := (m.hdr p).event ||| w64 (2 ^ b) }).msix port vec := by
  unfold Mach.raise
  dsimp only
  generalize (if (m.hdr p).owner = true then (1 : HostId) else 0) = port
  split
  · exact .inr ⟨port, _, rfl⟩
  · exact .inl rfl

@[simp] theorem Mach.raise_ticks (m : Mach) (p : Page) (b : Nat) : (m.raise p b).ticks = m.ticks := by
  rcases m.raise_cases p b with h | ⟨_, _, h⟩ <;> rw [h] <;> simp
@[simp] theorem Mach.raise_fresh (m : Mach) (p : Page) (b : Nat) : (m.raise p b).fresh = m.fresh := by
  rcases m.raise_cases p b with h | ⟨_, _, h⟩ <;> rw [h] <;> simp
@[simp] theorem Mach.raise_regs (m : Mach) (p : Page) (b : Nat) : (m.raise p b).regs = m.regs := by
  rcases m.raise_cases p b with h | ⟨_, _, h⟩ <;> rw [h] <;> simp
@[simp] theorem Mach.raise_shadow (m : Mach) (p : Page) (b : Nat) : (m.raise p b).shadow = m.shadow := by
  rcases m.raise_cases p b with h | ⟨_, _, h⟩ <;> rw [h] <;> simp
@[simp] theorem Mach.raise_mem (m : Mach) (p : Page) (b : Nat) : (m.raise p b).mem = m.mem := by
  rcases m.raise_cases p b with h | ⟨_, _, h⟩ <;> rw [h] <;> simp
@[simp] theorem Mach.raise_poison (m : Mach) (p : Page) (b : Nat) : (m.raise p b).poison = m.poison := by
  rcases m.raise_cases p b with h | ⟨_, _, h⟩ <;> rw [h] <;> simp
@[simp] theorem Mach.raise_core (m : Mach) (p : Page) (b : Nat) : (m.raise p b).core = m.core := by
  rcases m.raise_cases p b with h | ⟨_, _, h⟩ <;> rw [h] <;> simp
@[simp] theorem Mach.raise_queue (m : Mach) (p : Page) (b : Nat) : (m.raise p b).queue = m.queue := by
  rcases m.raise_cases p b with h | ⟨_, _, h⟩ <;> rw [h] <;> simp
@[simp] theorem Mach.raise_spare (m : Mach) (p : Page) (b : Nat) : (m.raise p b).spare = m.spare := by
  rcases m.raise_cases p b with h | ⟨_, _, h⟩ <;> rw [h] <;> simp
@[simp] theorem Mach.raise_time (m : Mach) (p : Page) (b : Nat) : (m.raise p b).time = m.time := by
  rcases m.raise_cases p b with h | ⟨_, _, h⟩ <;> rw [h] <;> simp
@[simp] theorem Mach.raise_power (m : Mach) (p : Page) (b : Nat) : (m.raise p b).power = m.power := by
  rcases m.raise_cases p b with h | ⟨_, _, h⟩ <;> rw [h] <;> simp
@[simp] theorem Mach.raise_mx (m : Mach) (p : Page) (b : Nat) : (m.raise p b).mx = m.mx := by
  rcases m.raise_cases p b with h | ⟨_, _, h⟩ <;> rw [h] <;> simp
@[simp] theorem Mach.raise_train (m : Mach) (p : Page) (b : Nat) : (m.raise p b).train = m.train := by
  rcases m.raise_cases p b with h | ⟨_, _, h⟩ <;> rw [h] <;> simp
@[simp] theorem Mach.raise_ras (m : Mach) (p : Page) (b : Nat) : (m.raise p b).ras = m.ras := by
  rcases m.raise_cases p b with h | ⟨_, _, h⟩ <;> rw [h] <;> simp
@[simp] theorem Mach.raise_chan (m : Mach) (p : Page) (b : Nat) : (m.raise p b).chan = m.chan := by
  rcases m.raise_cases p b with h | ⟨_, _, h⟩ <;> rw [h] <;> simp
@[simp] theorem Mach.raise_dma (m : Mach) (p : Page) (b : Nat) : (m.raise p b).dma = m.dma := by
  rcases m.raise_cases p b with h | ⟨_, _, h⟩ <;> rw [h] <;> simp
@[simp] theorem Mach.raise_dig (m : Mach) (p : Page) (b : Nat) : (m.raise p b).dig = m.dig := by
  rcases m.raise_cases p b with h | ⟨_, _, h⟩ <;> rw [h] <;> simp
@[simp] theorem Mach.raise_chk (m : Mach) (p : Page) (b : Nat) : (m.raise p b).chk = m.chk := by
  rcases m.raise_cases p b with h | ⟨_, _, h⟩ <;> rw [h] <;> simp
@[simp] theorem Mach.raise_sv (m : Mach) (p : Page) (b : Nat) : (m.raise p b).sv = m.sv := by
  rcases m.raise_cases p b with h | ⟨_, _, h⟩ <;> rw [h] <;> simp
@[simp] theorem Mach.raise_rings (m : Mach) (p : Page) (b : Nat) : (m.raise p b).rings = m.rings := by
  rcases m.raise_cases p b with h | ⟨_, _, h⟩ <;> rw [h] <;> simp
@[simp] theorem Mach.raise_fab (m : Mach) (p : Page) (b : Nat) : (m.raise p b).fab = m.fab := by
  rcases m.raise_cases p b with h | ⟨_, _, h⟩ <;> rw [h] <;> simp
@[simp] theorem Mach.raise_coll (m : Mach) (p : Page) (b : Nat) : (m.raise p b).coll = m.coll := by
  rcases m.raise_cases p b with h | ⟨_, _, h⟩ <;> rw [h] <;> simp

theorem Mach.raise_hdrs (m : Mach) (p : Page) (b : Nat) :
    (m.raise p b).hdrs = (m.setHdr p { m.hdr p with event := (m.hdr p).event ||| w64 (2 ^ b) }).hdrs := by
  rcases m.raise_cases p b with h | ⟨_, _, h⟩ <;> rw [h]
  simp

theorem Mach.raise_wf (m : Mach) (p : Page) (b : Nat) (hw : SMap.wf m.hdrs hdrDefault = true) :
    SMap.wf (m.raise p b).hdrs hdrDefault = true := by
  rw [Mach.raise_hdrs]
  exact Mach.setHdr_wf m p _ hw

/-- The header after an event: the bit is set, all else is as it was. -/
theorem Mach.hdr_raise (m : Mach) (p : Page) (b : Nat) (hw : SMap.wf m.hdrs hdrDefault = true) :
    (m.raise p b).hdr p = { m.hdr p with event := (m.hdr p).event ||| w64 (2 ^ b) } := by
  have h : (m.raise p b).hdr p = (m.setHdr p { m.hdr p with event := (m.hdr p).event ||| w64 (2 ^ b) }).hdr p := by
    unfold Mach.hdr
    rw [Mach.raise_hdrs]
    rfl
  rw [h, Mach.hdr_setHdr _ _ _ hw]

/-- An event on one page leaves every other header alone. -/
theorem Mach.hdr_raise_of_ne (m : Mach) (p q : Page) (b : Nat) (n : q.num ≠ p.num) : (m.raise p b).hdr q = m.hdr q := by
  have h : (m.raise p b).hdr q = (m.setHdr p { m.hdr p with event := (m.hdr p).event ||| w64 (2 ^ b) }).hdr q := by
    unfold Mach.hdr
    rw [Mach.raise_hdrs]
    rfl
  rw [h, Mach.hdr_setHdr_of_ne _ _ _ _ n]

/-! Refused writes (R28) -/

/-- The header after a refused write: event bit 0 is set and REASON holds the code. -/
theorem Mach.hdr_cfgReject (m : Mach) (p : Page) (code : Nat) (hw : SMap.wf m.hdrs hdrDefault = true) :
    (m.cfgReject p code).hdr p =
      { m.hdr p with event := (m.hdr p).event ||| w64 (2 ^ 0), reason := BitVec.ofNat 8 code } := by
  have h : SMap.wf (m.raise p 0).hdrs hdrDefault = true := m.raise_wf p 0 hw
  simp only [Mach.cfgReject]
  rw [Mach.hdr_setHdr _ _ _ h, Mach.hdr_raise m p 0 hw]

theorem Mach.hdr_cfgReject_of_ne (m : Mach) (p q : Page) (code : Nat) (n : q.num ≠ p.num) :
    (m.cfgReject p code).hdr q = m.hdr q := by
  simp only [Mach.cfgReject]
  rw [Mach.hdr_setHdr_of_ne _ _ _ _ n, Mach.hdr_raise_of_ne _ _ _ _ n]

@[simp] theorem Mach.cfgReject_ticks (m : Mach) (p : Page) (code : Nat) : (m.cfgReject p code).ticks = m.ticks := by
  simp [Mach.cfgReject]
@[simp] theorem Mach.cfgReject_fresh (m : Mach) (p : Page) (code : Nat) : (m.cfgReject p code).fresh = m.fresh := by
  simp [Mach.cfgReject]
@[simp] theorem Mach.cfgReject_regs (m : Mach) (p : Page) (code : Nat) : (m.cfgReject p code).regs = m.regs := by
  simp [Mach.cfgReject]
@[simp] theorem Mach.cfgReject_shadow (m : Mach) (p : Page) (code : Nat) : (m.cfgReject p code).shadow = m.shadow := by
  simp [Mach.cfgReject]
@[simp] theorem Mach.cfgReject_mem (m : Mach) (p : Page) (code : Nat) : (m.cfgReject p code).mem = m.mem := by
  simp [Mach.cfgReject]
@[simp] theorem Mach.cfgReject_poison (m : Mach) (p : Page) (code : Nat) : (m.cfgReject p code).poison = m.poison := by
  simp [Mach.cfgReject]
@[simp] theorem Mach.cfgReject_core (m : Mach) (p : Page) (code : Nat) : (m.cfgReject p code).core = m.core := by
  simp [Mach.cfgReject]
@[simp] theorem Mach.cfgReject_queue (m : Mach) (p : Page) (code : Nat) : (m.cfgReject p code).queue = m.queue := by
  simp [Mach.cfgReject]
@[simp] theorem Mach.cfgReject_spare (m : Mach) (p : Page) (code : Nat) : (m.cfgReject p code).spare = m.spare := by
  simp [Mach.cfgReject]
@[simp] theorem Mach.cfgReject_time (m : Mach) (p : Page) (code : Nat) : (m.cfgReject p code).time = m.time := by
  simp [Mach.cfgReject]
@[simp] theorem Mach.cfgReject_power (m : Mach) (p : Page) (code : Nat) : (m.cfgReject p code).power = m.power := by
  simp [Mach.cfgReject]
@[simp] theorem Mach.cfgReject_mx (m : Mach) (p : Page) (code : Nat) : (m.cfgReject p code).mx = m.mx := by
  simp [Mach.cfgReject]
@[simp] theorem Mach.cfgReject_train (m : Mach) (p : Page) (code : Nat) : (m.cfgReject p code).train = m.train := by
  simp [Mach.cfgReject]
@[simp] theorem Mach.cfgReject_ras (m : Mach) (p : Page) (code : Nat) : (m.cfgReject p code).ras = m.ras := by
  simp [Mach.cfgReject]
@[simp] theorem Mach.cfgReject_chan (m : Mach) (p : Page) (code : Nat) : (m.cfgReject p code).chan = m.chan := by
  simp [Mach.cfgReject]
@[simp] theorem Mach.cfgReject_dma (m : Mach) (p : Page) (code : Nat) : (m.cfgReject p code).dma = m.dma := by
  simp [Mach.cfgReject]
@[simp] theorem Mach.cfgReject_dig (m : Mach) (p : Page) (code : Nat) : (m.cfgReject p code).dig = m.dig := by
  simp [Mach.cfgReject]
@[simp] theorem Mach.cfgReject_chk (m : Mach) (p : Page) (code : Nat) : (m.cfgReject p code).chk = m.chk := by
  simp [Mach.cfgReject]
@[simp] theorem Mach.cfgReject_sv (m : Mach) (p : Page) (code : Nat) : (m.cfgReject p code).sv = m.sv := by
  simp [Mach.cfgReject]
@[simp] theorem Mach.cfgReject_rings (m : Mach) (p : Page) (code : Nat) : (m.cfgReject p code).rings = m.rings := by
  simp [Mach.cfgReject]
@[simp] theorem Mach.cfgReject_fab (m : Mach) (p : Page) (code : Nat) : (m.cfgReject p code).fab = m.fab := by
  simp [Mach.cfgReject]
@[simp] theorem Mach.cfgReject_coll (m : Mach) (p : Page) (code : Nat) : (m.cfgReject p code).coll = m.coll := by
  simp [Mach.cfgReject]

/-! Injections (R27, R414) -/

/-- An injection is used up where it is armed; otherwise nothing changes. -/
theorem Mach.takeInject_cases (m : Mach) (p : Page) (b : Nat) :
    (bit (m.hdr p).inject b = false ∧ m.takeInject p b = (false, m)) ∨
      (bit (m.hdr p).inject b = true ∧
        m.takeInject p b = (true, m.setHdr p { m.hdr p with inject := (m.hdr p).inject &&& ~~~(w64 (2 ^ b)) })) := by
  cases h : bit (m.hdr p).inject b
  · exact .inl ⟨rfl, by simp [Mach.takeInject, h]⟩
  · exact .inr ⟨rfl, by simp [Mach.takeInject, h]⟩

/-! Contexts (R117, R121) -/

/-- A fault records its code and the PC, and the context ends FAULTED. -/
@[simp] theorem Mach.ctx_fault (m : Mach) (u c code : Nat) :
    (m.fault u c code).ctx u c =
      { m.ctx u c with state := .faulted, fault := BitVec.ofNat 8 code, faultPc := (m.ctx u c).pc, wait := .none } := by
  unfold Mach.fault Mach.ctx
  rw [Mach.raise_core]
  exact Mach.ctx_setCtx_of_state m u c _ (by simp)

/-- A fault stops only its context. -/
theorem Mach.ctx_fault_of_ne (m : Mach) (u c v d code : Nat) (n : v * 16 + d ≠ u * 16 + c) :
    (m.fault u c code).ctx v d = m.ctx v d := by
  unfold Mach.fault Mach.ctx
  rw [Mach.raise_core]
  exact Mach.ctx_setCtx_of_ne m u c v d _ n

@[simp] theorem Mach.fault_mem (m : Mach) (u c code : Nat) : (m.fault u c code).mem = m.mem := by
  simp [Mach.fault]

@[simp] theorem Mach.fault_poison (m : Mach) (u c code : Nat) : (m.fault u c code).poison = m.poison := by
  simp [Mach.fault]

@[simp] theorem Mach.fault_regs (m : Mach) (u c code : Nat) : (m.fault u c code).regs = m.regs := by
  simp [Mach.fault]

/-- A context that waits stands at its instruction. -/
@[simp] theorem Mach.ctx_sleep (m : Mach) (u c : Nat) (w : Wait) :
    (m.sleep u c w).ctx u c = { m.ctx u c with state := .waiting, wait := w } := by
  exact Mach.ctx_setCtx_of_state m u c _ (by simp)

/-- A context that is woken is ready. -/
@[simp] theorem Mach.ctx_wake (m : Mach) (u c : Nat) :
    (m.wake u c).ctx u c = { m.ctx u c with state := .ready, wait := .none } := by
  exact Mach.ctx_setCtx_of_state m u c _ (by simp)

/-! The owner's writes (R38) -/

/-- A write that reaches its page has its effect. -/
theorem Mach.owned_of_owner (m : Mach) (w : RegWrite) (p : Page) (f : Mach → Mach) (h : Claim.owner m w p = true) :
    m.owned w.src p f = f m := by
  simp only [Claim.owner, Bool.and_eq_true] at h
  obtain ⟨h1, h2⟩ := h
  cases hw : writerPort w.src with
  | none => simp [Mach.owned, Mach.reaches, h1, hw]
  | some q =>
    simp [hw] at h2
    simp [Mach.owned, Mach.reaches, h1, hw]
    rcases h2 with ⟨a | a, b⟩ <;> simp [a, b]

/-- No row of a range is under repair, so none of a part of it is. -/
theorem Mach.rowHeld_part (m : Mach) (k n a b : Nat) (h : m.rowHeld k n = false) (h1 : k ≤ a) (h2 : a + b ≤ k + n) :
    m.rowHeld a b = false := by
  simp only [Mach.rowHeld, List.any_eq_false, decide_eq_true_eq] at h ⊢
  intro r hr hh
  exact h r hr ⟨by omega, by omega⟩

/-- An instruction of a context that is ready has its effect. -/
theorem State.issue_of_ready (s : State) (u : UnitId) (c : CtxId) (f : Mach → Mach) (h : Claim.ready s.m u c = true) :
    s.issue u c f = .next { s with m := f s.m } := by
  simp only [Claim.ready, Bool.and_eq_true, decide_eq_true_eq, Bool.not_eq_true'] at h
  obtain ⟨⟨⟨⟨⟨h1, h2⟩, h3⟩, hh⟩, h4⟩, h5⟩ := h
  refine State.issue_of_runs s u c f h1 h2 h3 h4 h5 (Mach.rowHeld_part _ _ _ _ _ hh ?_ ?_)
  · simp [pondKey]
  · have := (s.m.ctx u c).pc.isLt
    simp only [pondKey]
    omega

/-- R132. The completion of a reduction edits the oldest one of its context that is in progress, and nothing around it. -/
theorem firstInFlight_append (c : Nat) (f : VReduce → List VReduce) (before after : List VReduce) (r : VReduce)
    (hb : ∀ e ∈ before, e.ctx = c → e.done = true) (hc : r.ctx = c) (hd : r.done = false) :
    firstInFlight c f (before ++ r :: after) = before ++ (f r ++ after) := by
  induction before with
  | nil => simp [firstInFlight, hc, hd]
  | cons e l ih =>
    have : ¬ (e.ctx = c ∧ e.done = false) := fun h => by simp [hb e (by simp) h.1] at h
    simp [firstInFlight, this, ih (fun x hx => hb x (by simp [hx]))]

/-! Reset -/

/-- Every sparse part of the machine has its canonical form after reset: it lists nothing. -/
theorem reset_canonical : Mach.reset.canonical = true := by
  decide

end Sys2Proof.Machine
end

