-- ==== Sys2Proof/Machine/Fetch.lean ====
section
/-! DEFINITION. The instruction at the PC of a context (R114, R121, R123): the command that its word spells, or the fault of
an illegal word. The commands of the table carry their instruction; this says which of them the bytes in a pond stand for. -/

namespace Sys2Proof.Machine

/-- The 32-bit word at the PC of a context. -/
def Mach.wordAtPc (m : Mach) (u c : Nat) : BitVec 32 :=
  BitVec.ofNat 32 (m.rdNum (pondKey u (m.ctx u c).pc.toNat) 4)

/-- A context executes the word at its PC: as the command it spells, or as an illegal instruction with fault 0x01 when its
MAJOR, function or operation code is reserved (R72, R121, R123). -/
def State.executeWord (s : State) (u : UnitId) (c : CtxId) : Host.Outcome State Fault Refusal :=
  match decodeWord u c (s.m.wordAtPc u.val c.val) with
  | some i => exec i s
  | none => s.issue u c (fun m => m.fault u.val c.val 0x01)

end Sys2Proof.Machine
end

