-- ==== Sys2Proof/Tests/Slice0.lean ====
section
/-! SUPPORT. Tests: ill-formed commands that WellFormed refuses, words and worked examples of the spec, and for each statement
that has hypotheses states and operands that meet them, at the boundary of their ranges. -/

namespace Sys2Proof.Tests

open Sys2Proof Sys2Proof.Machine Sys2Proof.Claim

/-! ## States -/

/-- A module that is ready and Active. -/
def up : Mach :=
  (({ Mach.reset with power := { PowerSt.reset with pwrOk := true, on := true, ready := true } } : Mach).setLive secPage Reg.SEC.BOOT_STATE 0xA).setLive
    pwrPage Reg.PWR.STATE 1
def st (m : Mach) : State := ⟨[], m⟩
/-- A running context. -/
def busyCtx : Ctx := { Ctx.reset with state := .running, pc := 0x100, g := [(1, 0xFFFFFFFFFFFFFFFF), (2, 0x40)] }
/-- Context 0 of CELL[0] runs. -/
def cell (x : Ctx) : Mach := (up.setCtx 0 0 x).setUnit 0 { UnitSt.reset with lastSel := some 0 }
/-- Context 15 of SOLV[19] runs. -/
def scell (x : Ctx) : Mach := (up.setCtx 199 15 x).setUnit 199 { UnitSt.reset with lastSel := some 15 }
def own (v : Word) : RegWrite := ⟨.hostA, .full, v⟩
/-- A staged field in force. -/
def force (m : Mach) (p : Page) (f : Fld) (v : Nat) (i : Nat := 0) : Mach :=
  m.setReg p (f.off + 0x400 + i * f.stride) (setFld (m.reg p (f.off + 0x400 + i * f.stride)) f.hi f.lo v)
/-- Bytes at an address of the pond of CELL[0]. -/
def poke (m : Mach) (a : Nat) (v n : Nat) : Mach := m.wrBytes (pondKey 0 a) (toBytes n v) false
/-- Two bytes in the pond that end in a set sign bit. -/
def loads : Mach := poke (cell { busyCtx with g := [(1, 0x1002), (2, 0x3FFFFF), (3, 0x1007), (4, 0x1010)] }) 0x1002 0x80FF 2
def loadsBad : Mach := loads.wrBytes (pondKey 0 0x1010) [1] true
/-- Context 0 of CELL[0] owns the awake vector unit and has a save slot. -/
def vecCtx : Ctx := { busyCtx with vl := 3, g := [(1, 0x1000), (2, 4)] }
def vcell : Mach := force ((up.setCtx 0 0 vecCtx).setUnit 0 { UnitSt.reset with lastSel := some 0, vOwner := some 0 }) (unitPage 0) Reg.CELL.VSAVE_VALID 1
def vscell : Mach :=
  force ((up.setCtx 199 15 { vecCtx with g := [(1, 3), (2, 0)] }).setUnit 199 { UnitSt.reset with lastSel := some 15, vOwner := some 15 })
    (unitPage 199) Reg.CELL.VSAVE_VALID 1 15
/-- Words in memory. -/
def desc (m : Mach) (key : Nat) (ws : List Nat) : Mach := m.wrBytes key (ws.flatMap (toBytes 8)) false
def descCtx : Ctx := { busyCtx with g := [(1, 0x1000)] }
/-- One product of BF16 elements, drained to FP32. -/
def mxDesc : List Nat := [2 * 2^5 + 2 * 2^9 + 2^13 + 2^23 + 0xFFFF * 2^32, 1 + 2^16 + 2^23, 0, 0x2000, 0x3000, 0x4000, 0, 0]
/-- The same that holds its tile. -/
def mxHold : List Nat := [2 * 2^5 + 2 * 2^9 + 2^13 + 0x12 * 2^32, 1 + 2^16 + 2^23, 0, 0x2000, 0x3000, 0x4000, 0, 0]
/-- The same that continues and drains. -/
def mxMore : List Nat := [2 * 2^5 + 2 * 2^9 + 2^13 + 2^22 + 2^23 + 0x13 * 2^32, 1 + 2^16 + 2^23, 0, 0x2000, 0x3000, 0x4000, 0, 0]
def mxItem (w : List Nat) : MxItem := { ctx := 0, words := w, slot := 0x10000, seed := 0, step := 0, tol := 0, retry := false, first := true }
def mcell (w : List Nat) : Mach := desc (cell descCtx) (pondKey 0 0x1000) w
/-- A dense problem of one unknown in FP64, due at hive time d. -/
def svDesc (d : Nat) : List Nat := [5 * 2^4 * 0 + 2^12 + 0x77 * 2^32, 1, 0, 0, 0x2000, 0x4000 + 0x6000 * 2^24, 0x8000 + 0xA000 * 2^24, 0, d, 0, 0, 0, 0, 0, 0, 0]
def locked : Mach := (up.setLive timePage Reg.TIME.STATUS_STATE 2).setLive timePage Reg.TIME.STATUS_VALID 1
def solver (w : List Nat) : Mach :=
  desc ((locked.setCtx 199 15 { descCtx with mx := .empty }).setUnit 199 { UnitSt.reset with lastSel := some 15 }) (pondKey 199 0x1000) w
def svItem (w : List Nat) : SvItem := (up.svItem 19 15 none w)
/-- A copy of n bytes inside the pond. -/
def dmDesc (n : Nat) : List Nat := [8 * 2^4 + 8 * 2^8 + 9 * 2^32, 0x2000, 0x3000, n, 0, 0, 0, 0]
/-- An ORDERED integer sum of group 63 into pool scratch of slice 19. -/
def dmSum (ord ticket : Nat) : List Nat :=
  [8 + 11 * 2^4 + 11 * 2^8 + ord * 2^14 + 63 * 2^16 + 9 * 2^32, 0x2000, 3 * 2^60 + 19 * 2^48 + 0x40, 1 + ticket * 2^32, 0, 0, 0, 0x5000]
def dmItem (w : List Nat) : DmaItem :=
  { id := 5, ctx := 0, words := w, seed := 0, denorm := true, starveThr := 4, started := true, startedAt := 0, starved := false,
    buffered := false, performed := false, code := 0, poison := false, wrote := [], old := [] }
def svQueued : Mach := (solver (svDesc (2^40))).setSv 19 { SvSt.reset with queue := [svItem (svDesc (2^40))] }
/-- A running solve: minimise x·x / 2 from 0. -/
def svProb : SvProb :=
  { qp := { n := 1, h := [[(0, 0x3FF0000000000000)]], f := [0], a := [], b := [], rows := [], const := 0, stages := [], qN := [], x0 := [] },
    cur := ⟨[0], [], []⟩, curRes := ⟨0, 0, 0, 0, 0⟩, best := none, copy := [], iters := 0, npiv := 0, nrefact := 0, status := none, flags := 0, retCur := false, key := [] }
def svRunning (begun : Bool) : SvRun := { item := svItem (svDesc (2^40)), tStart := 0, begun := begun, probs := [svProb], bwd := [], patch := 0, inject := false }
def svInit : Mach := svQueued.setSv 19 { SvSt.reset with running := some (svRunning false) }
def svIter : Mach := svQueued.setSv 19 { SvSt.reset with running := some (svRunning true) }
/-- A retained factorisation of the problem of svDesc, and a backward that uses and releases it. -/
def svRetained : SvSlot :=
  { tag := 0x77, status := 0, form := 0, w1 := 1, w2 := 0, pattern := 0, mfmt := 0, vfmt := 0, reg := false,
    facts := [.dense { l := [[]], d := [0x3FF0000000000000] }] }
def bwDesc : List Nat :=
  [1 + 2^5 + 0x78 * 2^32, 2, 0x77, 0x8000 + 0xC000 * 2^24, 0x2000 + 0xD000 * 2^24, 0xE000 + 0xF000 * 2^24, 0, 0, 0, 0, 0, 0, 0, 0, 0, 0]
/-- A module with the region table of R276. -/
def mapped : Mach := up.defaultRegions
def withInject (m : Mach) (p : Page) (v : Word) : Mach := m.setHdr p { m.hdr p with inject := v }
/-- Queue 0 from CELL[0] to CELL[1], queue 1 of CELL[0] with itself; context 0 is at both ends. -/
def map2 : StageMap :=
  { mapId := 7, tfoot := 0, sfoot := 0,
    parts := [⟨0, false, 0, 0, 0, 0⟩, ⟨1, false, 1, 0, 0, 0⟩],
    queues := [⟨0, 1, 2, 1, 2, 0, 0x1000, 0x2000⟩, ⟨0, 0, 2, 1, 0, 0, 0x3000, 0⟩, ⟨1, 0, 2, 1, 2, 0, 0x5000, 0x4000⟩] }
def queues (g1 : Word) (qs : List (Nat × QState)) : Mach :=
  let m := (cell { busyCtx with g := if g1 = 0 then [] else [(1, g1)] }).setCombMaps 0 { CombMaps.empty with inForce := some map2 }
  { m with queue := { m.queue with qs := qs } }
def lq (m : Mach) (k : Nat) : LiveQueue := (m.liveQueues.getD k ⟨0, ⟨0, 0, 0, 0, 0, 0, 0, 0⟩, ⟨0, false, 0, 0, 0, 0⟩, ⟨0, false, 0, 0, 0, 0⟩⟩)
def q0 : QState := QState.fresh 0 2
/-- A stage map of one part whose queue leads to itself. -/
def loadable : Mach :=
  (desc (force up (poolPage 0) Reg.POOL.SCRATCH_MIB 1) (scratchKey 0 0x40) [7 + 2^16 + 2^32, 0x10000, 0, 0, 0, 0, 0, 0, 0, 0, 0, 0, 0, 0, 0, 0, 2^21 + 2^29, 0x380000]).setCombMaps 0
    { CombMaps.empty with loading := some 0x3000000000000040 }
/-- A reduce-scatter of one FP32 element in group 5, of which engine 0 is the only rank. -/
def coDesc : List Nat := [2 + 5 * 2^4 + 2^10 + 2^14 + 0x22 * 2^32, 0, 1, 0x2000, 0x3000, 0, 0, 0, 0, 0, 0, 0, 0x4000, 0, 0, 0]
def grp5 (m : Mach) : Mach := m.setGroup 0 5 { rec? := some [⟨0, 0, 0⟩], pend := none, epoch := 0, seq := 3 }
def coItem (w : List Nat) : CollItem := { id := 0, unit := 0, ctx := 0, ring := none, words := w, seed := 0, bufs := (0, 0) }
def coRunning (w : List Nat) : CollRun :=
  { item := coItem w, opseq := 0, ranks := [⟨0, 0, 0⟩], nextRanks := [], nodes := [], cov := [(0, 1)], fails := [], view := 0, gates := 0,
    gatesSent := false, gate := false, layers := [], released := 0, barrier := none, phase := 0, code := 0, ending := none, poisoned := false, last := 0 }
/-- A gather-ahead of two layers, TAG 0x33, in progress: layer 0 is complete. -/
def gather : List Nat := [3 + 5 * 2^4 + 0x33 * 2^32, 0, 0, 0, 0x3000, 0x5000, 0x100, 0, 0, 0, 2, 0, 0x4000, 0, 0, 0, 0, 2^40 * 0 + 1 + 2^40, 0, 0, 0, 1 + 2^40, 0, 0]
def gatherRun : CollRun :=
  { coRunning gather with layers := [⟨[0, 1 + 2^40, 0, 0], [(0, 1)], true⟩, ⟨[0, 1 + 2^40, 0, 0], [], false⟩] }
/-- Module (0, 0) of a torus of 3 by 3 with all ports up. -/
def grid : Mach :=
  let m := force (force up routerPage Reg.ROUTER.ROUTERCTL_DIM_X 3) routerPage Reg.ROUTER.ROUTERCTL_DIM_Y 3
  ((m.setLive (portPage 0) Reg.PORT.STATE 2).setLive (portPage 1) Reg.PORT.STATE 2).setLive (portPage 3) Reg.PORT.STATE 3
/-- A packet of one 64-byte unit to module (x, y). -/
def pkt (tc kind x y : Nat) : Packet := plainPacket tc kind 9 x y 0 (List.replicate 64 0) (List.replicate 8 false)
def control (type : Nat) (w1 w2 : Nat) : Packet :=
  let p := plainPacket 1 4 0 0 0 0 (toBytes 8 (2^32 + type * 2^37) ++ toBytes 8 w1 ++ toBytes 8 w2 ++ List.replicate 40 0) (List.replicate 8 false)
  let q := { p with srcX := 1 }
  { q with crc := q.crcNow }
def arrives (m : Mach) (p : Packet) : Mach := { m with fab := { m.fab with arrived := [⟨p, none, none⟩] } }
def toOne : FlowId := ⟨1, false, 1, 0, false, false⟩
def outOne : OutPkt := ⟨pkt 1 0 1 0, .nobody, 0, 0, [(1, 0)], 5000, 2⟩
def flowOne (resync : Option Nat) : FlowTx := { FlowTx.empty toOne with next := 1, out := if resync.isSome then [] else [outOne], resync := resync, resyncFrom := [(1, 0)], rto := 5000, retry := 2 }
def flows (m : Mach) (f : FlowTx) : Mach := { m with fab := { m.fab with tx := [f] } }
/-- An entry of the calendar of port 0 that opens at 0: kind, index and destination. -/
def slotted (w0 w1 : Nat) (m : Mach) : Mach := ((m.setCalWord 0 0 256 (BitVec.ofNat 64 w0)).setCalWord 0 0 264 (BitVec.ofNat 64 w1)).setCalWord 0 0 0 1000
/-- Object 0xFFF: a leaf of two participants under (1, 0), in a job of four. -/
def leaf : BarObj := { BarObj.reset with cfg := 1 + 2 * 2^4 + 2^14 + 4 * 2^32 }
def barrier (b : BarObj) (m : Mach) : Mach := m.setBar 0xFFF b
def waits (w : Wait) : Ctx := { busyCtx with state := .waiting, wait := w }
def arrival (parity : Bool) : BarMsg := ⟨0xFFF, 1, 0, parity, 2, 1000⟩
def drains (c : SpareCopy) : Mach := { mapped with spare := { SpareSt.reset with copies := [c] } }
/-- Digest engine 7 with a window of 64 bytes at 0. -/
def digest (s : Nat) : Mach := (mapped.setLive (digPage 7) Reg.DIG.STATE s).setLive (digPage 7) Reg.DIG.LEN 64
def rasImage (a b : Nat) : Mach := { mapped with ras := { mapped.ras with imgBusy := b, imgAddr := a } }
def firmware (n : Nat) : Mach := up.setFwState n
/-- Host B with an armed heartbeat of 7. -/
def beating : Mach :=
  { ((up.setLive (hostPage 1) Reg.HOST.PORT_STATE_HB_ARMED 1).setLive (hostPage 1) Reg.HOST.HEARTBEAT 7) with ticks := 10000000000 }
/-- Ring 8191 of port A: 16 entries, vector 2047, for a target. -/
def ringFor (kind target : Nat) : RingSt :=
  { RingSt.reset with state := .active, cfg := BitVec.ofNat 64 (4 + 2^6 + kind * 2^7 + target * 2^10 + 2047 * 2^22 + 2^33 + 2^34 + 2^35) }
def ringed (x : RingSt) (m : Mach) : Mach := (m.setRing 8191 x).setLive (hostPage 0) Reg.HOST.IFLEVEL_CHOSEN 3
/-- A submission entry with TAG 0xFFFF. -/
def entry (op : Nat) (rest : List Nat) : List Nat := (op + 0xFFFF * 2^32) :: (rest ++ List.replicate (7 - rest.length) 0)
def answered (err ep : Bool) (d : Bytes) : HostData := [⟨err, d.map (fun b => (b, ep))⟩]
def hostData (w : List Nat) : HostData := answered false false (w.map (toBytes 8)).flatten
def started (w : List Nat) (placed : Bool) : RingEnt := { index := 0, words := w, placed := placed, bad := false, outcome := none, time := 0 }
/-- The ring has started one entry. -/
def oneEntry (kind target : Nat) (w : List Nat) : Mach := ringed { ringFor kind target with started := [started w false], sqHead := 1, sqTail := 1 } mapped
/-- The descriptor of a ring. -/
def descData (w : List Nat) : HostData := answered false false ((w ++ List.replicate (16 - w.length) 0).map (toBytes 8)).flatten
/-- A BOOT_SELECT record that names B. -/
def selB : List FlashRecord := [⟨6, 1, 1, true, true, .bootSelect true⟩]
def failedPort (x : HostPort) (m : Mach) : Mach := (m.setLive (hostPage 1) Reg.HOST.PORT_STATE_FAILED 1).setPort 1 x
/-- The reduce-scatter with its data in memory. -/
def coFar : List Nat :=
  [2 + 5 * 2^4 + 2^10 + 2^14 + 0x22 * 2^32, 0, 1, 4 * 2^60 + 0x2000, 4 * 2^60 + 0x3000, 0, 0, 0, 0, 0, 0, 0, 4 * 2^60 + 0x4000, 0, 0, 0]

/-! ## Ill-formed commands -/

/-- Each condition of WellFormed refuses a command that breaks it. -/
theorem test_ill_formed :
    ([.stagedWrite ⟨.cell, 180⟩ 0x100 (own 0), .stagedWrite ⟨.time, 0⟩ 0x500 (own 0), .commitGo ⟨.time, 0⟩ (own 0),
      .commitCheckDone ⟨.chk, 96⟩, .commitAbort ⟨.time, 0⟩ (own 1), .commitApply ⟨.dig, 8⟩, .ownerWrite ⟨.port, 4⟩ (own 0),
      .eventClear ⟨.lake, 8⟩ (own 0), .eventInject ⟨.basin, 8⟩ (own 0), .ctxStart 0 0 (own 0), .ctxHalt 0 0 (own 0),
      .ctxReset 0 0 (own 0), .memoryBlockRead ⟨280, 0⟩ ⟨0, [], true⟩, .patrolScrub ⟨0, 0x2400000⟩ ⟨0, [], true⟩,
      .laneRetrainDone 280, .channelCopyDone 280, .hostWindowAccess 0 (.read (2 ^ 36) 1), .scaleWindowWrite 0xE00 (own 0),
      .updListWrite 0 0x918 (own 0), .bankWindowWrite 0xA04 (own 0), .routerReset (own 1), .calWindowWrite 0 0x928 (own 0),
      .barrierWindowWrite 0x9F8 (own 0), .barrierDestroy 0xA08 (own 8), .regParity ⟨.coll, 4⟩ 0, .slotimgSave (own 2),
      .slotimgRestore (own 1), .fwLoad (own 2), .fwActivate (own 1), .fwAbort (own 0), .ringWindowWrite 0xE00 (own 0),
      .ringEnable 0xA10 (own 0), .ringDisable 0xA10 (own 64), .ringDiscard 0xA18 (own 2), .ringFetch 0 (answered false false [1]),
      .powerOn ⟨true, [256], [], [], [], [], [], true, 0⟩, .computeReset (own 2), .computeResetBist (own 1),
      .computeResetDone ⟨true, [], [], [], [228], [], [], true, 0⟩, .pllUnlock 21, .pllRelock 21, .retainRequest (own 2),
      .wakeRequest (own 1), .hostLinkUp 0 7 1 true, .pllRelockTimeout 21,
      .undervoltageRecovery ⟨true, [], [24], [], [], [], [], true, 0⟩] : List Instr).any Instr.wf = false := by
  decide +kernel

/-- An ill-formed command is refused by that name, and a well-formed one is not. -/
theorem test_refusal : exec (.pllUnlock 21) State.reset = .refused .illFormed ∧ (Instr.pllUnlock 20).wf = true ∧
    step { State.reset with pending := [.pllUnlock 21] } = .refused .illFormed :=
  ⟨rfl, by decide, rfl⟩

/-! ## Words and worked examples of the spec -/

/-- The home slice of 0x00AB_CDEF_0100 is 12 (R259). -/
theorem test_home_slice : homeSlice 0x00ABCDEF0100 = 12 := by decide +kernel

/-- The shards of 100,000 elements over 6 ranks (R362). -/
theorem test_shards : shardSize 100000 6 = 20480 ∧ shardOf 100000 6 4 = (81920, 100000) ∧ shardLen 100000 6 4 = 18080 ∧
    shardLen 100000 6 5 = 0 := by
  decide +kernel

/-- The contributions 2^24, 1, 1, 1, 1, −2^24 of the six-rank reduce-scatter give 3 (R369). -/
theorem test_rank_tree :
    let add := fun a b => (wideAdd 1 .rne ⟨a, 0⟩ ⟨b, 0⟩).code
    add (add (add 0x4B800000 0x3F800000) (add 0x3F800000 0x3F800000)) (add 0x3F800000 0xCB800000) = 0x40400000 := by
  decide +kernel

/-- The stream and the counter block of the weight write of R396. -/
theorem test_spring_counter : springStream 6 0x123 7000 = 0x6001230000001B58 ∧ 1000003 / 5 = 200000 ∧
    natBytes 16 (springStream 6 0x123 7000 * 2 ^ 64 + 200000) =
      [0x40, 0x0D, 3, 0, 0, 0, 0, 0, 0x58, 0x1B, 0, 0, 0, 0x23, 0x01, 0x60] := by
  decide +kernel

/-- AES-128 of FIPS 197, the cipher of R396: its appendix C.1. -/
theorem test_aes : aes128 (upTo 16) ((upTo 16).map (fun i => 17 * i)) =
    [0x69, 0xC4, 0xE0, 0xD8, 0x6A, 0x7B, 0x04, 0x30, 0xD8, 0xCD, 0xB7, 0x80, 0x70, 0xB4, 0xC5, 0x5A] := by
  decide +kernel

/-- SHA-256 of "abc" (FIPS 180-4), the hash of R398. -/
theorem test_sha : bytesNat (sha256 [0x61, 0x62, 0x63]).reverse =
    0xBA7816BF8F01CFEA414140DE5DAE2223B00361A396177A9CB410FF61F20015AD := by
  decide +kernel

/-- CRC-32C of "123456789" (R404). -/
theorem test_crc : crcOf crc32c [0x31, 0x32, 0x33, 0x34, 0x35, 0x36, 0x37, 0x38, 0x39] = 0xE3069283 := by decide +kernel

/-- CELL.CAPS of a tensor cell (R28). -/
theorem test_caps : up.headerRead (unitPage 41) 0x008 = 0x1000040004104004 := by decide +kernel

/-- The root of the barrier of R346: the last report at 2,310 ns gives a release at 2,710 ns. -/
theorem test_barrier_release :
    let b : BarObj := { BarObj.reset with cfg := 1 + 2 ^ 2 + 2 ^ 4 + 3 * 2 ^ 11 + 4 * 2 ^ 32, lead := 400, arr0 := 1,
                                          kids0 := [(1, 0, 1), (2, 0, 1)] }
    let m : Mach := ({ up with time := { up.time with ns := 2310 } } : Mach).setBar 9 b
    ((m.barArrival ⟨9, 0, 1, false, 1, 0⟩).bar 9).release = some 2710 := by
  decide +kernel

/-- The power cap of 2,800 W: three readings bring a from 16 to 13, and 2,777 W holds it (R468). -/
theorem test_power_cap :
    let cap := fun (a v : Nat) =>
      (((force up pwrPage Reg.PWR.PWRCTL_LIMIT_W 2800).setLive pwrPage Reg.PWR.THROTTLE_A_CAP a).capMeasure
        ⟨BitVec.ofNat 16 v, 3000, 30, 40⟩).live pwrPage Reg.PWR.THROTTLE_A_CAP
    cap 16 3100 = 15 ∧ cap 15 2993 = 14 ∧ cap 14 2885 = 13 ∧ cap 13 2777 = 13 := by
  decide +kernel

/-- Words of R124 and R125 and of the groups SV, QU, DM and CO, written out from their fields. -/
theorem test_words :
    decodeWord 0 0 0b000001_00001_00010_00011_00000000001#32 = some (.sub 0 0 1 2 3) ∧
    decodeWord 0 0 0b000011_00001_00000_1111111111111111#32 = some (.loadUpper 0 0 1 0xFFFF) ∧
    decodeWord 0 0 0b000101_00101_00110_011_1000000000000#32 = some (.store 0 0 5 6 3 0x1000) ∧
    decodeWord 0 0 0b000111_11111_000000000000000000001#32 = some (.jumpAndLink 0 0 31 1) := by
  decide +kernel

/-! ## Hypotheses that Lean does not decide at once -/

/-- An answer that is the one expected. -/
theorem okOf {ε α : Type} [DecidableEq α] (x : Except ε α) (a : α)
    (h : (match x with | .ok b => decide (b = a) | .error _ => false) = true) : x = .ok a := by
  cases x <;> simp_all

theorem errorOf {ε α : Type} [DecidableEq ε] (x : Except ε α) (e : ε)
    (h : (match x with | .error b => decide (b = e) | .ok _ => false) = true) : x = .error e := by
  cases x <;> simp_all

/-- A module that is up, with no commit of regions or scratch due and no channel in retraining or in a copy, holds no access to
memory. -/
theorem memHeld_quiet (m : Mach) (a n : Nat) (hu : m.memoryUp = true) (hr : m.chan.remap = false) (hc : m.chan.chans = [])
    (hs : m.chan.scratchDue = []) (hd : ∀ t, t < 256 → m.chState t ≠ 1) : m.memHeld a n = false := by
  have h1 : ∀ b, m.remapHeld b = false := by intro b; simp [Mach.remapHeld, hr]
  have h2 : ∀ t, (m.chanOf t).retrain = false := by
    intro t
    simp [Mach.chanOf, hc, SMap.get, SMap.find?, chanDefault, ChanSt.reset]
  have h3 : ∀ t, m.spanHeld t = false := by
    intro t
    simp only [Mach.spanHeld, decide_eq_false_iff_not]
    exact fun h => hd t.1 h.1 h.2.1
  have h4 : ∀ k, m.sliceDue k = false := by intro k; simp [Mach.sliceDue, hs, SMap.get, SMap.find?]
  have h5 : m.chanBusy a n = false := by
    simp only [Mach.chanBusy, hu, Bool.not_true, Bool.false_or, List.any_eq_false]
    intro b _
    cases m.memTarget b <;> simp [h2, h3]
  simp [Mach.memHeld, Mach.memStuck, Mach.remapMeets, h1, h4, h5]

/-- A store that ends with its context running. -/
theorem meets_StoreFrame :
    ready loads 0 0 = true ∧ loads.queue.combs = [] ∧
    ∃ t, exec (.store 0 0 3 4 0 0) (st loads) = .next t ∧ (t.m.ctx 0 0).state = .running :=
  ⟨by decide +kernel, by decide +kernel, _, rfl, by decide +kernel⟩

/-- A scalar instruction that ends with its context running. -/
theorem meets_ScalarFrame :
    ready (cell busyCtx) 0 0 = true ∧
    ∃ t, exec (.add 0 0 31 1 2) (st (cell busyCtx)) = .next t ∧ (t.m.ctx 0 0).state = .running :=
  ⟨by decide +kernel, _, rfl, by decide +kernel⟩

/-- A step from a state of canonical form. -/
theorem meets_StepKeepsCanonical :
    (cell busyCtx).canonical = true ∧ ∃ t, step ⟨[.add 0 0 31 1 2], cell busyCtx⟩ = .next t :=
  ⟨by decide +kernel, _, rfl⟩

/-- Words of instructions at the ends of their operands. -/
theorem meets_InstructionWordsRoundTrip :
    (encode (.branch 203 15 31 0 7 0x1FFF)).isSome = true ∧ (encode (.vadd 0 0 true 31 31 31 7 15)).isSome = true ∧
    (encode (.coRun 179 0 31 31 0x1FFF)).isSome = true := by
  decide +kernel

/-- A transfer of the slot image at an aligned and at a misaligned address. -/
theorem meets_CheckClearAndSlotImage_transfer :
    ((rasImage 0x40 1).ras.imgBusy = 1 ∧ (rasImage 0x40 1).ras.imgAddr % 64 = 0 ∧
      (rasImage 0x40 1).memHeld (rasImage 0x40 1).ras.imgAddr imageBytes = false ∧ (rasImage 0x40 1).canonical = true) ∧
    ((rasImage 0x40 2).ras.imgBusy = 2 ∧ (rasImage 0x40 2).ras.imgAddr % 64 = 0 ∧
      (rasImage 0x40 2).memHeld (rasImage 0x40 2).ras.imgAddr imageBytes = false ∧ (rasImage 0x40 2).canonical = true) ∧
    ((rasImage 0x20 2).ras.imgBusy ≠ 0 ∧ (rasImage 0x20 2).ras.imgAddr % 64 ≠ 0 ∧
      (rasImage 0x20 2).memHeld (rasImage 0x20 2).ras.imgAddr imageBytes = false ∧ (rasImage 0x20 2).canonical = true) :=
  ⟨⟨by decide +kernel, by decide +kernel, memHeld_quiet _ _ _ (by decide +kernel) rfl rfl rfl (by decide +kernel), by decide +kernel⟩,
   ⟨by decide +kernel, by decide +kernel, memHeld_quiet _ _ _ (by decide +kernel) rfl rfl rfl (by decide +kernel), by decide +kernel⟩,
   ⟨by decide +kernel, by decide +kernel, memHeld_quiet _ _ _ (by decide +kernel) rfl rfl rfl (by decide +kernel), by decide +kernel⟩⟩

/-- An armed snapshot is an instant that an idle module knows. -/
theorem meets_PowerStates_instant :
    let m : Mach := { (up.setLive pwrPage Reg.PWR.STATE 2) with time := { up.time with armed := some (1000, 5) } }
    m.canonical = true ∧ m.domainUp = true ∧ 1000 ∈ m.knownInstants ∧ m.live pwrPage Reg.PWR.STATE = 2 ∧ m.now < 1000 ∧
      1000 ≤ m.now + 1000 := by
  decide +kernel

/-! ## States that meet the hypotheses of the statements -/

set_option maxRecDepth 4096
set_option Elab.async false

theorem meets_AluRegisterResults :
   (let s : State := st (cell busyCtx)
    let u : UnitId := 0
    let c : CtxId := 0
    ready s.m u c = true) ∧
   (let s : State := st (scell busyCtx)
    let u : UnitId := 199
    let c : CtxId := 15
    ready s.m u c = true) :=
  by refine ⟨?_, ?_⟩ <;> decide +kernel

theorem meets_AluImmediateResults :
   (let s : State := st (cell busyCtx)
    let u : UnitId := 0
    let c : CtxId := 0
    ready s.m u c = true) :=
  by decide +kernel

theorem meets_JumpsAndBranches :
   (let s : State := st (cell busyCtx)
    let u : UnitId := 0
    let c : CtxId := 0
    ready s.m u c = true) :=
  by decide +kernel

theorem meets_EmptyQueueTicks :
   (let s : State := State.reset
    s.pending = [] ∧ s.m.power.on = false) ∧
   (let s : State := st up
    s.pending = [] ∧ s.m.power.on = true ∧ s.m.ras.errors = [] ∧ ((∀ e ∈ s.m.hdrs, e.2.pending = false))) :=
  by refine ⟨?_, ?_⟩ <;> decide +kernel

theorem meets_WellFormedQueueNeverStops :
   (let s : State := ⟨[.yield 203 15 0 0 0, .eventClear ⟨.clk, 0⟩ (own 1)], up⟩
    s.queueOk = true) :=
  by decide +kernel

theorem meets_WrittenBytesReadBack :
   (let m : Mach := up.wrBytes 6 [1, 2, 3] true
    let d : Bytes := [0, 5]
    let i := 1
    let k : Nat := 7
    let a := 6
    SMap.wf m.mem memDefault = true ∧ i < d.length ∧ ((a < k ∨ k + d.length ≤ a))) :=
  by decide +kernel

theorem meets_MemoryStaysCanonical :
   (let m : Mach := up.wrBytes 6 [1, 2, 3] true
    m.memoryWf = true) :=
  by decide +kernel

theorem meets_PoisonMarks :
   (let m : Mach := up.wrBytes 6 [1, 2, 3] true
    let k : Nat := 7
    let d : Bytes := [0, 0]
    let a : Nat := 8
    m.memoryWf = true ∧ (k ≤ a ∧ a < k + d.length) ∧ ¬ (k ≤ 8 * (a / 8) ∧ 8 * (a / 8) + 8 ≤ k + d.length)) ∧
   (let m : Mach := up.wrBytes 6 [1, 2, 3] true
    let k : Nat := 8
    let d : Bytes := List.replicate 8 0
    let a : Nat := 15
    m.memoryWf = true ∧ (k ≤ 8 * (a / 8) ∧ 8 * (a / 8) + 8 ≤ k + d.length)) :=
  by refine ⟨?_, ?_⟩ <;> decide +kernel

theorem meets_GeneralRegisters :
   (let x : Ctx := busyCtx
    let r : RegNo := 31
    let q : RegNo := 1
    (SMap.wf x.g (fun _ => 0) = true) ∧ r ≠ 0 ∧ q ≠ r) :=
  by decide +kernel

theorem meets_LoadResults :
   (let s : State := st loads
    let u : UnitId := 0
    let c : CtxId := 0
    ready s.m u c = true ∧ (s.m.unit u).held = []) ∧
   (let s : State := st loads
    let u : UnitId := 0
    let c : CtxId := 0
    ready s.m u c = true ∧ (s.m.unit u).held = []) ∧
   (let s : State := st loads
    let u : UnitId := 0
    let c : CtxId := 0
    ready s.m u c = true ∧ (s.m.unit u).held = []) ∧
   (let s : State := st loads
    let u : UnitId := 0
    let c : CtxId := 0
    ready s.m u c = true ∧ (s.m.unit u).held = []) ∧
   (let s : State := st loads
    let u : UnitId := 0
    let c : CtxId := 0
    ready s.m u c = true ∧ (s.m.unit u).held = []) :=
  by refine ⟨?_, ?_, ?_, ?_, ?_⟩ <;> decide +kernel

theorem meets_StoreResults :
   (let s : State := st loads
    let u : UnitId := 0
    let c : CtxId := 0
    ready s.m u c = true ∧ (s.m.unit u).held = [] ∧ s.m.queue.combs = [] ∧ (s.m.mxOf u).running = none) ∧
   (let s : State := st loads
    let u : UnitId := 0
    let c : CtxId := 0
    ready s.m u c = true ∧ (s.m.unit u).held = [] ∧ s.m.queue.combs = [] ∧ (s.m.mxOf u).running = none) ∧
   (let s : State := st loads
    let u : UnitId := 0
    let c : CtxId := 0
    ready s.m u c = true ∧ (s.m.unit u).held = [] ∧ s.m.queue.combs = [] ∧ (s.m.mxOf u).running = none) :=
  by refine ⟨?_, ?_, ?_⟩ <;> decide +kernel

theorem meets_ContextInstructions :
   (let s : State := st (cell { busyCtx with flags := 0xFF })
    let u : UnitId := 0
    let c : CtxId := 0
    ready s.m u c = true) ∧
   (let s : State := st (cell { busyCtx with state := .waiting, wait := .time 0 })
    let u : UnitId := 0
    let c : CtxId := 0
    let x := s.m.ctx u c
    let w := 0
    x.state = .waiting ∧ x.wait = .time w) :=
  by refine ⟨?_, ?_⟩ <;> decide +kernel

theorem meets_ContextSwitchCounts :
   (let m : Mach := cell busyCtx
    let u : UnitId := 0
    let d : Nat := 0
    (m.unit u).lastSel = some d) :=
  by decide +kernel

theorem meets_ContextCommands :
   (let s : State := st (cell Ctx.reset)
    let u : UnitId := 0
    let c : CtxId := 0
    let w : RegWrite := own 256
    let x := s.m.ctx u c
    let v := w.merge (x.pc.zeroExtend 64)
    owner s.m w (unitPage u) = true ∧ setsReserved (unitPage u).blk (0xB08 + 16 * c.val) w.bits = false ∧
    bit w.bits 8 = true ∧ bit w.bits 9 = false ∧ bit w.bits 10 = false ∧ v.toNat < pondSize u ∧ x.state = .halted ∧
    x.pc.toNat ≠ v.toNat) ∧
   (let s : State := st (cell busyCtx)
    let u : UnitId := 0
    let c : CtxId := 0
    let w : RegWrite := own 512
    let x := s.m.ctx u c
    let v := w.merge (x.pc.zeroExtend 64)
    owner s.m w (unitPage u) = true ∧ setsReserved (unitPage u).blk (0xB08 + 16 * c.val) w.bits = false ∧
    bit w.bits 8 = false ∧ bit w.bits 9 = true ∧ bit w.bits 10 = false ∧ v.toNat < pondSize u ∧ x.state ≠ .halted) ∧
   (let s : State := st up
    let u : UnitId := 0
    let c : CtxId := 15
    let w : RegWrite := own 0x400000
    let x := s.m.ctx u c
    let v := w.merge (x.pc.zeroExtend 64)
    owner s.m w (unitPage u) = true ∧ pondSize u ≤ v.toNat) ∧
   (let s : State := st (cell ({ busyCtx with state := .faulted }))
    let u : UnitId := 0
    let c : CtxId := 0
    let w : RegWrite := own 1024
    let x := s.m.ctx u c
    owner s.m w (unitPage u) = true ∧ setsReserved (unitPage u).blk (0xB08 + 16 * c.val) w.bits = false ∧
    bit w.bits 8 = false ∧ bit w.bits 9 = false ∧ bit w.bits 10 = true ∧ (x.state = .halted ∨ x.state = .faulted)) ∧
   (let s : State := st (cell busyCtx)
    let u : UnitId := 0
    let c : CtxId := 0
    let w : RegWrite := own 1024
    let x := s.m.ctx u c
    owner s.m w (unitPage u) = true ∧ setsReserved (unitPage u).blk (0xB08 + 16 * c.val) w.bits = false ∧
    bit w.bits 8 = false ∧ bit w.bits 9 = false ∧ bit w.bits 10 = true ∧ x.state ≠ .halted ∧ x.state ≠ .faulted) ∧
   (let s : State := st (up.setCtx 199 15 { Ctx.reset with pc := 0xFFFFFC })
    let u : UnitId := 199
    let c : CtxId := 15
    let w : RegWrite := own 0xFFFFFC
    let x := s.m.ctx u c
    let v := w.merge (x.pc.zeroExtend 64)
    owner s.m w (unitPage u) = true ∧ v.toNat < pondSize u ∧ x.state = .halted ∧ x.pc.toNat = v.toNat) ∧
   (let s : State := st up
    let u : UnitId := 199
    let c : CtxId := 15
    let w : RegWrite := own 0xFFFFFC
    let x := s.m.ctx u c
    let v := w.merge (x.pc.zeroExtend 64)
    owner s.m w (unitPage u) = true ∧ v.toNat < pondSize u ∧ x.state = .halted ∧ x.pc.toNat ≠ v.toNat) :=
  by refine ⟨?_, ?_, ?_, ?_, ?_, ?_, ?_⟩ <;> decide +kernel

theorem meets_VectorArithmetic :
   (let s : State := st vcell
    let u : UnitId := 0
    let c : CtxId := 0
    let fmt : BitVec 4 := 1
    vecReady s.m u c = true ∧ fmtArith u fmt.toNat = true) :=
  by decide +kernel

theorem meets_VectorLaneResults :
   (let fmt : Nat := 11
    fmt ≤ 11) :=
  by decide +kernel

theorem meets_VectorOther :
   (let s : State := st vcell
    let u : UnitId := 0
    let c : CtxId := 0
    let fmt : BitVec 4 := 1
    let f := fmt.toNat
    let vd : RegNo := 7
    let vb : RegNo := 2
    let src := vb.toNat / 2
    vecReady s.m u c = true ∧ fmtComplex u f = true ∧ fmtArith u f = true ∧ vd.toNat < 8 ∧ fmtData u f = true ∧
    fmtData u src = true ∧ (s.m.ctx u c).srBind = false) ∧
   (let s : State := st (vcell.setCtx 0 0 { vecCtx with srBind := true })
    let u : UnitId := 0
    let c : CtxId := 0
    let vb : RegNo := 23
    let fmt : BitVec 4 := 1
    let f := fmt.toNat
    let src := vb.toNat / 2
    vecReady s.m u c = true ∧ fmtData u f = true ∧ fmtData u src = true ∧ (s.m.ctx u c).srBind = true ∧
    scaleOk (s.m.slot ((s.m.ctx u c).srTensor.toNat % 2 ^ 16)).scale = true) :=
  by refine ⟨?_, ?_⟩ <;> decide +kernel

theorem meets_VectorConfiguration :
   (let s : State := st vcell
    let u : UnitId := 0
    let c : CtxId := 0
    let fmt : BitVec 4 := 1
    let ga : RegNo := 1
    let a := s.m.g u c ga
    vecReady s.m u c = true ∧ fmtData u fmt.toNat = true ∧ ((bit a 20 = false ∨ fld a 19 16 = 0)) ∧ fld a 63 60 ≠ 8) ∧
   (let s : State := st (vcell.setG 0 0 1 0x8000000000000000)
    let u : UnitId := 0
    let c : CtxId := 0
    let ga : RegNo := 1
    let a := s.m.g u c ga
    vecReady s.m u c = true ∧ fld a 63 60 = 8) ∧
   (let s : State := st (vcell.setG 0 0 1 0x1F0000)
    let u : UnitId := 0
    let c : CtxId := 0
    let ga : RegNo := 1
    let a := s.m.g u c ga
    vecReady s.m u c = true ∧ bit a 20 = true ∧ fld a 19 16 ≠ 0) :=
  by refine ⟨?_, ?_, ?_⟩ <;> decide +kernel

theorem meets_VectorIssueOrder :
   (let s : State := st (cell busyCtx)
    let u : UnitId := 0
    let c : CtxId := 0
    let fmt : BitVec 4 := 1
    ready s.m u c = true ∧ fmtArith u fmt.toNat = true) ∧
   (let s : State := st vcell
    let u : UnitId := 0
    let c : CtxId := 0
    let fmt : BitVec 4 := 12
    ready s.m u c = true ∧ fmtArith u fmt.toNat = false ∧ fmt.toNat < 13) ∧
   (let s : State := st vcell
    let u : UnitId := 0
    let c : CtxId := 0
    let fmt : BitVec 4 := 13
    ready s.m u c = true ∧ 13 ≤ fmt.toNat ∧ (s.m.vsave u c).isSome = true) :=
  by refine ⟨?_, ?_, ?_⟩ <;> decide +kernel

theorem meets_VectorPowerAndMove :
   (let s : State := st { force vcell (unitPage 0) Reg.CELL.VCTL_VIDLE 5 with ticks := 2 }
    let u : UnitId := 0
    let c : CtxId := 0
    let x := s.m.unit u
    let n := s.m.act (unitPage u) Reg.CELL.VCTL_VIDLE
    ready s.m u c = true ∧ x.vDown = false ∧ x.inFlight = [] ∧ n ≠ 0 ∧ x.vMove = none ∧ n * 2 ≤ 5 * (s.m.ticks - x.vLast)) ∧
   (let s : State := st (vcell.setUnit 0 { vcell.unit 0 with reduce := [⟨0, 31, true, false, none⟩] })
    let u : UnitId := 0
    let c : CtxId := 0
    let x := s.m.unit u
    ready s.m u c = true ∧ x.vDown = false ∧ x.inFlight ≠ []) ∧
   (let s : State := st (vcell.setUnit 0 { vcell.unit 0 with vDown := true })
    let u : UnitId := 0
    let c : CtxId := 0
    let x := s.m.unit u
    ready s.m u c = true ∧ x.vDown = true) ∧
   (let s : State := st ((cell { vecCtx with state := .waiting, wait := .vecWake }).setUnit 0 { UnitSt.reset with vDown := true, vWake := some 0 })
    let u : UnitId := 0
    let c : CtxId := 0
    let x := s.m.unit u
    let d := 0
    x.vWake = some d ∧ (s.m.ctx u c).state = .waiting ∧ (s.m.ctx u c).wait = .vecWake) ∧
   (let s : State := st ((cell { vecCtx with state := .waiting, wait := .vecMove }).setUnit 0 { UnitSt.reset with vMove := some 0 })
    let u : UnitId := 0
    let c : CtxId := 0
    let x := s.m.unit u
    x.vMove = some c.val ∧ (s.m.ctx u c).state = .waiting ∧ (s.m.ctx u c).wait = .vecMove) :=
  by refine ⟨?_, ?_, ?_, ?_, ?_⟩ <;> decide +kernel

theorem meets_VectorMemory :
   (let s : State := st vcell
    let u : UnitId := 0
    let c : CtxId := 0
    let vd : RegNo := 28
    let ga : RegNo := 1
    let gs : RegNo := 0
    let pm : BitVec 3 := 0
    let fmt : BitVec 4 := 8
    let w := fmtWidth fmt.toNat
    let n : Nat := 1
    let v := fun (n : Nat) => s.m.vmem u c n vd ga gs fmt
    let lanes := s.m.memLanes u c (v 1) pm.toNat
    let ok := fun (n : Nat) => ∀ i ∈ lanes, ∀ f, f < n →
      (w < 8 ∨ (v n).bit i f / 8 % (w / 8) = 0) ∧ ((v n).bit i f + w + 7) / 8 ≤ pondSize u
    vecReady s.m u c = true ∧ fmtMem u fmt.toNat = true ∧ vd.toNat + n ≤ 32 ∧ ok n ∧ s.m.queue.combs = []) ∧
   (let s : State := st vcell
    let u : UnitId := 0
    let c : CtxId := 0
    let vd : RegNo := 28
    let ga : RegNo := 1
    let gs : RegNo := 0
    let pm : BitVec 3 := 0
    let fmt : BitVec 4 := 8
    let w := fmtWidth fmt.toNat
    let n : Nat := 2
    let v := fun (n : Nat) => s.m.vmem u c n vd ga gs fmt
    let lanes := s.m.memLanes u c (v 1) pm.toNat
    let ok := fun (n : Nat) => ∀ i ∈ lanes, ∀ f, f < n →
      (w < 8 ∨ (v n).bit i f / 8 % (w / 8) = 0) ∧ ((v n).bit i f + w + 7) / 8 ≤ pondSize u
    vecReady s.m u c = true ∧ fmtMem u fmt.toNat = true ∧ vd.toNat + n ≤ 32 ∧ ok n ∧ s.m.queue.combs = []) ∧
   (let s : State := st vcell
    let u : UnitId := 0
    let c : CtxId := 0
    let vd : RegNo := 28
    let ga : RegNo := 1
    let gs : RegNo := 0
    let pm : BitVec 3 := 0
    let fmt : BitVec 4 := 8
    let w := fmtWidth fmt.toNat
    let n : Nat := 3
    let v := fun (n : Nat) => s.m.vmem u c n vd ga gs fmt
    let lanes := s.m.memLanes u c (v 1) pm.toNat
    let ok := fun (n : Nat) => ∀ i ∈ lanes, ∀ f, f < n →
      (w < 8 ∨ (v n).bit i f / 8 % (w / 8) = 0) ∧ ((v n).bit i f + w + 7) / 8 ≤ pondSize u
    vecReady s.m u c = true ∧ fmtMem u fmt.toNat = true ∧ vd.toNat + n ≤ 32 ∧ ok n ∧ s.m.queue.combs = []) ∧
   (let s : State := st vcell
    let u : UnitId := 0
    let c : CtxId := 0
    let vd : RegNo := 28
    let ga : RegNo := 1
    let gs : RegNo := 0
    let pm : BitVec 3 := 0
    let fmt : BitVec 4 := 8
    let w := fmtWidth fmt.toNat
    let n : Nat := 4
    let v := fun (n : Nat) => s.m.vmem u c n vd ga gs fmt
    let lanes := s.m.memLanes u c (v 1) pm.toNat
    let ok := fun (n : Nat) => ∀ i ∈ lanes, ∀ f, f < n →
      (w < 8 ∨ (v n).bit i f / 8 % (w / 8) = 0) ∧ ((v n).bit i f + w + 7) / 8 ≤ pondSize u
    vecReady s.m u c = true ∧ fmtMem u fmt.toNat = true ∧ vd.toNat + n ≤ 32 ∧ ok n ∧ s.m.queue.combs = []) ∧
   (let s : State := st vcell
    let u : UnitId := 0
    let c : CtxId := 0
    let vd : RegNo := 28
    let ga : RegNo := 1
    let gs : RegNo := 0
    let pm : BitVec 3 := 0
    let fmt : BitVec 4 := 12
    let w := fmtWidth fmt.toNat
    let n : Nat := 1
    let v := fun (n : Nat) => s.m.vmem u c n vd ga gs fmt
    let lanes := s.m.memLanes u c (v 1) pm.toNat
    let ok := fun (n : Nat) => ∀ i ∈ lanes, ∀ f, f < n →
      (w < 8 ∨ (v n).bit i f / 8 % (w / 8) = 0) ∧ ((v n).bit i f + w + 7) / 8 ≤ pondSize u
    vecReady s.m u c = true ∧ fmtMem u fmt.toNat = true ∧ vd.toNat + n ≤ 32 ∧ ¬ ok n) ∧
   (let s : State := st vcell
    let u : UnitId := 0
    let c : CtxId := 0
    let vd : RegNo := 28
    let ga : RegNo := 1
    let gs : RegNo := 0
    let pm : BitVec 3 := 0
    let fmt : BitVec 4 := 12
    let w := fmtWidth fmt.toNat
    let n : Nat := 2
    let v := fun (n : Nat) => s.m.vmem u c n vd ga gs fmt
    let lanes := s.m.memLanes u c (v 1) pm.toNat
    let ok := fun (n : Nat) => ∀ i ∈ lanes, ∀ f, f < n →
      (w < 8 ∨ (v n).bit i f / 8 % (w / 8) = 0) ∧ ((v n).bit i f + w + 7) / 8 ≤ pondSize u
    vecReady s.m u c = true ∧ fmtMem u fmt.toNat = true ∧ vd.toNat + n ≤ 32 ∧ ¬ ok n) ∧
   (let s : State := st vcell
    let u : UnitId := 0
    let c : CtxId := 0
    let vd : RegNo := 28
    let ga : RegNo := 1
    let gs : RegNo := 0
    let pm : BitVec 3 := 0
    let fmt : BitVec 4 := 12
    let w := fmtWidth fmt.toNat
    let n : Nat := 3
    let v := fun (n : Nat) => s.m.vmem u c n vd ga gs fmt
    let lanes := s.m.memLanes u c (v 1) pm.toNat
    let ok := fun (n : Nat) => ∀ i ∈ lanes, ∀ f, f < n →
      (w < 8 ∨ (v n).bit i f / 8 % (w / 8) = 0) ∧ ((v n).bit i f + w + 7) / 8 ≤ pondSize u
    vecReady s.m u c = true ∧ fmtMem u fmt.toNat = true ∧ vd.toNat + n ≤ 32 ∧ ¬ ok n) ∧
   (let s : State := st vcell
    let u : UnitId := 0
    let c : CtxId := 0
    let vd : RegNo := 28
    let ga : RegNo := 1
    let gs : RegNo := 0
    let pm : BitVec 3 := 0
    let fmt : BitVec 4 := 12
    let w := fmtWidth fmt.toNat
    let n : Nat := 4
    let v := fun (n : Nat) => s.m.vmem u c n vd ga gs fmt
    let lanes := s.m.memLanes u c (v 1) pm.toNat
    let ok := fun (n : Nat) => ∀ i ∈ lanes, ∀ f, f < n →
      (w < 8 ∨ (v n).bit i f / 8 % (w / 8) = 0) ∧ ((v n).bit i f + w + 7) / 8 ≤ pondSize u
    vecReady s.m u c = true ∧ fmtMem u fmt.toNat = true ∧ vd.toNat + n ≤ 32 ∧ ¬ ok n) ∧
   (let s : State := st vcell
    let u : UnitId := 0
    let c : CtxId := 0
    let vd : RegNo := 31
    let fmt : BitVec 4 := 12
    let n : Nat := 2
    vecReady s.m u c = true ∧ fmtMem u fmt.toNat = true ∧ 32 < vd.toNat + n) ∧
   (let s : State := st vcell
    let u : UnitId := 0
    let c : CtxId := 0
    let vd : RegNo := 31
    let fmt : BitVec 4 := 12
    let n : Nat := 3
    vecReady s.m u c = true ∧ fmtMem u fmt.toNat = true ∧ 32 < vd.toNat + n) ∧
   (let s : State := st vcell
    let u : UnitId := 0
    let c : CtxId := 0
    let vd : RegNo := 31
    let fmt : BitVec 4 := 12
    let n : Nat := 4
    vecReady s.m u c = true ∧ fmtMem u fmt.toNat = true ∧ 32 < vd.toNat + n) ∧
   (let s : State := st vcell
    let u : UnitId := 0
    let c : CtxId := 0
    let vd : RegNo := 28
    let ga : RegNo := 1
    let gs : RegNo := 0
    let pm : BitVec 3 := 0
    let fmt : BitVec 4 := 8
    let w := fmtWidth fmt.toNat
    let n : Nat := 1
    let v := fun (n : Nat) => s.m.vmem u c n vd ga gs fmt
    let lanes := s.m.memLanes u c (v 1) pm.toNat
    let ok := fun (n : Nat) => ∀ i ∈ lanes, ∀ f, f < n →
      (w < 8 ∨ (v n).bit i f / 8 % (w / 8) = 0) ∧ ((v n).bit i f + w + 7) / 8 ≤ pondSize u
    vecReady s.m u c = true ∧ fmtMem u fmt.toNat = true ∧ vd.toNat + n ≤ 32 ∧ ok n) ∧
   (let s : State := st vcell
    let u : UnitId := 0
    let c : CtxId := 0
    let vd : RegNo := 28
    let ga : RegNo := 1
    let gs : RegNo := 0
    let pm : BitVec 3 := 0
    let fmt : BitVec 4 := 8
    let w := fmtWidth fmt.toNat
    let n : Nat := 1
    let v := fun (n : Nat) => s.m.vmem u c n vd ga gs fmt
    let lanes := s.m.memLanes u c (v 1) pm.toNat
    let ok := fun (n : Nat) => ∀ i ∈ lanes, ∀ f, f < n →
      (w < 8 ∨ (v n).bit i f / 8 % (w / 8) = 0) ∧ ((v n).bit i f + w + 7) / 8 ≤ pondSize u
    vecReady s.m u c = true ∧ fmtMem u fmt.toNat = true ∧ vd.toNat + n ≤ 32 ∧ ok n) ∧
   (let s : State := st vcell
    let u : UnitId := 0
    let c : CtxId := 0
    let vd : RegNo := 28
    let ga : RegNo := 1
    let gs : RegNo := 0
    let pm : BitVec 3 := 0
    let fmt : BitVec 4 := 8
    let w := fmtWidth fmt.toNat
    let n : Nat := 1
    let v := fun (n : Nat) => s.m.vmem u c n vd ga gs fmt
    let lanes := s.m.memLanes u c (v 1) pm.toNat
    let ok := fun (n : Nat) => ∀ i ∈ lanes, ∀ f, f < n →
      (w < 8 ∨ (v n).bit i f / 8 % (w / 8) = 0) ∧ ((v n).bit i f + w + 7) / 8 ≤ pondSize u
    vecReady s.m u c = true ∧ fmtMem u fmt.toNat = true ∧ vd.toNat + n ≤ 32 ∧ ok n) :=
  by refine ⟨?_, ?_, ?_, ?_, ?_, ?_, ?_, ?_, ?_, ?_, ?_, ?_, ?_, ?_⟩ <;> decide +kernel

theorem meets_VectorReductions :
   (let s : State := st (vcell.setG 0 0 1 0x1010)
    let u : UnitId := 0
    let c : CtxId := 0
    let ga : RegNo := 1
    let x := s.m.unit u
    let a := (s.m.g u c ga).toNat
    vecReady s.m u c = true ∧ (s.m.unit u).held = [] ∧
    (x.reduce.all (fun r => !(decide (r.ctx = c.val) && r.linked)) = true) ∧ (a % 32 ≠ 0 ∨ pondSize u < a + 32) ∧
    s.m.rowHeld (pondKey u a) 32 = false) ∧
   (let s : State := st (vcell.wrBytes (pondKey 0 0x101F) [0] true)
    let u : UnitId := 0
    let c : CtxId := 0
    let ga : RegNo := 1
    let x := s.m.unit u
    let a := (s.m.g u c ga).toNat
    vecReady s.m u c = true ∧ (s.m.unit u).held = [] ∧
    (x.reduce.all (fun r => !(decide (r.ctx = c.val) && r.linked)) = true) ∧ a % 32 = 0 ∧ a + 32 ≤ pondSize u ∧
    s.m.anyMarked (pondKey u a) 32 = true) ∧
   (let s : State := st (poke (poke (poke vcell 0x1000 (0x2000 + 1 * 2^22) 8) 0x1008 (0) 8) 0x1010 (0x3000) 8)
    let u : UnitId := 0
    let c : CtxId := 0
    let ga : RegNo := 1
    let x := s.m.unit u
    let a := (s.m.g u c ga).toNat
    let w := wordsOf 4 (s.m.rdBytes 32 (pondKey u a))
    let topk : Bool := false
    vecReady s.m u c = true ∧ (s.m.unit u).held = [] ∧
    (x.reduce.all (fun r => !(decide (r.ctx = c.val) && r.linked)) = true) ∧ a % 32 = 0 ∧ a + 32 ≤ pondSize u ∧
    s.m.anyMarked (pondKey u a) 32 = false ∧ fmtData u (wfld w 0 25 22) = true ∧ reduceCode u topk w ≠ 0) ∧
   (let s : State := st (poke (poke (poke vcell 0x1000 (0x2000 + 1 * 2^22) 8) 0x1008 (0) 8) 0x1010 (0x3000) 8)
    let u : UnitId := 0
    let c : CtxId := 0
    let ga : RegNo := 1
    let x := s.m.unit u
    let a := (s.m.g u c ga).toNat
    let w := wordsOf 4 (s.m.rdBytes 32 (pondKey u a))
    let topk : Bool := true
    vecReady s.m u c = true ∧ (s.m.unit u).held = [] ∧
    (x.reduce.all (fun r => !(decide (r.ctx = c.val) && r.linked)) = true) ∧ a % 32 = 0 ∧ a + 32 ≤ pondSize u ∧
    s.m.anyMarked (pondKey u a) 32 = false ∧ fmtData u (wfld w 0 25 22) = true ∧ reduceCode u topk w ≠ 0) ∧
   (let s : State := st (poke (poke (poke vcell 0x1000 (0x2000 + 1 * 2^22) 8) 0x1008 (4) 8) 0x1010 (0x3000) 8)
    let u : UnitId := 0
    let c : CtxId := 0
    let ga : RegNo := 1
    let x := s.m.unit u
    let a := (s.m.g u c ga).toNat
    let w := wordsOf 4 (s.m.rdBytes 32 (pondKey u a))
    let topk : Bool := false
    vecReady s.m u c = true ∧ (s.m.unit u).held = [] ∧
    (x.reduce.all (fun r => !(decide (r.ctx = c.val) && r.linked)) = true) ∧ a % 32 = 0 ∧ a + 32 ≤ pondSize u ∧
    s.m.anyMarked (pondKey u a) 32 = false ∧ fmtData u (wfld w 0 25 22) = true ∧ reduceCode u topk w = 0) ∧
   (let s : State := st (poke (poke (poke vcell 0x1000 (0x2000 + 1 * 2^22) 8) 0x1008 (4) 8) 0x1010 (0x3000) 8)
    let u : UnitId := 0
    let c : CtxId := 0
    let ga : RegNo := 1
    let x := s.m.unit u
    let a := (s.m.g u c ga).toNat
    let w := wordsOf 4 (s.m.rdBytes 32 (pondKey u a))
    let topk : Bool := true
    vecReady s.m u c = true ∧ (s.m.unit u).held = [] ∧
    (x.reduce.all (fun r => !(decide (r.ctx = c.val) && r.linked)) = true) ∧ a % 32 = 0 ∧ a + 32 ≤ pondSize u ∧
    s.m.anyMarked (pondKey u a) 32 = false ∧ fmtData u (wfld w 0 25 22) = true ∧ reduceCode u topk w = 0) ∧
   (let s : State := st (vcell.setUnit 0 { vcell.unit 0 with reduce := [(⟨0, 31, true, true, some ⟨0x3000, [1, 2, 3, 4], false, 0x22⟩⟩ : VReduce)] })
    let u : UnitId := 0
    let c : CtxId := 0
    let x := s.m.unit u
    let r := (⟨0, 31, true, true, some ⟨0x3000, [1, 2, 3, 4], false, 0x22⟩⟩ : VReduce)
    vecReady s.m u c = true ∧ (s.m.unit u).held = [] ∧
    (x.reduce.find? (fun r => decide (r.ctx = c.val) && r.linked) = some r) ∧ r.done = true) ∧
   (let s : State := st (vcell.setUnit 0 { vcell.unit 0 with reduce := [(⟨0, 31, true, false, some ⟨0x3000, [1, 2, 3, 4], false, 0x22⟩⟩ : VReduce)] })
    let u : UnitId := 0
    let c : CtxId := 0
    let x := s.m.unit u
    let r := (⟨0, 31, true, false, some ⟨0x3000, [1, 2, 3, 4], false, 0x22⟩⟩ : VReduce)
    vecReady s.m u c = true ∧ (s.m.unit u).held = [] ∧
    (x.reduce.find? (fun r => decide (r.ctx = c.val) && r.linked) = some r) ∧ r.done = false) ∧
   (let s : State := st ((vcell.setUnit 0 { vcell.unit 0 with reduce := [(⟨15, 31, true, false, some ⟨0x3000, [1, 2, 3, 4], false, 0x22⟩⟩ : VReduce), (⟨2, 31, true, true, some ⟨0x3000, [1, 2, 3, 4], false, 0x22⟩⟩ : VReduce)], vPend := true }).setCtx 0 15 ({ vecCtx with state := .waiting, wait := .reduce }))
    let u : UnitId := 0
    let d : CtxId := 15
    let r : VReduce := (⟨15, 31, true, false, some ⟨0x3000, [1, 2, 3, 4], false, 0x22⟩⟩ : VReduce)
    let before : List VReduce := []
    let after : List VReduce := [(⟨2, 31, true, true, some ⟨0x3000, [1, 2, 3, 4], false, 0x22⟩⟩ : VReduce)]
    let x := s.m.unit u
    let waits := (s.m.ctx u d).state = .waiting ∧ (s.m.ctx u d).wait = .reduce
    x.reduce = before ++ r :: after ∧ r.ctx = d.val ∧ r.done = false ∧ ((∀ e ∈ before, e.ctx = d.val → e.done = true)) ∧
    r.linked = true ∧ waits) ∧
   (let s : State := st ((vcell.setUnit 0 { vcell.unit 0 with reduce := [(⟨15, 31, true, false, some ⟨0x3000, [1, 2, 3, 4], false, 0x22⟩⟩ : VReduce), (⟨1, 31, true, false, some ⟨0x3000, [1, 2, 3, 4], false, 0x22⟩⟩ : VReduce)], vPend := false }).setCtx 0 15 (vecCtx))
    let u : UnitId := 0
    let d : CtxId := 15
    let r : VReduce := (⟨15, 31, true, false, some ⟨0x3000, [1, 2, 3, 4], false, 0x22⟩⟩ : VReduce)
    let before : List VReduce := []
    let after : List VReduce := [(⟨1, 31, true, false, some ⟨0x3000, [1, 2, 3, 4], false, 0x22⟩⟩ : VReduce)]
    let x := s.m.unit u
    let waits := (s.m.ctx u d).state = .waiting ∧ (s.m.ctx u d).wait = .reduce
    x.reduce = before ++ r :: after ∧ r.ctx = d.val ∧ r.done = false ∧ ((∀ e ∈ before, e.ctx = d.val → e.done = true)) ∧
    r.linked = true ∧ ¬ waits) ∧
   (let s : State := st ((vcell.setUnit 0 { vcell.unit 0 with reduce := [(⟨15, 31, false, false, some ⟨0x3000, [1, 2, 3, 4], false, 0x22⟩⟩ : VReduce), (⟨15, 31, true, false, some ⟨0x3000, [1, 2, 3, 4], false, 0x22⟩⟩ : VReduce), (⟨2, 31, true, true, some ⟨0x3000, [1, 2, 3, 4], false, 0x22⟩⟩ : VReduce)], vPend := false }).setCtx 0 15 ({ vecCtx with state := .waiting, wait := .reduce }))
    let u : UnitId := 0
    let d : CtxId := 15
    let r : VReduce := (⟨15, 31, false, false, some ⟨0x3000, [1, 2, 3, 4], false, 0x22⟩⟩ : VReduce)
    let before : List VReduce := []
    let after : List VReduce := [(⟨15, 31, true, false, some ⟨0x3000, [1, 2, 3, 4], false, 0x22⟩⟩ : VReduce), (⟨2, 31, true, true, some ⟨0x3000, [1, 2, 3, 4], false, 0x22⟩⟩ : VReduce)]
    let x := s.m.unit u
    x.reduce = before ++ r :: after ∧ r.ctx = d.val ∧ r.done = false ∧ ((∀ e ∈ before, e.ctx = d.val → e.done = true)) ∧
    r.linked = false) ∧
   (let s : State := st (vcell.setG 0 0 1 0x400000)
    let u : UnitId := 0
    let c : CtxId := 0
    let ga : RegNo := 1
    let x := s.m.unit u
    let a := (s.m.g u c ga).toNat
    vecReady s.m u c = true ∧ (s.m.unit u).held = [] ∧
    (x.reduce.all (fun r => !(decide (r.ctx = c.val) && r.linked)) = true) ∧ (a % 32 ≠ 0 ∨ pondSize u < a + 32) ∧
    s.m.rowHeld (pondKey u a) 32 = false) ∧
   (let s : State := st (vcell.setG 0 0 1 0x1010)
    let u : UnitId := 0
    let c : CtxId := 0
    let ga : RegNo := 1
    let x := s.m.unit u
    let a := (s.m.g u c ga).toNat
    vecReady s.m u c = true ∧ (s.m.unit u).held = [] ∧
    (x.reduce.all (fun r => !(decide (r.ctx = c.val) && r.linked)) = true) ∧ (a % 32 ≠ 0 ∨ pondSize u < a + 32) ∧
    s.m.rowHeld (pondKey u a) 32 = false) ∧
   (let s : State := st (vcell.setG 0 0 1 0x400000)
    let u : UnitId := 0
    let c : CtxId := 0
    let ga : RegNo := 1
    let x := s.m.unit u
    let a := (s.m.g u c ga).toNat
    vecReady s.m u c = true ∧ (s.m.unit u).held = [] ∧
    (x.reduce.all (fun r => !(decide (r.ctx = c.val) && r.linked)) = true) ∧ (a % 32 ≠ 0 ∨ pondSize u < a + 32) ∧
    s.m.rowHeld (pondKey u a) 32 = false) :=
  by refine ⟨?_, ?_, ?_, ?_, ?_, ?_, ?_, ?_, ?_, ?_, ?_, ?_, ?_, ?_⟩ <;> decide +kernel

theorem meets_MatrixInstructions :
   (let s : State := st ((mcell mxDesc).setG 0 0 1 0x1001)
    let u : UnitId := 0
    let c : CtxId := 0
    let ga : RegNo := 1
    let imm : BitVec 13 := 0
    let a := (s.m.g u c ga + BitVec.ofNat 64 (64 * imm.toNat)).toNat
    let i := (s.m.ctx u c).mx
    ready s.m u c = true ∧ (s.m.unit u).held = [] ∧ u.val < 180 ∧ (a % 64 ≠ 0 ∨ pondSize u < a + 64) ∧ i.out = 0) ∧
   (let s : State := st (scell busyCtx)
    let u : UnitId := 199
    let c : CtxId := 15
    ready s.m u c = true ∧ (s.m.unit u).held = [] ∧ 180 ≤ u.val) ∧
   (let s : State := st (cell { descCtx with mx := { Issued.empty with out := 1 } })
    let u : UnitId := 0
    let c : CtxId := 0
    let ga : RegNo := 1
    let imm : BitVec 13 := 0
    let a := (s.m.g u c ga + BitVec.ofNat 64 (64 * imm.toNat)).toNat
    let w := wordsOf 8 (s.m.rdBytes 64 (pondKey u a))
    let x := s.m.mxOf u
    let slot := s.m.mxSlot u c
    let code := mxCode w (s.m.mxHolding u c) (s.m.mxScales w).1 (s.m.mxScales w).2 slot.2
    let legal := !(fmtReserved (mxAFmt w) || fmtReserved (mxBFmt w) || fmtReserved (mxOFmt w)) && s.m.mxScalesOk w
    let i := (s.m.ctx u c).mx
    ready s.m u c = true ∧ (s.m.unit u).held = [] ∧ u.val < 180 ∧ a % 64 = 0 ∧ a + 64 ≤ pondSize u ∧
    s.m.anyMarked (pondKey u a) 64 = false ∧ x.queue.length < 8 ∧ legal = true ∧ code ≠ 0 ∧ i.out ≠ 0) ∧
   (let s : State := st ((mcell mxDesc).wrBytes (pondKey 0 0x103F) [0] true)
    let u : UnitId := 0
    let c : CtxId := 0
    let ga : RegNo := 1
    let imm : BitVec 13 := 0
    let a := (s.m.g u c ga + BitVec.ofNat 64 (64 * imm.toNat)).toNat
    ready s.m u c = true ∧ (s.m.unit u).held = [] ∧ u.val < 180 ∧ a % 64 = 0 ∧ a + 64 ≤ pondSize u ∧
    s.m.anyMarked (pondKey u a) 64 = true) ∧
   (let s : State := st (let m := mcell mxDesc; m.setMx 0 { m.mxOf 0 with queue := List.replicate 8 (mxItem mxDesc) })
    let u : UnitId := 0
    let c : CtxId := 0
    let ga : RegNo := 1
    let imm : BitVec 13 := 0
    let a := (s.m.g u c ga + BitVec.ofNat 64 (64 * imm.toNat)).toNat
    let x := s.m.mxOf u
    ready s.m u c = true ∧ (s.m.unit u).held = [] ∧ u.val < 180 ∧ a % 64 = 0 ∧ a + 64 ≤ pondSize u ∧
    s.m.anyMarked (pondKey u a) 64 = false ∧ 8 ≤ x.queue.length) ∧
   (let s : State := st (mcell mxDesc)
    let u : UnitId := 0
    let c : CtxId := 0
    let ga : RegNo := 1
    let imm : BitVec 13 := 0
    let a := (s.m.g u c ga + BitVec.ofNat 64 (64 * imm.toNat)).toNat
    let w := wordsOf 8 (s.m.rdBytes 64 (pondKey u a))
    let x := s.m.mxOf u
    let slot := s.m.mxSlot u c
    let code := mxCode w (s.m.mxHolding u c) (s.m.mxScales w).1 (s.m.mxScales w).2 slot.2
    let legal := !(fmtReserved (mxAFmt w) || fmtReserved (mxBFmt w) || fmtReserved (mxOFmt w)) && s.m.mxScalesOk w
    ready s.m u c = true ∧ (s.m.unit u).held = [] ∧ u.val < 180 ∧ a % 64 = 0 ∧ a + 64 ≤ pondSize u ∧
    s.m.anyMarked (pondKey u a) 64 = false ∧ x.queue.length < 8 ∧ legal = true ∧ code = 0) ∧
   (let s : State := st ((mcell mxDesc).setG 0 0 1 0x3FFFC0)
    let u : UnitId := 0
    let c : CtxId := 0
    let ga : RegNo := 1
    let imm : BitVec 13 := 1
    let a := (s.m.g u c ga + BitVec.ofNat 64 (64 * imm.toNat)).toNat
    ready s.m u c = true ∧ (s.m.unit u).held = [] ∧ u.val < 180 ∧ (a % 64 ≠ 0 ∨ pondSize u < a + 64)) ∧
   (let s : State := st ((mcell mxDesc).setG 0 0 1 0x3FFFC0)
    let u : UnitId := 0
    let c : CtxId := 0
    let ga : RegNo := 1
    let imm : BitVec 13 := 0
    let a := (s.m.g u c ga + BitVec.ofNat 64 (64 * imm.toNat)).toNat
    let w := wordsOf 8 (s.m.rdBytes 64 (pondKey u a))
    let x := s.m.mxOf u
    let slot := s.m.mxSlot u c
    let code := mxCode w (s.m.mxHolding u c) (s.m.mxScales w).1 (s.m.mxScales w).2 slot.2
    let legal := !(fmtReserved (mxAFmt w) || fmtReserved (mxBFmt w) || fmtReserved (mxOFmt w)) && s.m.mxScalesOk w
    ready s.m u c = true ∧ (s.m.unit u).held = [] ∧ u.val < 180 ∧ a % 64 = 0 ∧ a + 64 ≤ pondSize u ∧
    s.m.anyMarked (pondKey u a) 64 = false ∧ x.queue.length < 8 ∧ legal = true ∧ code ≠ 0) :=
  by refine ⟨?_, ?_, ?_, ?_, ?_, ?_, ?_, ?_⟩ <;> decide +kernel

theorem meets_MatrixWaitResult :
   (let s : State := st (cell { descCtx with mx := { out := 0, tag := 0xFFFF, refused := true, poisoned := true, code := 0 } })
    let u : UnitId := 0
    let c : CtxId := 0
    ready s.m u c = true ∧ u.val < 180) :=
  by decide +kernel

theorem meets_MatrixDispatchAndCompletion :
   (let s : State := st (up.setMx 0 { MxSt.reset with queue := [mxItem mxDesc, mxItem mxDesc] })
    let u : UnitId := 0
    let it : MxItem := mxItem mxDesc
    let rest : List MxItem := [mxItem mxDesc]
    let x := s.m.mxOf u
    let w := it.words
    s.m.canonical = true ∧ x.running = none ∧ x.queue = it :: rest ∧ s.m.unitRuns u = true ∧ s.m.mxRecords u w = 0 ∧
    s.m.mxStartHeld u w = false ∧
    ((mxAccIn w = true → ∃ t, x.tile it.ctx = some t ∧ mxMatches w ⟨t.words, t.sA, t.sB⟩ (s.m.mxScales w).1 (s.m.mxScales w).2 = true))) ∧
   (let s : State := st ((cell { descCtx with mx := { out := 1, tag := 0, refused := false, poisoned := false, code := 0 } }).setMx 0 { MxSt.reset with running := some { item := mxItem mxDesc, sA := 0x3F800000, sB := 0x3F800000, sOut := 0x3F800000, lr := none, denorm := true, recs := [] } })
    let u : UnitId := 0
    let it : MxItem := mxItem mxDesc
    let rest : List MxItem := []
    let x := s.m.mxOf u
    let w := it.words
    let run := { item := mxItem mxDesc, sA := 0x3F800000, sB := 0x3F800000, sOut := 0x3F800000, lr := none, denorm := true, recs := [] }
    s.m.canonical = true ∧ x.running = some run ∧ run.item = it ∧ x.queue = rest ∧ it.ctx < 16 ∧
    s.m.mxRowHeld u w = false ∧ (s.m.hdr (unitPage u)).inject &&& 0x30000000 = 0) :=
  by refine ⟨?_, ?_⟩ <;> decide +kernel

theorem meets_SolverInstructions :
   (let s : State := st ((solver (svDesc 0)).setG 199 15 1 0xFFFFC0)
    let u : UnitId := 199
    let c : CtxId := 15
    let ga : RegNo := 1
    let imm : BitVec 13 := 0
    let a := (s.m.g u c ga + BitVec.ofNat 64 (64 * imm.toNat)).toNat
    let i := (s.m.ctx u c).sv
    ready s.m u c = true ∧ (s.m.unit u).held = [] ∧ 180 ≤ u.val ∧ (a % 64 ≠ 0 ∨ pondSize u < a + 128) ∧ i.out = 0) ∧
   (let s : State := st (cell busyCtx)
    let u : UnitId := 0
    let c : CtxId := 0
    ready s.m u c = true ∧ (s.m.unit u).held = [] ∧ u.val < 180) ∧
   (let s : State := st ((solver (svDesc 0)).setCtx 199 15 { descCtx with sv := { Issued.empty with out := 1 } })
    let u : UnitId := 199
    let c : CtxId := 15
    let ga : RegNo := 1
    let imm : BitVec 13 := 0
    let n := u.val - 180
    let a := (s.m.g u c ga + BitVec.ofNat 64 (64 * imm.toNat)).toNat
    let w := wordsOf 16 (s.m.rdBytes 128 (pondKey u a))
    let x := s.m.svOf n
    let i := (s.m.ctx u c).sv
    ready s.m u c = true ∧ (s.m.unit u).held = [] ∧ 180 ≤ u.val ∧ a % 64 = 0 ∧ a + 128 ≤ pondSize u ∧
    s.m.anyMarked (pondKey u a) 128 = false ∧ x.queue.length < 16 ∧ svKind w = 0 ∧ s.m.svEarly w = none ∧
    s.m.svCode n w = 0 ∧ i.out ≠ 0) ∧
   (let s : State := st ((solver (svDesc 0)).setSv 19 { SvSt.reset with queue := List.replicate 16 (svItem (svDesc 0)) })
    let u : UnitId := 199
    let c : CtxId := 15
    let ga : RegNo := 1
    let imm : BitVec 13 := 0
    let n := u.val - 180
    let a := (s.m.g u c ga + BitVec.ofNat 64 (64 * imm.toNat)).toNat
    let x := s.m.svOf n
    ready s.m u c = true ∧ (s.m.unit u).held = [] ∧ 180 ≤ u.val ∧ a % 64 = 0 ∧ a + 128 ≤ pondSize u ∧
    s.m.anyMarked (pondKey u a) 128 = false ∧ 16 ≤ x.queue.length) ∧
   (let s : State := st ((solver bwDesc).setSv 19 { SvSt.reset with slots := [(0, some svRetained)] })
    let u : UnitId := 199
    let c : CtxId := 15
    let ga : RegNo := 1
    let imm : BitVec 13 := 0
    let n := u.val - 180
    let a := (s.m.g u c ga + BitVec.ofNat 64 (64 * imm.toNat)).toNat
    let w := wordsOf 16 (s.m.rdBytes 128 (pondKey u a))
    let x := s.m.svOf n
    ready s.m u c = true ∧ (s.m.unit u).held = [] ∧ 180 ≤ u.val ∧ a % 64 = 0 ∧ a + 128 ≤ pondSize u ∧
    s.m.anyMarked (pondKey u a) 128 = false ∧ x.queue.length < 16 ∧ (svKind w = 1 ∨ svKind w = 2) ∧
    s.m.bwEarly w (s.m.bwHeld n w) = none ∧ s.m.bwCode n w (s.m.bwHeld n w) = 0) ∧
   (let s : State := st (solver [3,0,0,0,0,0,0,0,0,0,0,0,0,0,0,0])
    let u : UnitId := 199
    let c : CtxId := 15
    let ga : RegNo := 1
    let imm : BitVec 13 := 0
    let n := u.val - 180
    let a := (s.m.g u c ga + BitVec.ofNat 64 (64 * imm.toNat)).toNat
    let w := wordsOf 16 (s.m.rdBytes 128 (pondKey u a))
    let x := s.m.svOf n
    let code : Nat := 8
    ready s.m u c = true ∧ (s.m.unit u).held = [] ∧ 180 ≤ u.val ∧ a % 64 = 0 ∧ a + 128 ≤ pondSize u ∧
    s.m.anyMarked (pondKey u a) 128 = false ∧ x.queue.length < 16 ∧
    ((svKind w = 0 ∧ s.m.svEarly w = none ∧ code = s.m.svCode n w) ∨ ((svKind w = 1 ∨ svKind w = 2) ∧ s.m.bwEarly w (s.m.bwHeld n w) = none ∧ code = s.m.bwCode n w (s.m.bwHeld n w)) ∨ (svKind w = 3 ∧ code = if s.m.timeValid then 8 else 7)) ∧
    code ≠ 0) :=
  by refine ⟨?_, ?_, ?_, ?_, ?_, ?_⟩ <;> decide +kernel

theorem meets_SolverDispatchAndExpiry :
   (let s : State := st ((locked.setCtx 199 15 { descCtx with sv := { Issued.empty with out := 1 } }).setSv 19 { SvSt.reset with queue := [svItem (svDesc 0)] })
    let n : SolvId := 19
    let it : SvItem := svItem (svDesc 0)
    let rest : List SvItem := []
    let x := s.m.svOf n
    let w := it.words
    let before : List SvItem := []
    s.m.canonical = true ∧ s.m.svRowHeld n w = false ∧ x.running = none ∧ x.queue = it :: rest ∧
    s.m.unitRuns (180 + n.val) = true ∧ svKind w = 0 ∧ s.m.computeUp = true ∧ x.queue = before ++ it :: rest ∧
    ((∀ e ∈ before, svKind e.words = 0 → s.m.startHolds n e.words = true)) ∧ s.m.startHolds n w = false ∧
    it.ring = none ∧ it.ctx < 16) ∧
   (let s : State := st (((locked.setSv 19 { SvSt.reset with slots := [(0, some svRetained)], queue := [svItem bwDesc] }).wrBytes (pondKey 199 0x8000) ((toBytes 8 (0x77 * 2^32)) ++ toBytes 8 1 ++ toBytes 8 0 ++ toBytes 8 0) false))
    let n : SolvId := 19
    let it : SvItem := svItem bwDesc
    let rest : List SvItem := []
    let x := s.m.svOf n
    let w := it.words
    let f := svRetained
    s.m.canonical = true ∧ s.m.svRowHeld n w = false ∧ x.running = none ∧ x.queue = it :: rest ∧
    s.m.unitRuns (180 + n.val) = true ∧ s.m.svSlot n (bwSlot w) = some f ∧ svKind w = 1 ∧ bwFTag w = f.tag ∧
    s.m.recMatches (180 + n.val) (bwRes w) f = true ∧ (s.m.hdr (solvPage n)).inject &&& 0x30000000 = 0) ∧
   (let s : State := st ((locked.setSv 19 { SvSt.reset with slots := [(0, some svRetained)], queue := [svItem [2 + 2^5, 0, 0x77, 0, 0, 0, 0, 0, 0, 0, 0, 0, 0, 0, 0, 0]] }).setCtx 199 15 { descCtx with sv := { Issued.empty with out := 1 } })
    let n : SolvId := 19
    let it : SvItem := svItem [2 + 2^5, 0, 0x77, 0, 0, 0, 0, 0, 0, 0, 0, 0, 0, 0, 0, 0]
    let rest : List SvItem := []
    let x := s.m.svOf n
    let w := it.words
    let f := svRetained
    s.m.canonical = true ∧ s.m.svRowHeld n w = false ∧ x.running = none ∧ x.queue = it :: rest ∧
    s.m.unitRuns (180 + n.val) = true ∧ s.m.svSlot n (bwSlot w) = some f ∧ svKind w = 2 ∧ it.ring = none ∧ it.ctx < 16) ∧
   (let s : State := st ((locked.setCtx 199 15 { descCtx with sv := { Issued.empty with out := 1 } }).setSv 19 { SvSt.reset with queue := [svItem (svDesc 0)] })
    let n : SolvId := 19
    let it : SvItem := svItem (svDesc 0)
    let rest : List SvItem := []
    let x := s.m.svOf n
    let w := it.words
    s.m.canonical = true ∧ s.m.svRowHeld n w = false ∧ x.running = none ∧ x.queue = it :: rest ∧
    s.m.unitRuns (180 + n.val) = true ∧ svKind w = 0) :=
  by refine ⟨?_, ?_, ?_, ?_⟩ <;> decide +kernel

theorem meets_SolverProgress :
   (let s : State := st ((solver (svDesc 0)).setSv 19 { SvSt.reset with running := some { item := svItem (svDesc 0), tStart := 0, begun := true, probs := [], bwd := [], patch := 0, inject := false } })
    let n : SolvId := 19
    let run : SvRun := { item := svItem (svDesc 0), tStart := 0, begun := true, probs := [], bwd := [], patch := 0, inject := false }
    let fwd := svKind run.item.words = 0
    s.m.canonical = true ∧ (s.m.svOf n).running = some run ∧ s.m.computeUp = true ∧ s.m.queue.combs = [] ∧
    s.m.svRowHeld n run.item.words = false ∧ fwd ∧ (run.probs.all (fun p => p.status.isSome) = true)) ∧
   (let s : State := st svInit
    let n : SolvId := 19
    let run : SvRun := svRunning false
    let fwd := svKind run.item.words = 0
    s.m.canonical = true ∧ (s.m.svOf n).running = some run ∧ s.m.computeUp = true ∧ s.m.queue.combs = [] ∧
    s.m.svRowHeld n run.item.words = false ∧ fwd ∧ run.begun = false) ∧
   (let s : State := st svIter
    let n : SolvId := 19
    let run : SvRun := svRunning true
    let fwd := svKind run.item.words = 0
    s.m.canonical = true ∧ (s.m.svOf n).running = some run ∧ s.m.computeUp = true ∧ s.m.queue.combs = [] ∧
    s.m.svRowHeld n run.item.words = false ∧ fwd ∧ run.begun = true ∧ (run.probs.all (fun p => p.status.isSome) = false)) ∧
   (let s : State := st ((solver (svDesc 0)).setSv 19 { SvSt.reset with slots := [(0, some svRetained)], running := some { item := svItem bwDesc, tStart := 0, begun := true, probs := [], bwd := [], patch := 0, inject := false } })
    let n : SolvId := 19
    let run : SvRun := { item := svItem bwDesc, tStart := 0, begun := true, probs := [], bwd := [], patch := 0, inject := false }
    s.m.canonical = true ∧ (s.m.svOf n).running = some run ∧ s.m.computeUp = true ∧ s.m.queue.combs = [] ∧
    s.m.svRowHeld n run.item.words = false ∧ svKind run.item.words = 1 ∧
    (s.m.svSlot n (bwSlot run.item.words)).isSome = true) :=
  by refine ⟨?_, ?_, ?_, ?_⟩ <;> decide +kernel

theorem meets_DmaInstructions :
   (let s : State := st ((mcell (dmDesc 64)).setDmaQueue 0 (List.replicate 32 (dmItem (dmDesc 64))))
    let u : UnitId := 0
    let c : CtxId := 0
    let ga : RegNo := 1
    let imm : BitVec 13 := 0
    let a := (s.m.g u c ga + BitVec.ofNat 64 (64 * imm.toNat)).toNat
    let q := s.m.dmaQueue u
    let tag := (s.m.g u c ga).toNat
    ready s.m u c = true ∧ (s.m.unit u).held = [] ∧ a % 64 = 0 ∧ a + 64 ≤ pondSize u ∧
    s.m.anyMarked (pondKey u a) 64 = false ∧ 32 ≤ q.length ∧
    (q.any (fun i => decide (i.ctx = c.val ∧ dmTag i.words = tag)) = false)) ∧
   (let s : State := st (mcell (dmDesc 64))
    let u : UnitId := 0
    let c : CtxId := 0
    let ga : RegNo := 1
    let imm : BitVec 13 := 0
    let a := (s.m.g u c ga + BitVec.ofNat 64 (64 * imm.toNat)).toNat
    let w := wordsOf 8 (s.m.rdBytes 64 (pondKey u a))
    let q := s.m.dmaQueue u
    ready s.m u c = true ∧ (s.m.unit u).held = [] ∧ a % 64 = 0 ∧ a + 64 ≤ pondSize u ∧
    s.m.anyMarked (pondKey u a) 64 = false ∧ q.length < 32 ∧ s.m.dmCode u w (s.m.dmaOut u c (dmTag w)) = 0 ∧
    s.m.dmScalesOk w = true) ∧
   (let s : State := st (mcell (dmDesc 0))
    let u : UnitId := 0
    let c : CtxId := 0
    let ga : RegNo := 1
    let imm : BitVec 13 := 0
    let a := (s.m.g u c ga + BitVec.ofNat 64 (64 * imm.toNat)).toNat
    let w := wordsOf 8 (s.m.rdBytes 64 (pondKey u a))
    let q := s.m.dmaQueue u
    ready s.m u c = true ∧ (s.m.unit u).held = [] ∧ a % 64 = 0 ∧ a + 64 ≤ pondSize u ∧
    s.m.anyMarked (pondKey u a) 64 = false ∧ q.length < 32 ∧ s.m.dmCode u w (s.m.dmaOut u c (dmTag w)) ≠ 0) ∧
   (let s : State := st ((cell { descCtx with g := [(1, 9)] }).setDmaQueue 0 [dmItem (dmDesc 64)])
    let u : UnitId := 0
    let c : CtxId := 0
    let ga : RegNo := 1
    let q := s.m.dmaQueue u
    let tag := (s.m.g u c ga).toNat
    ready s.m u c = true ∧ (s.m.unit u).held = [] ∧ (q.any (fun i => decide (i.ctx = c.val ∧ dmTag i.words = tag)) = true)) :=
  by refine ⟨?_, ?_, ?_, ?_⟩ <;> decide +kernel

theorem meets_DmaProgress :
   (let s : State := st (up.setDmaQueue 0 [{ dmItem (dmDesc 64) with started := false }])
    let u : UnitId := 0
    let pos : Nat := 0
    let it : DmaItem := { dmItem (dmDesc 64) with started := false }
    s.m.canonical = true ∧ (s.m.dmaQueue u)[pos]? = some it ∧ s.m.unitRuns u = true ∧ it.started = false ∧
    (((s.m.dmaQueue u).take pos).any (fun e => s.m.dmBlocks u e.words it.words) = false) ∧
    ((s.m.dmLocs u it.words).any (fun l => s.m.locDue l.1 l.2) = false) ∧ s.m.dmInside u it.words = true) ∧
   (let s : State := st (up.setDmaQueue 0 [{ dmItem (dmDesc (2^22)) with started := false }])
    let u : UnitId := 0
    let pos : Nat := 0
    let it : DmaItem := { dmItem (dmDesc (2^22)) with started := false }
    s.m.canonical = true ∧ (s.m.dmaQueue u)[pos]? = some it ∧ s.m.unitRuns u = true ∧ it.started = false ∧
    (((s.m.dmaQueue u).take pos).any (fun e => s.m.dmBlocks u e.words it.words) = false) ∧
    ((s.m.dmLocs u it.words).any (fun l => s.m.locDue l.1 l.2) = false) ∧ s.m.dmInside u it.words = false) ∧
   (let s : State := st { (force (up.setDmaQueue 0 [dmItem (dmDesc 64)]) (unitPage 0) Reg.CELL.PONDCTL_STARVE_THR 4) with ticks := 2 }
    let u : UnitId := 0
    let pos : Nat := 0
    let it : DmaItem := dmItem (dmDesc 64)
    s.m.canonical = true ∧ (s.m.dmaQueue u)[pos]? = some it ∧ it.started = true ∧ it.starved = false ∧
    s.m.dmPond u it.words = true ∧ 2 * it.starveThr < 5 * (s.m.ticks - it.startedAt) ∧ it.starveThr ≠ 0) ∧
   (let s : State := st { (up.setDmaQueue 0 [{ dmItem (dmDesc 64) with starveThr := 0 }]) with ticks := 1 }
    let u : UnitId := 0
    let pos : Nat := 0
    let it : DmaItem := { dmItem (dmDesc 64) with starveThr := 0 }
    s.m.canonical = true ∧ (s.m.dmaQueue u)[pos]? = some it ∧ it.started = true ∧ it.starved = false ∧
    s.m.dmPond u it.words = true ∧ 2 * it.starveThr < 5 * (s.m.ticks - it.startedAt) ∧ it.starveThr = 0) ∧
   (let s : State := st ((up.setDmaQueue 0 [dmItem (dmDesc 64)]).setDmaQueue 199 [dmItem (dmDesc 64)])
    let u : UnitId := 0
    let pos : Nat := 0
    let it : DmaItem := dmItem (dmDesc 64)
    let src := .pond 0 0x2000
    let dst := .pond 0 0x3000
    s.m.canonical = true ∧ (s.m.dmaQueue u)[pos]? = some it ∧ it.started = true ∧ it.buffered = false ∧
    s.m.dmReady u it.words = true ∧ dmPool it.words = false ∧ dmAtomic it.words = false ∧ it.code = 0 ∧
    s.m.spaceLoc u (wordAt it.words 1) = some src ∧ s.m.spaceLoc u (wordAt it.words 2) = some dst) ∧
   (let s : State := st (up.setDmaQueue 0 [{ dmItem ([14 + 2 * 2^4 + 2 * 2^8 + 9 * 2^32, 0x2000, 3 * 2^60 + 19 * 2^48 + 0x40, 1, 0, 0, 0, 0]) with performed := true }])
    let u : UnitId := 0
    let pos : Nat := 0
    let it : DmaItem := { dmItem ([14 + 2 * 2^4 + 2 * 2^8 + 9 * 2^32, 0x2000, 3 * 2^60 + 19 * 2^48 + 0x40, 1, 0, 0, 0, 0]) with performed := true }
    s.m.canonical = true ∧ (s.m.dmaQueue u)[pos]? = some it ∧ it.started = true ∧ it.buffered = false ∧
    it.performed = true ∧ it.code = 0 ∧ dmPool it.words = true ∧ dmAtomic it.words = false) ∧
   (let s : State := st (up.setDmaQueue 0 [{ dmItem (dmSum 0 0) with performed := true }])
    let u : UnitId := 0
    let pos : Nat := 0
    let it : DmaItem := { dmItem (dmSum 0 0) with performed := true }
    let ret := .pond 0 0x5000
    s.m.canonical = true ∧ (s.m.dmaQueue u)[pos]? = some it ∧ it.started = true ∧ it.buffered = false ∧
    it.performed = true ∧ it.code = 0 ∧ dmPool it.words = true ∧ dmAtomic it.words = true ∧
    s.m.spaceLoc u (wordAt it.words 7) = some ret ∧ s.m.dstFree (ret, dmDBytes it.words) = true) :=
  by refine ⟨?_, ?_, ?_, ?_, ?_, ?_, ?_⟩ <;> decide +kernel

theorem meets_PoolSlices :
   (let s : State := st (((force up (poolPage 19) Reg.POOL.SCRATCH_MIB 1).setLive (poolPage 19) Reg.POOL.ORD_NEXT 7 63).setDmaQueue 0 [dmItem (dmSum 1 6)])
    let u : UnitId := 0
    let pos : Nat := 0
    let it : DmaItem := dmItem (dmSum 1 6)
    let dst : Loc := .scratch 19 0x40
    let g' := dmGroup it.words
    let k := locSlice dst
    let d := (dmTicket it.words + 2 ^ 32 - s.m.ordNext k g') % 2 ^ 32
    let sl : SliceId := 19
    let g : BitVec 6 := 63
    let w : RegWrite := own 4294967295
    s.m.canonical = true ∧ (s.m.dmaQueue u)[pos]? = some it ∧ it.started = true ∧ it.performed = false ∧
    it.buffered = false ∧ dmPool it.words = true ∧ s.m.dmReady u it.words = true ∧
    s.m.spaceLoc u (wordAt it.words 2) = some dst ∧ dmOrd it.words = true ∧ 2 ^ 31 ≤ d ∧
    live s.m w (poolPage sl) (0xA00 + 8 * g.toNat) = true) ∧
   (let s : State := st (((force up (poolPage 19) Reg.POOL.SCRATCH_MIB 1).setLive (poolPage 19) Reg.POOL.ORD_NEXT 7 63).setDmaQueue 0 [dmItem (dmSum 1 8)])
    let u : UnitId := 0
    let pos : Nat := 0
    let it : DmaItem := dmItem (dmSum 1 8)
    let dst : Loc := .scratch 19 0x40
    let g' := dmGroup it.words
    let k := locSlice dst
    let d := (dmTicket it.words + 2 ^ 32 - s.m.ordNext k g') % 2 ^ 32
    s.m.canonical = true ∧ (s.m.dmaQueue u)[pos]? = some it ∧ it.started = true ∧ it.performed = false ∧
    it.buffered = false ∧ dmPool it.words = true ∧ s.m.dmReady u it.words = true ∧
    s.m.spaceLoc u (wordAt it.words 2) = some dst ∧ dmOrd it.words = true ∧ 0 < d ∧ d < 2 ^ 31 ∧
    (s.m.orderBuf k).length < 64) ∧
   (let s : State := st (((force up (poolPage 19) Reg.POOL.SCRATCH_MIB 1).setLive (poolPage 19) Reg.POOL.ORD_NEXT 0 63).setDmaQueue 0 [dmItem (dmSum 0 0)])
    let u : UnitId := 0
    let pos : Nat := 0
    let it : DmaItem := dmItem (dmSum 0 0)
    let dst : Loc := .scratch 19 0x40
    s.m.canonical = true ∧ (s.m.dmaQueue u)[pos]? = some it ∧ it.started = true ∧ it.performed = false ∧
    it.buffered = false ∧ dmPool it.words = true ∧ s.m.dmReady u it.words = true ∧
    s.m.spaceLoc u (wordAt it.words 2) = some dst ∧ dmOrd it.words = false) ∧
   (let s : State := st (((force up (poolPage 19) Reg.POOL.SCRATCH_MIB 1).setLive (poolPage 19) Reg.POOL.ORD_NEXT 7 63).setDmaQueue 0 [dmItem (dmSum 1 7)])
    let u : UnitId := 0
    let pos : Nat := 0
    let it : DmaItem := dmItem (dmSum 1 7)
    let dst : Loc := .scratch 19 0x40
    let g' := dmGroup it.words
    let k := locSlice dst
    let d := (dmTicket it.words + 2 ^ 32 - s.m.ordNext k g') % 2 ^ 32
    s.m.canonical = true ∧ (s.m.dmaQueue u)[pos]? = some it ∧ it.started = true ∧ it.performed = false ∧
    it.buffered = false ∧ dmPool it.words = true ∧ s.m.dmReady u it.words = true ∧
    s.m.spaceLoc u (wordAt it.words 2) = some dst ∧ dmOrd it.words = true ∧ d = 0 ∧ s.m.orderBuf k = []) ∧
   (let s : State := st (((((force up (poolPage 19) Reg.POOL.SCRATCH_MIB 1).setLive (poolPage 19) Reg.POOL.ORD_NEXT 7 63).setDmaQueue 0 [dmItem (dmSum 1 7), { dmItem (dmSum 1 8) with id := 6, buffered := true }]).setOrderBuf 19 [⟨0, 6, 63, 8⟩]))
    let u : UnitId := 0
    let pos : Nat := 0
    let it : DmaItem := dmItem (dmSum 1 7)
    let dst : Loc := .scratch 19 0x40
    let g' := dmGroup it.words
    let k := locSlice dst
    let d := (dmTicket it.words + 2 ^ 32 - s.m.ordNext k g') % 2 ^ 32
    let m1 := s.m.poolApply u it
    let m2 := m1.setOrdNext k g' ((m1.ordNext k g' + 1) % 2 ^ 32)
    let e : OrdEnt := ⟨0, 6, 63, 8⟩
    let it2 : DmaItem := { dmItem (dmSum 1 8) with id := 6, buffered := true }
    s.m.canonical = true ∧ (s.m.dmaQueue u)[pos]? = some it ∧ it.started = true ∧ it.performed = false ∧
    it.buffered = false ∧ dmPool it.words = true ∧ s.m.dmReady u it.words = true ∧
    s.m.spaceLoc u (wordAt it.words 2) = some dst ∧ dmOrd it.words = true ∧ d = 0 ∧ k < 20 ∧ s.m.orderBuf k = [e] ∧
    e.group = g' ∧ e.ticket = (dmTicket it.words + 1) % 2 ^ 32 ∧
    ((s.m.dmaQueue e.unit).find? (fun i => decide (i.id = e.id)) = some it2) ∧ e.id ≠ it.id ∧
    m2.dmReady e.unit it2.words = true) ∧
   (let s : State := st { (((((force up (poolPage 19) Reg.POOL.SCRATCH_MIB 1).setLive (poolPage 19) Reg.POOL.SCRATCH_MIB 24).setHdr (poolPage 19) { (Header.reset false) with pending := true }).wrBytes (scratchKey 19 0xFFFFF) [5, 6] false)) with chan := { MemSt.reset with scratchDue := [(19, true)] } }
    let sl : SliceId := 19
    s.m.canonical = true ∧ s.m.sliceDue sl = true ∧ s.m.chan.held = [] ∧ (s.m.hdr (poolPage sl)).pending = true ∧
    s.m.sliceBusy sl = false) ∧
   (let s : State := st (((force up (poolPage 19) Reg.POOL.SCRATCH_MIB 1).setLive (poolPage 19) Reg.POOL.ORD_NEXT 0 63).setDmaQueue 0 [dmItem (dmSum 1 2147483648)])
    let u : UnitId := 0
    let pos : Nat := 0
    let it : DmaItem := dmItem (dmSum 1 2147483648)
    let dst : Loc := .scratch 19 0x40
    let g' := dmGroup it.words
    let k := locSlice dst
    let d := (dmTicket it.words + 2 ^ 32 - s.m.ordNext k g') % 2 ^ 32
    s.m.canonical = true ∧ (s.m.dmaQueue u)[pos]? = some it ∧ it.started = true ∧ it.performed = false ∧
    it.buffered = false ∧ dmPool it.words = true ∧ s.m.dmReady u it.words = true ∧
    s.m.spaceLoc u (wordAt it.words 2) = some dst ∧ dmOrd it.words = true ∧ 2 ^ 31 ≤ d) ∧
   (let s : State := st (((force up (poolPage 19) Reg.POOL.SCRATCH_MIB 1).setLive (poolPage 19) Reg.POOL.ORD_NEXT 0 63).setDmaQueue 0 [dmItem (dmSum 1 2147483647)])
    let u : UnitId := 0
    let pos : Nat := 0
    let it : DmaItem := dmItem (dmSum 1 2147483647)
    let dst : Loc := .scratch 19 0x40
    let g' := dmGroup it.words
    let k := locSlice dst
    let d := (dmTicket it.words + 2 ^ 32 - s.m.ordNext k g') % 2 ^ 32
    s.m.canonical = true ∧ (s.m.dmaQueue u)[pos]? = some it ∧ it.started = true ∧ it.performed = false ∧
    it.buffered = false ∧ dmPool it.words = true ∧ s.m.dmReady u it.words = true ∧
    s.m.spaceLoc u (wordAt it.words 2) = some dst ∧ dmOrd it.words = true ∧ 0 < d ∧ d < 2 ^ 31 ∧
    (s.m.orderBuf k).length < 64) :=
  by refine ⟨?_, ?_, ?_, ?_, ?_, ?_, ?_, ?_⟩ <;> decide +kernel

theorem meets_Fences :
   (let s : State := st ((cell busyCtx).setDmaQueue 0 [dmItem (dmDesc 64)])
    let u : UnitId := 0
    let c : CtxId := 0
    let stores := (s.m.unit u).held.all (fun h => decide (h.ctx ≠ c.val))
    let moved := fun (k : Scope) => (s.m.dmaQueue u).all (fun i => decide (i.ctx ≠ c.val) || !s.m.fenceCovers u k i.words)
    let ok : Bool := (stores && moved .cell)
    ready s.m u c = true ∧ ok = false) ∧
   (let s : State := st ((cell busyCtx).setDmaQueue 0 [dmItem (dmDesc 64)])
    let u : UnitId := 0
    let c : CtxId := 0
    let stores := (s.m.unit u).held.all (fun h => decide (h.ctx ≠ c.val))
    let moved := fun (k : Scope) => (s.m.dmaQueue u).all (fun i => decide (i.ctx ≠ c.val) || !s.m.fenceCovers u k i.words)
    let ok : Bool := (stores && moved .comb)
    ready s.m u c = true ∧ ok = false) ∧
   (let s : State := st ((cell busyCtx).setDmaQueue 0 [dmItem (dmDesc 64)])
    let u : UnitId := 0
    let c : CtxId := 0
    let stores := (s.m.unit u).held.all (fun h => decide (h.ctx ≠ c.val))
    let moved := fun (k : Scope) => (s.m.dmaQueue u).all (fun i => decide (i.ctx ≠ c.val) || !s.m.fenceCovers u k i.words)
    let ok : Bool := (stores && moved .die)
    ready s.m u c = true ∧ ok = false) ∧
   (let s : State := st ((cell busyCtx).setDmaQueue 0 [dmItem (dmDesc 64)])
    let u : UnitId := 0
    let c : CtxId := 0
    let stores := (s.m.unit u).held.all (fun h => decide (h.ctx ≠ c.val))
    let moved := fun (k : Scope) => (s.m.dmaQueue u).all (fun i => decide (i.ctx ≠ c.val) || !s.m.fenceCovers u k i.words)
    let ok : Bool := (stores && moved .group && decide ((s.m.ctx u c).co.out = 0))
    ready s.m u c = true ∧ ok = false) ∧
   (let s : State := st (cell busyCtx)
    let u : UnitId := 0
    let c : CtxId := 0
    let stores := (s.m.unit u).held.all (fun h => decide (h.ctx ≠ c.val))
    let moved := fun (k : Scope) => (s.m.dmaQueue u).all (fun i => decide (i.ctx ≠ c.val) || !s.m.fenceCovers u k i.words)
    let ok : Bool := (stores && moved .cell)
    ready s.m u c = true ∧ ok = true) ∧
   (let s : State := st (cell busyCtx)
    let u : UnitId := 0
    let c : CtxId := 0
    let stores := (s.m.unit u).held.all (fun h => decide (h.ctx ≠ c.val))
    let moved := fun (k : Scope) => (s.m.dmaQueue u).all (fun i => decide (i.ctx ≠ c.val) || !s.m.fenceCovers u k i.words)
    let ok : Bool := (stores && moved .comb)
    ready s.m u c = true ∧ ok = true) ∧
   (let s : State := st (cell busyCtx)
    let u : UnitId := 0
    let c : CtxId := 0
    let stores := (s.m.unit u).held.all (fun h => decide (h.ctx ≠ c.val))
    let moved := fun (k : Scope) => (s.m.dmaQueue u).all (fun i => decide (i.ctx ≠ c.val) || !s.m.fenceCovers u k i.words)
    let ok : Bool := (stores && moved .die)
    ready s.m u c = true ∧ ok = true) ∧
   (let s : State := st (cell busyCtx)
    let u : UnitId := 0
    let c : CtxId := 0
    let stores := (s.m.unit u).held.all (fun h => decide (h.ctx ≠ c.val))
    let moved := fun (k : Scope) => (s.m.dmaQueue u).all (fun i => decide (i.ctx ≠ c.val) || !s.m.fenceCovers u k i.words)
    let ok : Bool := (stores && moved .group && decide ((s.m.ctx u c).co.out = 0))
    ready s.m u c = true ∧ ok = true) :=
  by refine ⟨?_, ?_, ?_, ?_, ?_, ?_, ?_, ?_⟩ <;> decide +kernel

theorem meets_MemoryBlocks :
   (let s : State := st (let m := force mapped (targetPage 255) Reg.LAKE.LAKECTL_SCRUB 1; { m with chan := { m.chan with scrub := [((targetPage 255).num, 32 * 0x2400000 - 1)] } })
    let b : MemBlock := ⟨255, 0x23FFFFF⟩
    let e : EccReport := ⟨0, [], true⟩
    let p := targetPage b.target
    let next := (patrolPlace b + 1) % (targetsOf b.target * blocksOf b.target)
    s.m.canonical = true ∧ memBlockOk b = true ∧ s.m.memoryUp = true ∧ bit (s.m.hdr p).inject 16 = false ∧
    bit (s.m.hdr p).inject 17 = false ∧ s.m.copyReads b = false ∧ e.symbols = 0 ∧ s.m.act p Reg.LAKE.LAKECTL_SCRUB = 1 ∧
    patrolPlace b = s.m.scrubPos p ∧ next = 0) ∧
   (let s : State := st (force mapped (targetPage 256) Reg.LAKE.LAKECTL_SCRUB 1)
    let b : MemBlock := ⟨256, 0⟩
    let e : EccReport := ⟨1, [], true⟩
    let p := targetPage b.target
    let fix := if b.target < 256 then 2 else 1
    s.m.canonical = true ∧ memBlockOk b = true ∧ s.m.memoryUp = true ∧ bit (s.m.hdr p).inject 16 = false ∧
    bit (s.m.hdr p).inject 17 = false ∧ s.m.copyReads b = false ∧ 0 < e.symbols ∧ e.symbols ≤ fix ∧
    s.m.act p Reg.LAKE.LAKECTL_SCRUB = 1 ∧ patrolPlace b = s.m.scrubPos p) ∧
   (let s : State := st mapped
    let b : MemBlock := ⟨0, 0⟩
    let e : EccReport := ⟨0, [], true⟩
    let p := targetPage b.target
    let next := (patrolPlace b + 1) % (targetsOf b.target * blocksOf b.target)
    s.m.canonical = true ∧ memBlockOk b = true ∧ s.m.memoryUp = true ∧ bit (s.m.hdr p).inject 16 = false ∧
    bit (s.m.hdr p).inject 17 = false ∧ s.m.act p Reg.LAKE.LAKECTL_SCRUB = 1 ∧ patrolPlace b = s.m.scrubPos p ∧
    e.symbols = 0 ∧ next ≠ 0) ∧
   (let s : State := st mapped
    let b : MemBlock := ⟨0, 0⟩
    let e : EccReport := ⟨4, [], true⟩
    let p := targetPage b.target
    let fix := if b.target < 256 then 2 else 1
    s.m.canonical = true ∧ memBlockOk b = true ∧ s.m.memoryUp = true ∧ bit (s.m.hdr p).inject 16 = false ∧
    bit (s.m.hdr p).inject 17 = false ∧ s.m.copyReads b = false ∧ fix < e.symbols ∧ e.symbols ≤ 2 * fix) ∧
   (let s : State := st (mapped.setReg (targetPage 255) 0x900 (BitVec.ofNat 64 (2^62)))
    let b : MemBlock := ⟨255, 1023⟩
    let e : EccReport := ⟨0, [], true⟩
    let p := targetPage b.target
    s.m.canonical = true ∧ memBlockOk b = true ∧ s.m.memoryUp = true ∧ bit (s.m.hdr p).inject 16 = false ∧
    bit (s.m.hdr p).inject 17 = false ∧ s.m.copyReads b = true ∧ b.block % 1024 = 1023 ∧ e.symbols = 0 ∧
    s.m.chan.held = []) ∧
   (let s : State := st (force mapped (targetPage 31) Reg.LAKE.LAKECTL_SCRUB 1)
    let b : MemBlock := ⟨31, 0x23FFFFF⟩
    let e : EccReport := ⟨0, [], true⟩
    let p := targetPage b.target
    s.m.canonical = true ∧ memBlockOk b = true ∧ s.m.memoryUp = true ∧ bit (s.m.hdr p).inject 16 = false ∧
    bit (s.m.hdr p).inject 17 = false ∧ s.m.copyReads b = false ∧ e.symbols = 0) ∧
   (let s : State := st (let m := force mapped (targetPage 279) Reg.LAKE.LAKECTL_SCRUB 1; { m with chan := { m.chan with scrub := [((targetPage 279).num, 3 * 2 ^ 30 + 2 ^ 30 - 1)] } })
    let b : MemBlock := ⟨279, 2^30 - 1⟩
    let e : EccReport := ⟨0, [], true⟩
    let p := targetPage b.target
    let next := (patrolPlace b + 1) % (targetsOf b.target * blocksOf b.target)
    s.m.canonical = true ∧ memBlockOk b = true ∧ s.m.memoryUp = true ∧ bit (s.m.hdr p).inject 16 = false ∧
    bit (s.m.hdr p).inject 17 = false ∧ s.m.act p Reg.LAKE.LAKECTL_SCRUB = 1 ∧ patrolPlace b = s.m.scrubPos p ∧
    e.symbols = 0 ∧ next = 0) :=
  by refine ⟨?_, ?_, ?_, ?_, ?_, ?_, ?_⟩ <;> decide +kernel

theorem meets_MemoryMaintenance :
   (let s : State := st (mapped.setChan 279 { ChanSt.reset with retrain := true })
    let target : Nat := 279
    s.m.canonical = true ∧ target < 280 ∧ (s.m.chanOf target).retrain = true ∧ s.m.memoryUp = true ∧ s.m.chan.held = [] ∧
    s.m.ras.errors = []) ∧
   (let s : State := st ((mapped.setReg (targetPage 255) 0x900 (BitVec.ofNat 64 (2^62))))
    let target : Nat := 255
    s.m.canonical = true ∧ target < 256 ∧ s.m.chState target = 1 ∧ s.m.chan.held = []) ∧
   (let s : State := st { ((mapped.setHdr regionPage { (Header.reset false) with pending := true }).setReg regionPage 0x110 7) with chan := { MemSt.reset with remap := true } }
    s.m.canonical = true ∧ s.m.chan.remap = true ∧ (s.m.hdr regionPage).pending = true ∧ s.m.chan.held = [] ∧
    s.m.remapBusy = false) ∧
   (let s : State := st { up with ras := { up.ras with errors := [⟨.pond 0 0x20, true⟩], repairs := [pondKey 0 0] } }
    let key : BitVec 48 := BitVec.ofNat 48 (pondKey 0 0)
    let u : UnitId := 0
    let o : Nat := 0x20
    s.m.canonical = true ∧ s.m.ras.errors = [⟨.pond u o, true⟩] ∧ key.toNat ≤ pondKey u o ∧ pondKey u o < key.toNat + 64) :=
  by refine ⟨?_, ?_, ?_, ?_⟩ <;> decide +kernel

theorem meets_HostWindow :
   (let s : State := st (mapped)
    let off : Nat := 0xFFFFFFFF8
    let h : HostId := 1
    let len : Nat := 8
    let a := s.m.live (hostPage h) Reg.HOST.BASE * 2 ^ 30 + off
    let free := fun (r : HeldReq) => s.m.memHeld r.range.1 r.range.2 = false ∧ s.m.chan.held.any (HeldReq.meets r) = false
    let data : Bytes := [1,2,3,4,5,6,7,8]
    let ep : Bool := true
    let x : BitVec 48 := 0x40
    let n : Nat := 8
    s.m.runs = true ∧ s.m.live pwrPage Reg.PWR.STATE = 1 ∧ off < 2 ^ 36 ∧ s.m.windowOff = false ∧ off + len ≤ 2 ^ 36 ∧
    free (.read (some h) a len) ∧ off + data.length ≤ 2 ^ 36 ∧ free (.write a data ep) ∧ free (.read none x.toNat n) ∧
    free (.write x.toNat data ep)) ∧
   (let s : State := st ({ mapped with power := { mapped.power with computeReset := true } })
    let off : Nat := 0xFFFFFFFF8
    let len : Nat := 8
    let data : Bytes := [1,2,3,4,5,6,7,8]
    let x : BitVec 48 := 0x40
    let n : Nat := 8
    let r : HeldReq := (.read none x.toNat n)
    let free := fun (r : HeldReq) => s.m.memHeld r.range.1 r.range.2 = false ∧ s.m.chan.held.any (HeldReq.meets r) = false
    s.m.runs = true ∧ s.m.live pwrPage Reg.PWR.STATE = 1 ∧ s.m.windowOff = true ∧ off + len ≤ 2 ^ 36 ∧
    off + data.length ≤ 2 ^ 36 ∧ ¬ free r) ∧
   (let s : State := st ({ mapped with power := { mapped.power with computeReset := true } })
    let data : Bytes := [1,2,3,4,5,6,7,8]
    let ep : Bool := true
    let x : BitVec 48 := 0x40
    let r : HeldReq := (.write x.toNat data ep)
    let free := fun (r : HeldReq) => s.m.memHeld r.range.1 r.range.2 = false ∧ s.m.chan.held.any (HeldReq.meets r) = false
    s.m.runs = true ∧ s.m.live pwrPage Reg.PWR.STATE = 1 ∧ ¬ free r) ∧
   (let s : State := st ({ mapped with chan := { mapped.chan with scratchDue := (upTo 20).map (fun i => (i, true)) } })
    let h : HostId := 1
    let off : Nat := 0xFFFFFFFF8
    let len : Nat := 8
    let a := s.m.live (hostPage h) Reg.HOST.BASE * 2 ^ 30 + off
    let r : HeldReq := (.read (some h) a len)
    let free := fun (r : HeldReq) => s.m.memHeld r.range.1 r.range.2 = false ∧ s.m.chan.held.any (HeldReq.meets r) = false
    s.m.runs = true ∧ s.m.live pwrPage Reg.PWR.STATE = 1 ∧ s.m.windowOff = false ∧ off + len ≤ 2 ^ 36 ∧ ¬ free r) ∧
   (let s : State := st ({ mapped with chan := { mapped.chan with scratchDue := (upTo 20).map (fun i => (i, true)) } })
    let h : HostId := 1
    let off : Nat := 0xFFFFFFFF8
    let data : Bytes := [1,2,3,4,5,6,7,8]
    let ep : Bool := true
    let a := s.m.live (hostPage h) Reg.HOST.BASE * 2 ^ 30 + off
    let r : HeldReq := (.write a data ep)
    let free := fun (r : HeldReq) => s.m.memHeld r.range.1 r.range.2 = false ∧ s.m.chan.held.any (HeldReq.meets r) = false
    s.m.runs = true ∧ s.m.live pwrPage Reg.PWR.STATE = 1 ∧ s.m.windowOff = false ∧ off + data.length ≤ 2 ^ 36 ∧ ¬ free r) :=
  by refine ⟨?_, ?_, ?_, ?_, ?_⟩ <;> decide +kernel

theorem meets_QueueInstructions :
   (let s : State := st (queues 1023 [])
    let u : UnitId := 0
    let c : CtxId := 0
    let ga : RegNo := 1
    let k := (s.m.g u c ga).toNat % 1024
    let e := 2
    let imm : BitVec 13 := 1
    ready s.m u c = true ∧ ((s.m.unit u).held.any (fun h => decide (h.ctx = c.val)) = false) ∧
    s.m.queueEnd u c k .prod = .error e ∧ s.m.queueEnd u c k .cons = .error e ∧ s.m.queueEnd u c k .any = .error e ∧
    imm ≠ 0) ∧
   (let s : State := st (queues 1 [])
    let u : UnitId := 0
    let c : CtxId := 0
    let ga : RegNo := 1
    let k := (s.m.g u c ga).toNat % 1024
    let lq := lq (queues 1 []) 1
    let q := s.m.qst lq.key
    let r := lq.qr
    ready s.m u c = true ∧ ((s.m.unit u).held.any (fun h => decide (h.ctx = c.val)) = false) ∧
    s.m.queueEnd u c k .prod = .ok lq ∧ q.room r = true ∧ r.pdepth = 0 ∧ s.m.queueEnd u c k .cons = .ok lq ∧
    q.delivered ≤ q.popped ∧ s.m.queueEnd u c k .any = .ok lq) ∧
   (let s : State := st (queues 1 [(1, { q0 with pushed := 2, delivered := 2 })])
    let u : UnitId := 0
    let c : CtxId := 0
    let ga : RegNo := 1
    let k := (s.m.g u c ga).toNat % 1024
    let lq := lq (queues 1 [(1, { q0 with pushed := 2, delivered := 2 })]) 1
    let q := s.m.qst lq.key
    let r := lq.qr
    ready s.m u c = true ∧ ((s.m.unit u).held.any (fun h => decide (h.ctx = c.val)) = false) ∧
    s.m.queueEnd u c k .prod = .ok lq ∧ q.room r = false ∧ s.m.queueEnd u c k .cons = .ok lq ∧ q.popped < q.delivered ∧
    r.pdepth = 0) ∧
   (let s : State := st (queues 0 [])
    let u : UnitId := 0
    let c : CtxId := 0
    let ga : RegNo := 1
    let k := (s.m.g u c ga).toNat % 1024
    let lq := lq (queues 0 []) 0
    let q := s.m.qst lq.key
    let r := lq.qr
    ready s.m u c = true ∧ ((s.m.unit u).held.any (fun h => decide (h.ctx = c.val)) = false) ∧
    s.m.queueEnd u c k .prod = .ok lq ∧ q.room r = true ∧ r.pdepth ≠ 0) ∧
   (let s : State := st (queues 2 [(2, { q0 with pushed := 4, delivered := 2 })])
    let u : UnitId := 0
    let c : CtxId := 0
    let ga : RegNo := 1
    let k := (s.m.g u c ga).toNat % 1024
    let lq := lq (queues 2 [(2, { q0 with pushed := 4, delivered := 2 })]) 2
    let q := s.m.qst lq.key
    let r := lq.qr
    ready s.m u c = true ∧ ((s.m.unit u).held.any (fun h => decide (h.ctx = c.val)) = false) ∧
    s.m.queueEnd u c k .cons = .ok lq ∧ q.popped < q.delivered ∧ r.pdepth ≠ 0) :=
  by refine ⟨⟨?_, ?_, ?_, ?_, ?_, ?_⟩, ⟨?_, ?_, ?_, ?_, ?_, ?_, ?_, ?_⟩, ⟨?_, ?_, ?_, ?_, ?_, ?_, ?_⟩, ⟨?_, 
      ?_, ?_, ?_, ?_⟩, ⟨?_, ?_, ?_, ?_, ?_⟩⟩ <;>
    first | decide +kernel | exact okOf _ _ (by decide +kernel) | exact errorOf _ _ (by decide +kernel)

theorem meets_Movers :
   (let s : State := st (let m := queues 0 [(0, { q0 with pushed := 1 })]; { m with queue := { m.queue with pushes := [0] } })
    let q : QueueId := 0
    let lq : LiveQueue := lq (queues 0 []) 0
    s.m.canonical = true ∧ s.m.coresRun = true ∧
    (s.m.liveQueues.find? (fun l => decide (l.key % 1024 = q.val) && s.m.canStart l && s.m.moverTurn l) = some lq)) ∧
   (let s : State := st ((queues 0 [(0, { q0 with pushed := 2, delivered := 1, moving := true })]).wrBytes (pondKey 0 0x2040) [1, 2, 3] false)
    let q : QueueId := 0
    let lq : LiveQueue := lq (queues 0 []) 0
    let u : Nat := 0
    let v : Nat := 1
    let x := s.m.qst lq.key
    let r := lq.qr
    s.m.canonical = true ∧ s.m.computeUp = true ∧
    (s.m.liveQueues.find? (fun l => decide (l.key % 1024 = q.val) && (s.m.qst l.key).moving) = some lq) ∧
    s.m.partUnit lq.prod = some u ∧ s.m.partUnit lq.cons = some v ∧
    s.m.outGuarded v (r.cbase + x.delivered % r.depth * (r.rsize * 64)) (r.rsize * 64) = false ∧
    s.m.locHeld (.pond u (r.pbase + x.taken % r.pdepth * (r.rsize * 64))) (r.rsize * 64) = false ∧
    s.m.locHeld (.pond v (r.cbase + x.delivered % r.depth * (r.rsize * 64))) (r.rsize * 64) = false ∧
    (s.m.hdr (unitPage u)).inject &&& 0x30000000 = 0) :=
  by refine ⟨?_, ?_⟩ <;> decide +kernel

theorem meets_StageMapLoads :
   (let s : State := st (up.setHdr (combPage 19) { (Header.reset false) with pending := true })
    let n : CombId := 19
    let w : RegWrite := own 1
    let p := combPage n
    s.m.canonical = true ∧ live s.m w p 0x908 = true ∧ bit w.bits 0 = true ∧ (s.m.hdr p).pending = true) ∧
   (let s : State := st (up.setLive (combPage 19) Reg.COMB.SMLOAD_STATUS_STATE 1)
    let n : CombId := 19
    let w : RegWrite := own 1
    let p := combPage n
    s.m.canonical = true ∧ live s.m w p 0x908 = true ∧ bit w.bits 0 = true ∧ (s.m.hdr p).pending = false ∧
    s.m.live p Reg.COMB.SMLOAD_STATUS_STATE = 1) ∧
   (let s : State := st up
    let n : CombId := 19
    let w : RegWrite := own 1
    let p := combPage n
    s.m.canonical = true ∧ live s.m w p 0x908 = true ∧ bit w.bits 0 = true ∧ (s.m.hdr p).pending = false ∧
    s.m.live p Reg.COMB.SMLOAD_STATUS_STATE ≠ 1) ∧
   (let s : State := st loadable
    let n : CombId := 0
    let a := 0x3000000000000040
    let l := .scratch 0 0x40
    let x := ((loadable.loadMap (.scratch 0 0x40)).2.1.getD map2)
    s.m.canonical = true ∧ (s.m.combMaps n).loading = some a ∧ s.m.mapLoc a.toNat = some l ∧
    s.m.locHeld l (s.m.loadMap l).2.2 = false ∧ quiet s.m = true ∧ (s.m.loadMap l).2.1 = some x) ∧
   (let s : State := st (up.setCombMaps 0 { CombMaps.empty with loading := some 0x3000000000000040 })
    let n : CombId := 0
    let a := 0x3000000000000040
    let l := .scratch 0 0x40
    s.m.canonical = true ∧ (s.m.combMaps n).loading = some a ∧ s.m.mapLoc a.toNat = some l ∧
    s.m.locHeld l (s.m.loadMap l).2.2 = false ∧ quiet s.m = true ∧ (s.m.loadMap l).2.1 = none) :=
  by refine ⟨?_, ?_, ?_, ?_, ?_⟩ <;> decide +kernel

theorem meets_ScaleWindow :
   (let s : State := st up
    let j : Nat := 0
    let w : RegWrite := own 0x3F800000
    let v := w.val
    let n := (s.m.live scalePage Reg.SCALE.SWIN_BASE * 32 + j) % 65536
    let x := s.m.slot n
    let y := { x with pend := { x.pend with scale := some (fld v 31 0) } }
    owner s.m w scalePage = true ∧ j < 32 ∧ w.lanes = .full ∧ fld v 31 18 ≠ 0 ∧ y.withPending.entryOk = true ∧
    fld v 63 60 = 0 ∧ bit v 58 = false) ∧
   (let s : State := st (up.setLive scalePage Reg.SCALE.SWIN_BASE 2047)
    let j : Nat := 31
    let w : RegWrite := own 4575657221408423953
    let n := (s.m.live scalePage Reg.SCALE.SWIN_BASE * 32 + j) % 65536
    let x := s.m.slot n
    let v := w.val
    let y := { x with pend := { x.pend with
       fmt := some (fld v 3 0), enable := some (bit v 4), exact := some (bit v 5), hm1 := some (fld v 11 6),
       headroom := some (fld v 15 12), gate := some (bit v 16), lrfold := some (bit v 17), lr := some (fld v 63 32) } }
    owner s.m w scalePage = true ∧ j < 32 ∧ w.lanes = .full ∧ fld v 31 18 = 0 ∧ y.withPending.entryOk = true ∧
    fld v 63 60 ≠ 0) ∧
   (let s : State := st (up.setLive scalePage Reg.SCALE.SWIN_BASE 2047)
    let j : Nat := 31
    let w : RegWrite := own 4575657221408423953
    let n := (s.m.live scalePage Reg.SCALE.SWIN_BASE * 32 + j) % 65536
    let x := s.m.slot n
    let v := w.val
    let y := { x with pend := { x.pend with scale := some (fld v 31 0) } }
    owner s.m w scalePage = true ∧ j < 32 ∧ w.lanes = .full ∧ y.withPending.entryOk = false) ∧
   (let s : State := st (up.setLive scalePage Reg.SCALE.SWIN_BASE 2047)
    let j : Nat := 31
    let w : RegWrite := own 288230376151711744
    let n := (s.m.live scalePage Reg.SCALE.SWIN_BASE * 32 + j) % 65536
    let x := s.m.slot n
    let v := w.val
    let y := { x with pend := { x.pend with
       fmt := some (fld v 3 0), enable := some (bit v 4), exact := some (bit v 5), hm1 := some (fld v 11 6),
       headroom := some (fld v 15 12), gate := some (bit v 16), lrfold := some (bit v 17), lr := some (fld v 63 32) } }
    owner s.m w scalePage = true ∧ j < 32 ∧ w.lanes = .full ∧ fld v 31 18 = 0 ∧ y.withPending.entryOk = false ∧
    fld v 63 60 = 0 ∧ bit v 58 = true) :=
  by refine ⟨?_, ?_, ?_, ?_⟩ <;> decide +kernel

theorem meets_UpdateEngines :
   (let s : State := st (let m := ((up.setLive (updPage 19) Reg.UPD.STATE 2).setLive (updPage 19) Reg.UPD.LIST_COUNT 1); { m with train := { m.train with upd := [(19, ⟨[], 0, false⟩)] } })
    let sl : SliceId := 19
    let w : RegWrite := own 1
    let p := updPage sl
    let off : BitVec 12 := 0x910
    let r : UpdRun := ⟨[], 0, false⟩
    s.m.canonical = true ∧ live s.m w p 0x918 = true ∧ bit w.bits 0 = true ∧ s.m.updHeld sl = true ∧
    live s.m w p off.toNat = true ∧ ((off = 0x900 ∨ off = 0x908 ∨ off = 0x910)) ∧ SMap.find? s.m.train.upd sl = some r ∧
    s.m.live p Reg.UPD.STATE = 2 ∧ ((r.late = true → s.m.sliceDue sl = false)) ∧
    s.m.rowHeld (scratchKey sl 0) (s.m.updScratch sl) = false) ∧
   (let s : State := st up
    let sl : SliceId := 19
    let w : RegWrite := own 1
    let p := updPage sl
    let off : BitVec 12 := 0x900
    s.m.canonical = true ∧ live s.m w p 0x918 = true ∧ bit w.bits 0 = true ∧ s.m.updHeld sl = false ∧
    live s.m w p off.toNat = true ∧ ((off = 0x900 ∨ off = 0x908 ∨ off = 0x910))) :=
  by refine ⟨?_, ?_⟩ <;> decide +kernel

theorem meets_CollectiveInstructions :
   (let s : State := st (let m := (grp5 (desc (cell descCtx) (pondKey 0 0x1000) coDesc)); m.setColl 0 { m.collOf 0 with queue := List.replicate 32 (coItem coDesc) })
    let u : UnitId := 0
    let c : CtxId := 0
    let ga : RegNo := 1
    let imm : BitVec 13 := 0
    let f := fieldOf u
    let x := s.m.collOf f
    let a := (s.m.g u c ga + BitVec.ofNat 64 (64 * imm.toNat)).toNat
    let i := (s.m.ctx u c).co
    let tag := fld (s.m.g u c ga) 15 0
    ready s.m u c = true ∧ (s.m.unit u).held = [] ∧ a % 64 = 0 ∧ a + 128 ≤ pondSize u ∧
    s.m.anyMarked (pondKey u a) 128 = false ∧ 32 ≤ x.queue.length ∧ i.out = 0 ∧ s.m.gatherOf u c tag = none) ∧
   (let u : UnitId := 0
    let c : CtxId := 0
    let ga : RegNo := 1
    let imm : BitVec 13 := 0
    let f := fieldOf u
    let s : State := st (cell { descCtx with co := { out := 1, tag := 3, refused := true, poisoned := false, code := 0x15 } })
    let x := s.m.collOf f
    let a := (s.m.g u c ga + BitVec.ofNat 64 (64 * imm.toNat)).toNat
    let w := wordsOf 16 (s.m.rdBytes 128 (pondKey u a))
    let at' := if coListed w && s.m.coListOk (some u) w then s.m.coLoc (some u) (wordAt w 5) else none
    let rd := match at' with | some l => s.m.locRead l (32 * coCount w) | none => ([], s.m)
    let ws := w ++ wordsOf (4 * coCount w) (rd.1.map (·.1))
    let m := rd.2
    let code := m.coCode f (some u) ws
    let i := (s.m.ctx u c).co
    ready s.m u c = true ∧ (s.m.unit u).held = [] ∧ a % 64 = 0 ∧ a + 128 ≤ pondSize u ∧
    s.m.anyMarked (pondKey u a) 128 = false ∧ x.queue.length < 32 ∧ s.m.collEntryHeld (some u) w = false ∧
    quiet s.m = true ∧ code ≠ 0 ∧ i.out ≠ 0) ∧
   (let s : State := st (((cell { busyCtx with g := [(1, 51)] })).setColl 0 { CollSt.reset with running := [gatherRun] })
    let u : UnitId := 0
    let c : CtxId := 0
    let ga : RegNo := 1
    let tag := fld (s.m.g u c ga) 15 0
    let k := fld (s.m.g u c ga) 47 16
    let r := gatherRun
    ready s.m u c = true ∧ s.m.gatherOf u c tag = some r ∧ r.layerDone k = true ∧ k = r.released ∧
    r.released < coCount r.item.words) ∧
   (let s : State := st (((cell { busyCtx with g := [(1, 65587)] })).setColl 0 { CollSt.reset with running := [gatherRun] })
    let u : UnitId := 0
    let c : CtxId := 0
    let ga : RegNo := 1
    let tag := fld (s.m.g u c ga) 15 0
    let k := fld (s.m.g u c ga) 47 16
    let r := gatherRun
    ready s.m u c = true ∧ s.m.gatherOf u c tag = some r ∧ r.layerDone k = false ∧
    (k ≠ r.released ∨ coCount r.item.words ≤ r.released)) ∧
   (let s : State := st (let m := (grp5 (desc (up.defaultRegions.setCtx 0 0 descCtx |>.setUnit 0 { UnitSt.reset with lastSel := some 0 }) (pondKey 0 0x1000) coFar)); { m with chan := { m.chan with scratchDue := (upTo 20).map (fun i => (i, true)) } })
    let u : UnitId := 0
    let c : CtxId := 0
    let ga : RegNo := 1
    let imm : BitVec 13 := 0
    let f := fieldOf u
    let x := s.m.collOf f
    let a := (s.m.g u c ga + BitVec.ofNat 64 (64 * imm.toNat)).toNat
    let w := wordsOf 16 (s.m.rdBytes 128 (pondKey u a))
    ready s.m u c = true ∧ (s.m.unit u).held = [] ∧ a % 64 = 0 ∧ a + 128 ≤ pondSize u ∧
    s.m.anyMarked (pondKey u a) 128 = false ∧ x.queue.length < 32 ∧ s.m.collEntryHeld (some u) w = true) ∧
   (let s : State := st (grp5 (desc (cell descCtx) (pondKey 0 0x1000) coDesc))
    let u : UnitId := 0
    let c : CtxId := 0
    let ga : RegNo := 1
    let imm : BitVec 13 := 0
    let f := fieldOf u
    let x := s.m.collOf f
    let a := (s.m.g u c ga + BitVec.ofNat 64 (64 * imm.toNat)).toNat
    let w := wordsOf 16 (s.m.rdBytes 128 (pondKey u a))
    let at' := if coListed w && s.m.coListOk (some u) w then s.m.coLoc (some u) (wordAt w 5) else none
    let rd := match at' with | some l => s.m.locRead l (32 * coCount w) | none => ([], s.m)
    let ws := w ++ wordsOf (4 * coCount w) (rd.1.map (·.1))
    let m := rd.2
    let code := m.coCode f (some u) ws
    ready s.m u c = true ∧ (s.m.unit u).held = [] ∧ a % 64 = 0 ∧ a + 128 ≤ pondSize u ∧
    s.m.anyMarked (pondKey u a) 128 = false ∧ x.queue.length < 32 ∧ s.m.collEntryHeld (some u) w = false ∧
    rd.1.any (·.2) = false ∧ code = 0) :=
  by refine ⟨?_, ?_, ?_, ?_, ?_, ?_⟩ <;> decide +kernel

theorem meets_CollectiveProgress :
   (let s : State := st (let m := (grp5 (desc (cell descCtx) (pondKey 0 0x1000) coDesc)); m.setColl 0 { m.collOf 0 with queue := [coItem coDesc] })
    let f : FieldId := 0
    let it : CollItem := coItem coDesc
    let rest : List CollItem := []
    let x := s.m.collOf f
    s.m.canonical = true ∧ x.queue = it :: rest ∧ s.m.collReady f (s.m.collRun f it) = true ∧
    s.m.startCode f (s.m.collRun f it) = 0) ∧
   (let s : State := st ((cell { descCtx with co := { Issued.empty with out := 1 } }).setColl 0 { CollSt.reset with running := [coRunning coDesc] })
    let f : FieldId := 0
    let pos : Nat := 0
    let r : CollRun := coRunning coDesc
    let x := s.m.collOf f
    s.m.canonical = true ∧ x.running[pos]? = some r ∧ r.item.ring = none ∧ r.item.unit < 204 ∧ r.item.ctx < 16 ∧
    s.m.collResume f pos = s.m ∧ s.m.collWritable f r = true ∧ s.m.collSettled f r.item.id = true ∧ r.barrier = none ∧
    r.ending = none ∧
    ((r.code = 0x11 ∨ s.m.collPartDone f r = true ∧ coOp r.item.words ≠ 6 ∧ coGate r.item.words = false)) ∧
    ((x.running.find? (fun y => decide (y.item.id = r.item.id)) = some r))) :=
  by refine ⟨?_, ?_⟩ <;> decide +kernel

theorem meets_GroupLoads :
   (let s : State := st up
    let f : FieldId := 3
    let w : RegWrite := own 0x3F01
    let p := collPage f
    s.m.canonical = true ∧ live s.m w p 0x908 = true ∧ bit w.bits 0 = true ∧ s.m.live p Reg.COLL.GLOAD_STATUS_STATE ≠ 1) ∧
   (let s : State := st (mapped.setColl 3 { CollSt.reset with load := some (63, 0x40) })
    let f : FieldId := 3
    let g := 63
    let a := 0x40
    let n := groupBytes (s.m.memPeek a 64)
    let e := 2
    s.m.canonical = true ∧ (s.m.collOf f).load = some (g, a) ∧ quiet s.m = true ∧ s.m.memHeld a n = false ∧
    s.m.readGroup f g a (s.m.memPeek a n) = .error e) ∧
   (let s : State := st ((mapped.setColl 3 { CollSt.reset with load := some (63, 0x0) }).memPoke 0 ((toBytes 8 1) ++ List.replicate 56 0 ++ (toBytes 4 (3 * 65536))) false)
    let f : FieldId := 3
    let g := 63
    let a := 0
    let n := groupBytes (s.m.memPeek a 64)
    let rs := [⟨0, 0, 3⟩]
    s.m.canonical = true ∧ (s.m.collOf f).load = some (g, a) ∧ quiet s.m = true ∧ s.m.memHeld a n = false ∧
    s.m.readGroup f g a (s.m.memPeek a n) = .ok rs) :=
  by refine ⟨?_, ⟨?_, ?_, ?_, ?_, ?_⟩, ⟨?_, ?_, ?_, ?_, ?_⟩⟩ <;>
    first | decide +kernel | exact okOf _ _ (by decide +kernel) | exact errorOf _ _ (by decide +kernel)

theorem meets_Shards :
   (let p : Nat := 3
    let n : Nat := 9000
    let e := 0
    let r := 0
    1 ≤ p ∧ e < n ∧ (shardOf n p r).2 < n ∧ (shardOf n p r).1 < n) ∧
   (let n : Nat := 0
    let p : Nat := 1
    let size := 4096 * ((n + 4096 * p - 1) / (4096 * p))
    let r := 0
    1 ≤ p ∧ n ≤ r * size) :=
  by refine ⟨?_, ?_⟩ <;> decide +kernel

theorem meets_FabricPorts :
   (let s : State := st (grid)
    let rep : TrainReport := ⟨true, 1, 1, 0, 0xFFFFFFFFFFFF, 0xFFFFFFFFFFFF⟩
    let o : PortId := 1
    let x : BitVec 8 := 1
    let y : BitVec 8 := 0
    let p : PortId := 0
    let replays : Nat := 0
    let lane : BitVec 6 := 51
    let m1 := s.m.noteReplays p replays
    s.m.canonical = true ∧ rep.name = o ∧ rep.x = x ∧ rep.y = y ∧ s.m.portUp p = true ∧ m1.replayBurst p = false ∧
    s.m.laneRetired p lane.toNat = false) ∧
   (let s : State := st ((up.setLive (portPage 3) Reg.PORT.STATE 1))
    let p : PortId := 3
    let rep : TrainReport := ⟨true, 2, 0, 0, 0xFFFFFFFFFFFFF, 0x7FFFFF⟩
    let pg := portPage p
    let ok := fun (mask : BitVec 52) => ((upTo 52).filter (fun l => mask.toNat.testBit l && !s.m.laneRetired p l)).length
    let good := min (ok rep.rx) (ok rep.tx)
    s.m.canonical = true ∧ s.m.live pg Reg.PORT.STATE = 1 ∧ rep.peer = true ∧ ((good < 24 ∨ s.m.peerFits p rep = false))) ∧
   (let s : State := st ((up.setLive (portPage 3) Reg.PORT.STATE 1))
    let p : PortId := 3
    let rep : TrainReport := ⟨true, 2, 0, 0, 0x7FFFFFFFFFFF, 0xFFFFFFFFFFFFF⟩
    let pg := portPage p
    let ok := fun (mask : BitVec 52) => ((upTo 52).filter (fun l => mask.toNat.testBit l && !s.m.laneRetired p l)).length
    let good := min (ok rep.rx) (ok rep.tx)
    s.m.canonical = true ∧ s.m.live pg Reg.PORT.STATE = 1 ∧ rep.peer = true ∧ s.m.peerFits p rep = true ∧ 24 ≤ good ∧
    good < 48) ∧
   (let s : State := st ((up.setLive (portPage 3) Reg.PORT.STATE 1))
    let p : PortId := 3
    let rep : TrainReport := ⟨true, 2, 0, 0, 0xFFFFFFFFFFFF, 0xFFFFFFFFFFFF⟩
    let pg := portPage p
    let ok := fun (mask : BitVec 52) => ((upTo 52).filter (fun l => mask.toNat.testBit l && !s.m.laneRetired p l)).length
    let good := min (ok rep.rx) (ok rep.tx)
    s.m.canonical = true ∧ s.m.live pg Reg.PORT.STATE = 1 ∧ rep.peer = true ∧ s.m.peerFits p rep = true ∧ 48 ≤ good) ∧
   (let s : State := st ((grid.queueOut 0 1 (pkt 1 0 1 0) none))
    let p : PortId := 0
    let replays : Nat := 16
    let lane : BitVec 6 := 51
    let m1 := s.m.noteReplays p replays
    s.m.canonical = true ∧ s.m.portUp p = true ∧ ((m1.replayBurst p = true ∨ s.m.laneRetired p lane.toNat = true))) ∧
   (let s : State := st ((force up (portPage 0) Reg.PORT.PORTCTL_ENABLE 1).setLive (portPage 0) Reg.PORT.STATE 0)
    let p : PortId := 0
    let pg := portPage p
    s.m.canonical = true ∧ s.m.live pg Reg.PORT.STATE = 0 ∧ s.m.act pg Reg.PORT.PORTCTL_ENABLE = 1 ∧
    s.m.power.routerReset = false) ∧
   (let s : State := st ((up.setLive (portPage 3) Reg.PORT.STATE 1))
    let p : PortId := 3
    let rep : TrainReport := ⟨false, 2, 0, 0, 0, 0⟩
    let pg := portPage p
    s.m.canonical = true ∧ s.m.live pg Reg.PORT.STATE = 1 ∧ rep.peer = false) ∧
   (let s : State := st ((up.setLive (portPage 3) Reg.PORT.STATE 1))
    let p : PortId := 3
    let rep : TrainReport := ⟨true, 2, 0, 0, 0xFFFFFF, 0xFFFFFFFFFFFFF⟩
    let pg := portPage p
    let ok := fun (mask : BitVec 52) => ((upTo 52).filter (fun l => mask.toNat.testBit l && !s.m.laneRetired p l)).length
    let good := min (ok rep.rx) (ok rep.tx)
    s.m.canonical = true ∧ s.m.live pg Reg.PORT.STATE = 1 ∧ rep.peer = true ∧ s.m.peerFits p rep = true ∧ 24 ≤ good ∧
    good < 48) ∧
   (let s : State := st ((grid.queueOut 0 1 (pkt 1 0 1 0) none))
    let p : PortId := 0
    let replays : Nat := 15
    let lane : BitVec 6 := 51
    let m1 := s.m.noteReplays p replays
    s.m.canonical = true ∧ s.m.portUp p = true ∧ m1.replayBurst p = false ∧ s.m.laneRetired p lane.toNat = false) :=
  by refine ⟨?_, ?_, ?_, ?_, ?_, ?_, ?_, ?_, ?_⟩ <;> decide +kernel

theorem meets_FabricPackets :
   (let s : State := st (grid)
    let pk : Packet := pkt 0 0 0 0
    let q := asFlow pk.unstamped
    let p : PortId := 0
    let vc : BitVec 5 := 1
    s.m.canonical = true ∧ s.m.power.routerReset = false ∧
    (s.m.fab.offers.find? (fun o => decide (o.pk = pk.unstamped)) = none) ∧ s.m.injectCode q = none ∧ pk.tc = 0 ∧
    s.m.shut pk.unstamped = false ∧ s.m.portUp p = true ∧ s.m.hasRoom p vc.toNat pk = true ∧ s.m.tooOld pk = false ∧
    pk.mcast = false ∧ pk.dstX.toNat = s.m.myX ∧ pk.dstY.toNat = s.m.myY ∧ pk.demoted = false) ∧
   (let s : State := st ({ grid with time := { grid.time with ns := 200001 } })
    let pk : Packet := pkt 1 0 1 0
    let q := asFlow pk.unstamped
    let f := s.m.flowTx q.flow
    let p : PortId := 0
    let vc : BitVec 5 := 1
    s.m.canonical = true ∧ s.m.power.routerReset = false ∧
    (s.m.fab.offers.find? (fun o => decide (o.pk = pk.unstamped)) = none) ∧ s.m.injectCode q = none ∧ pk.tc ≠ 0 ∧
    q.flowless = false ∧ f.closed = false ∧ s.m.admits f q = true ∧ s.m.portUp p = true ∧
    s.m.hasRoom p vc.toNat pk = true ∧ s.m.tooOld pk = true) ∧
   (let s : State := st ({ grid with fab := { grid.fab with banks := [(0xA00, 2^63 + 1)] } })
    let pk : Packet := pkt 1 0 1 0
    let q := asFlow pk.unstamped
    s.m.canonical = true ∧ s.m.power.routerReset = false ∧
    (s.m.fab.offers.find? (fun o => decide (o.pk = pk.unstamped)) = none) ∧ s.m.injectCode q = some 0x09) ∧
   (let s : State := st (grid)
    let pk : Packet := { pkt 1 0 1 0 with rsv := true }
    let q := asFlow pk.unstamped
    let c := 0x0E
    s.m.canonical = true ∧ s.m.power.routerReset = false ∧
    (s.m.fab.offers.find? (fun o => decide (o.pk = pk.unstamped)) = none) ∧ s.m.injectCode q = some c ∧ c ≠ 0x09) ∧
   (let s : State := st (flows grid { flowOne (some 1) with resyncs := 3 })
    let pk : Packet := pkt 1 0 1 0
    let q := asFlow pk.unstamped
    let f := s.m.flowTx q.flow
    s.m.canonical = true ∧ s.m.power.routerReset = false ∧
    (s.m.fab.offers.find? (fun o => decide (o.pk = pk.unstamped)) = none) ∧ s.m.injectCode q = none ∧
    q.flowless = false ∧ f.closed = true) ∧
   (let s : State := st (slotted (1 + 1 * 8 + 64 * 2^16 + 100 * 2^36) (2^40) grid)
    let p : PortId := 1
    let pk : Packet := { pkt 0 0 1 0 with srcX := 2 }
    let vc : BitVec 5 := 0
    let occ : Occupancy := ⟨0, 0, 0, 0⟩
    let o := 0
    s.m.canonical = true ∧ s.m.power.routerReset = false ∧ s.m.portUp p = true ∧ s.m.hasRoom p vc.toNat pk = true ∧
    s.m.tooOld pk = false ∧ pk.mcast = false ∧ s.m.route pk (some p.val) vc.toNat occ = .wait o ∧
    s.m.transitSlot o p pk (s.m.now + 64) = true) ∧
   (let s : State := st (grid)
    let pk : Packet := pkt 1 4 1 0
    let q := asFlow pk.unstamped
    s.m.canonical = true ∧ s.m.power.routerReset = false ∧
    (s.m.fab.offers.find? (fun o => decide (o.pk = pk.unstamped)) = none) ∧ s.m.injectCode q = none ∧ pk.tc ≠ 0 ∧
    q.flowless = true) ∧
   (let s : State := st (flows grid (flowOne (some 1)))
    let pk : Packet := pkt 1 0 1 0
    let q := asFlow pk.unstamped
    let f := s.m.flowTx q.flow
    s.m.canonical = true ∧ s.m.power.routerReset = false ∧
    (s.m.fab.offers.find? (fun o => decide (o.pk = pk.unstamped)) = none) ∧ s.m.injectCode q = none ∧ pk.tc ≠ 0 ∧
    q.flowless = false ∧ f.closed = false ∧ s.m.admits f q = false) ∧
   (let s : State := st (grid)
    let p : PortId := 0
    let pk : Packet := pkt 1 0 0 0
    let vc : BitVec 5 := 1
    s.m.canonical = true ∧ s.m.power.routerReset = false ∧ s.m.portUp p = true ∧ s.m.hasRoom p vc.toNat pk = true ∧
    s.m.tooOld pk = false ∧ pk.mcast = false ∧ pk.dstX.toNat = s.m.myX ∧ pk.dstY.toNat = s.m.myY ∧
    ((pk.tc ≠ 0 ∨ pk.demoted = true))) ∧
   (let s : State := st (grid)
    let p : PortId := 1
    let pk : Packet := pkt 1 0 1 0
    let vc : BitVec 5 := 1
    let occ : Occupancy := ⟨0, 0, 0, 0⟩
    let o := 0
    let v := 1
    let pk' := pkt 1 0 1 0
    s.m.canonical = true ∧ s.m.power.routerReset = false ∧ s.m.portUp p = true ∧ s.m.hasRoom p vc.toNat pk = true ∧
    s.m.tooOld pk = false ∧ pk.mcast = false ∧ s.m.route pk (some p.val) vc.toNat occ = .out o v pk') ∧
   (let s : State := st (grid.queueOut 0 1 (pkt 1 0 1 0) none)
    let p : PortId := 0
    let es := SMap.get s.m.fab.outs outsDefault p
    let c := 1
    let e := ⟨1, pkt 1 0 1 0, none⟩
    s.m.canonical = true ∧ s.m.power.routerReset = false ∧ s.m.portUp p = true ∧
    (nextClass es (SMap.get s.m.fab.shared (fun _ => (0, 0)) p) = some c) ∧
    (es.find? (fun e => decide (outClass e = c)) = some e) ∧ s.m.slotBars p (s.m.linkTime p e.pk.bytes) = false ∧
    bit (s.m.hdr (portPage p)).inject 21 = false) :=
  by refine ⟨?_, ?_, ?_, ?_, ?_, ?_, ?_, ?_, ?_, ?_, ?_⟩ <;> decide +kernel

theorem meets_PacketDelivery :
   (let s : State := st (arrives ({ grid with time := { grid.time with ns := 200001 } }) (pkt 1 0 0 0))
    let pk : Packet := pkt 1 0 0 0
    let e : ArrEnt := ⟨pkt 1 0 0 0, none, none⟩
    s.m.canonical = true ∧ (s.m.fab.arrived.find? (fun e => decide (e.pk = pk)) = some e) ∧ pk.kind ≠ 4 ∧
    ((∀ t, e.at? = some t → t ≤ s.m.now)) ∧ s.m.tooOld pk = true) ∧
   (let s : State := st (arrives (grid) (pkt 1 0 0 0))
    let pk : Packet := pkt 1 0 0 0
    let e : ArrEnt := ⟨pkt 1 0 0 0, none, none⟩
    s.m.canonical = true ∧ (s.m.fab.arrived.find? (fun e => decide (e.pk = pk)) = some e) ∧ pk.kind ≠ 4 ∧
    ((∀ t, e.at? = some t → t ≤ s.m.now)) ∧ s.m.tooOld pk = false ∧ pk.crc ≠ pk.crcNow) ∧
   (let s : State := st (arrives (grid) ({ pkt 2 5 0 0 with crc := (pkt 2 5 0 0).crcNow }))
    let pk : Packet := { pkt 2 5 0 0 with crc := (pkt 2 5 0 0).crcNow }
    let e : ArrEnt := ⟨{ pkt 2 5 0 0 with crc := (pkt 2 5 0 0).crcNow }, none, none⟩
    s.m.canonical = true ∧ (s.m.fab.arrived.find? (fun e => decide (e.pk = pk)) = some e) ∧ pk.kind ≠ 4 ∧
    ((∀ t, e.at? = some t → t ≤ s.m.now)) ∧ s.m.tooOld pk = false ∧ pk.crc = pk.crcNow ∧ pk.kind = 5) ∧
   (let s : State := st (arrives (grid.setFlowRx { FlowRx.empty ⟨0, 0, 1, false, false, false⟩ with cum := 0 }) ({ pkt 1 0 0 0 with crc := (pkt 1 0 0 0).crcNow }))
    let pk : Packet := { pkt 1 0 0 0 with crc := (pkt 1 0 0 0).crcNow }
    let e : ArrEnt := ⟨{ pkt 1 0 0 0 with crc := (pkt 1 0 0 0).crcNow }, none, none⟩
    let r := s.m.flowRx pk.rxKey
    let q := pk.seq.toNat
    s.m.canonical = true ∧ (s.m.fab.arrived.find? (fun e => decide (e.pk = pk)) = some e) ∧ pk.kind ≠ 4 ∧
    ((∀ t, e.at? = some t → t ≤ s.m.now)) ∧ s.m.tooOld pk = false ∧ pk.crc = pk.crcNow ∧ pk.kind ≠ 5 ∧
    ((seqAfter q r.cum = false ∨ q ∈ r.got))) ∧
   (let s : State := st (arrives (grid) ({ pkt 1 0 0 0 with seq := 0x500, crc := ({ pkt 1 0 0 0 with seq := 0x500 }).crcNow }))
    let pk : Packet := { pkt 1 0 0 0 with seq := 0x500, crc := ({ pkt 1 0 0 0 with seq := 0x500 }).crcNow }
    let e : ArrEnt := ⟨{ pkt 1 0 0 0 with seq := 0x500, crc := ({ pkt 1 0 0 0 with seq := 0x500 }).crcNow }, none, none⟩
    let r := s.m.flowRx pk.rxKey
    let q := pk.seq.toNat
    s.m.canonical = true ∧ (s.m.fab.arrived.find? (fun e => decide (e.pk = pk)) = some e) ∧ pk.kind ≠ 4 ∧
    ((∀ t, e.at? = some t → t ≤ s.m.now)) ∧ s.m.tooOld pk = false ∧ pk.crc = pk.crcNow ∧ pk.kind ≠ 5 ∧
    seqAfter q r.cum = true ∧ q ∉ r.got ∧ 1024 < (q + 2 ^ 32 - r.cum) % 2 ^ 32) ∧
   (let s : State := st (arrives (grid) ({ pkt 1 3 0 0 with crc := (pkt 1 3 0 0).crcNow }))
    let pk : Packet := { pkt 1 3 0 0 with crc := (pkt 1 3 0 0).crcNow }
    let e : ArrEnt := ⟨{ pkt 1 3 0 0 with crc := (pkt 1 3 0 0).crcNow }, none, none⟩
    let r := s.m.flowRx pk.rxKey
    let q := pk.seq.toNat
    s.m.canonical = true ∧ (s.m.fab.arrived.find? (fun e => decide (e.pk = pk)) = some e) ∧ pk.kind ≠ 4 ∧
    ((∀ t, e.at? = some t → t ≤ s.m.now)) ∧ s.m.tooOld pk = false ∧ pk.crc = pk.crcNow ∧ pk.kind ≠ 5 ∧
    q = seqAdd r.cum 1 ∧ r.got = [] ∧ r.hold = [] ∧ pk.kind = 3 ∧ s.m.power.restarting = false ∧
    s.m.live keepPage Reg.KEEP.FW_STATE ≠ 3) ∧
   (let s : State := st (arrives ({ grid with power := { grid.power with computeReset := true } }) ({ pkt 1 0 0 0 with crc := (pkt 1 0 0 0).crcNow }))
    let pk : Packet := { pkt 1 0 0 0 with crc := (pkt 1 0 0 0).crcNow }
    let e : ArrEnt := ⟨{ pkt 1 0 0 0 with crc := (pkt 1 0 0 0).crcNow }, none, none⟩
    let r := s.m.flowRx pk.rxKey
    let q := pk.seq.toNat
    s.m.canonical = true ∧ (s.m.fab.arrived.find? (fun e => decide (e.pk = pk)) = some e) ∧ pk.kind ≠ 4 ∧
    ((∀ t, e.at? = some t → t ≤ s.m.now)) ∧ s.m.tooOld pk = false ∧ pk.crc = pk.crcNow ∧ pk.kind ≠ 5 ∧
    q = seqAdd r.cum 1 ∧ r.got = [] ∧ r.hold = [] ∧ pk.kind.toNat ≤ 2 ∧ s.m.power.computeReset = true) :=
  by refine ⟨?_, ?_, ?_, ?_, ?_, ?_, ?_⟩ <;> decide +kernel

theorem meets_FabricControl :
   (let s : State := st (arrives (grid) (control 0 0 0))
    let pk : Packet := control 0 0 0
    let e : ArrEnt := ⟨control 0 0 0, none, none⟩
    let type := natBits (pk.word 0) 39 37
    s.m.canonical = true ∧ (s.m.fab.arrived.find? (fun e => decide (e.pk = pk)) = some e) ∧ pk.kind = 4 ∧
    s.m.tooOld pk = false ∧ pk.crc = pk.crcNow ∧ type = 0) ∧
   (let s : State := st (arrives (grid) (control 0 0 0))
    let pk : Packet := control 0 0 0
    let e : ArrEnt := ⟨control 0 0 0, none, none⟩
    let type := natBits (pk.word 0) 39 37
    let type : Nat := 3
    let tc : Nat := 2
    let cum : Nat := 0xFFFFFFFF
    let sack : Nat := 0xFFFFFFFFFFFFFFFF
    let base : Nat := 0xFFFFFFFF
    let code : Nat := 255
    s.m.canonical = true ∧ (s.m.fab.arrived.find? (fun e => decide (e.pk = pk)) = some e) ∧ pk.kind = 4 ∧ type < 4 ∧
    tc < 4 ∧ cum < 2 ^ 32 ∧ sack < 2 ^ 64 ∧ base < 2 ^ 32 ∧ code < 256) ∧
   (let s : State := st (arrives ({ grid with time := { grid.time with ns := 200001 } }) (control 0 0 0))
    let pk : Packet := control 0 0 0
    let e : ArrEnt := ⟨control 0 0 0, none, none⟩
    let type := natBits (pk.word 0) 39 37
    s.m.canonical = true ∧ (s.m.fab.arrived.find? (fun e => decide (e.pk = pk)) = some e) ∧ pk.kind = 4 ∧
    s.m.tooOld pk = true ∧ type = 0) ∧
   (let s : State := st (arrives (flows grid (flowOne none)) (control 1 0 0))
    let pk : Packet := control 1 0 0
    let e : ArrEnt := ⟨control 1 0 0, none, none⟩
    let type := natBits (pk.word 0) 39 37
    let f := s.m.flowTx (ctlFlow pk)
    let nseq := natBits (pk.word 2) 31 0
    let o := outOne
    s.m.canonical = true ∧ (s.m.fab.arrived.find? (fun e => decide (e.pk = pk)) = some e) ∧ pk.kind = 4 ∧
    s.m.tooOld pk = false ∧ pk.crc = pk.crcNow ∧ type = 1 ∧
    (f.out.find? (fun o => decide (o.pk.seq.toNat = nseq)) = some o)) ∧
   (let s : State := st (arrives (grid) (control 2 0 7))
    let pk : Packet := control 2 0 7
    let e : ArrEnt := ⟨control 2 0 7, none, none⟩
    let type := natBits (pk.word 0) 39 37
    s.m.canonical = true ∧ (s.m.fab.arrived.find? (fun e => decide (e.pk = pk)) = some e) ∧ pk.kind = 4 ∧
    s.m.tooOld pk = false ∧ pk.crc = pk.crcNow ∧ type = 2) ∧
   (let s : State := st (arrives (flows grid (flowOne (some 1))) (control 3 0 1))
    let pk : Packet := control 3 0 1
    let e : ArrEnt := ⟨control 3 0 1, none, none⟩
    let type := natBits (pk.word 0) 39 37
    let f := s.m.flowTx (ctlFlow pk)
    let who := (pk.srcX.toNat, pk.srcY.toNat)
    let nseq := natBits (pk.word 2) 31 0
    s.m.canonical = true ∧ (s.m.fab.arrived.find? (fun e => decide (e.pk = pk)) = some e) ∧ pk.kind = 4 ∧
    s.m.tooOld pk = false ∧ pk.crc = pk.crcNow ∧ type = 3 ∧ f.resync = some nseq ∧ ((∀ r ∈ f.resyncFrom, r = who))) :=
  by refine ⟨?_, ?_, ?_, ?_, ?_, ?_⟩ <;> decide +kernel

theorem meets_Resending :
   (let s : State := st (grid)
    s.m.canonical = true) ∧
   (let s : State := st (flows { grid with ticks := 4999 } (flowOne none))
    let fl : FlowId := toOne
    let seq : BitVec 32 := 0
    let f := s.m.flowTx fl
    let o := outOne
    s.m.canonical = true ∧ (f.out.find? (fun o => decide (o.pk.seq.toNat = seq.toNat)) = some o) ∧
    s.m.ticks < o.sent + o.rto) ∧
   (let s : State := st (flows { grid with ticks := 499999 } (flowOne none))
    let fl : FlowId := toOne
    let seq : BitVec 32 := 0
    let f := s.m.flowTx fl
    let o := outOne
    s.m.canonical = true ∧ (f.out.find? (fun o => decide (o.pk.seq.toNat = seq.toNat)) = some o) ∧
    o.sent + o.rto ≤ s.m.ticks ∧ o.resends < o.retry ∧ s.m.copyRefused o = false) ∧
   (let s : State := st (flows { grid with ticks := 500000 } { flowOne none with out := [{ outOne with resends := 8 }] })
    let fl : FlowId := toOne
    let seq : BitVec 32 := 0
    let f := s.m.flowTx fl
    let o := { outOne with resends := 8 }
    s.m.canonical = true ∧ (f.out.find? (fun o => decide (o.pk.seq.toNat = seq.toNat)) = some o) ∧
    o.sent + o.rto ≤ s.m.ticks ∧ o.retry ≤ o.resends) ∧
   (let s : State := st ({ (flows { grid with ticks := 5000 } (flowOne none)) with fab := { (flows grid (flowOne none)).fab with banks := [(0xA00, 2^63 + 1)] } })
    let fl : FlowId := toOne
    let seq : BitVec 32 := 0
    let f := s.m.flowTx fl
    let o := outOne
    s.m.canonical = true ∧ (f.out.find? (fun o => decide (o.pk.seq.toNat = seq.toNat)) = some o) ∧
    o.sent + o.rto ≤ s.m.ticks ∧ o.resends < o.retry ∧ s.m.copyRefused o = true) ∧
   (let s : State := st (flows { grid with ticks := 500000 } (flowOne (some 1)))
    let fl : FlowId := toOne
    let f := s.m.flowTx fl
    let b := 1
    s.m.canonical = true ∧ f.resync = some b ∧ f.resyncAt + f.rto ≤ s.m.ticks) ∧
   (let s : State := st (flows { grid with ticks := 5000 } { flowOne none with out := [{ outOne with resends := 2 }] })
    let fl : FlowId := toOne
    let seq : BitVec 32 := 0
    let f := s.m.flowTx fl
    let o := { outOne with resends := 2 }
    s.m.canonical = true ∧ (f.out.find? (fun o => decide (o.pk.seq.toNat = seq.toNat)) = some o) ∧
    o.sent + o.rto ≤ s.m.ticks ∧ o.retry ≤ o.resends) :=
  by refine ⟨?_, ?_, ?_, ?_, ?_, ?_, ?_⟩ <;> decide +kernel

theorem meets_BanksAndCalendar :
   (let s : State := st ((grid.setLive routerPage Reg.ROUTER.BANKWIN_SEL 1).setLive routerPage Reg.ROUTER.EPOCH_DRAINING 1)
    let off : BitVec 12 := 0x918
    let w : RegWrite := own (5)
    let sel := s.m.live routerPage Reg.ROUTER.BANKWIN_SEL
    s.m.canonical = true ∧ s.m.live routerPage Reg.ROUTER.EPOCH_DRAINING = 1 ∧
    s.m.live routerPage Reg.ROUTER.DRAIN_END ≤ s.m.now ∧ bankOff off.toNat = true ∧
    live s.m w routerPage off.toNat = true ∧ ((sel = s.m.bankNow ∨ s.m.live routerPage Reg.ROUTER.EPOCH_DRAINING = 1))) ∧
   (let s : State := st ((grid.setLive routerPage Reg.ROUTER.BANKWIN_SEL 1).setLive routerPage Reg.ROUTER.EPOCH_DRAINING 1)
    let p : PortId := 0
    let off : BitVec 12 := 0x918
    let w : RegWrite := own (5)
    let pg := calPage p
    let b := s.m.calBank p
    let sel := s.m.live pg Reg.CAL.BANKWIN_SEL
    let now := SMap.get s.m.fab.calSwitch (fun _ => none) p = some s.m.ticks
    s.m.canonical = true ∧ calOff off.toNat = true ∧ live s.m w pg off.toNat = true ∧ reservedKind off.toNat w = false ∧
    (sel = b ∨ now)) ∧
   (let s : State := st ({ slotted (1 + 0 * 2 + 1 * 8 + 100 * 2^36) (1 * 2^40) grid with fab := { (slotted (1 + 0 * 2 + 1 * 8 + 100 * 2^36) (1 * 2^40) grid).fab with tc0 := [⟨1, 0, { pkt 0 0 1 0 with demoted := false }⟩] } })
    let p : PortId := 0
    let slot : BitVec 10 := 0
    let b := s.m.calBank p
    let e := s.m.calEnt p b slot.toNat
    let x := ⟨1, 0, { pkt 0 0 1 0 with demoted := false }⟩
    s.m.canonical = true ∧ s.m.power.routerReset = false ∧
    e.opens (s.m.calCycle p b) (s.m.calOrigin p b) s.m.now = true ∧ e.kind = 0 ∧
    (s.m.fab.tc0.find? (fun x => decide (x.inPort = e.index ∧ x.pk.dstX.toNat = e.x ∧ x.pk.dstY.toNat = e.y ∧ x.ready ≤ s.m.now)) = some x) ∧
    e.fallen = false ∧ s.m.excluded (b2n x.pk.epoch) p = false ∧ s.m.live (portPage p) Reg.PORT.STATE = 2 ∧
    s.m.fitsSlot p x.pk.bytes e.len = true ∧ bit (s.m.hdr (portPage p)).inject 21 = false) ∧
   (let s : State := st (grid.setLive (calPage 0) Reg.CAL.BANKWIN_SEL 1)
    let p : PortId := 0
    let off : BitVec 12 := 0xA00
    let w : RegWrite := own (3 * 2^1)
    let pg := calPage p
    s.m.canonical = true ∧ calOff off.toNat = true ∧ live s.m w pg off.toNat = true ∧ reservedKind off.toNat w = true) ∧
   (let s : State := st (grid.setLive routerPage Reg.ROUTER.BANKWIN_SEL 1)
    let off : BitVec 12 := 0xBF8
    let w : RegWrite := own (2^63)
    let sel := s.m.live routerPage Reg.ROUTER.BANKWIN_SEL
    s.m.canonical = true ∧ bankOff off.toNat = true ∧ live s.m w routerPage off.toNat = true ∧ sel ≠ s.m.bankNow ∧
    s.m.live routerPage Reg.ROUTER.EPOCH_DRAINING ≠ 1) ∧
   (let s : State := st (grid.setLive (calPage 0) Reg.CAL.BANKWIN_SEL 1)
    let p : PortId := 0
    let off : BitVec 12 := 0xDF8
    let w : RegWrite := own (2^20)
    let pg := calPage p
    let b := s.m.calBank p
    let sel := s.m.live pg Reg.CAL.BANKWIN_SEL
    let now := SMap.get s.m.fab.calSwitch (fun _ => none) p = some s.m.ticks
    s.m.canonical = true ∧ calOff off.toNat = true ∧ live s.m w pg off.toNat = true ∧ reservedKind off.toNat w = false ∧
    sel ≠ b ∧ ¬ now) ∧
   (let s : State := st (slotted (1 + 4 + 3 * 8 + 100 * 2^36 + 2^46) (2^40) grid)
    let p : PortId := 0
    let slot : BitVec 10 := 0
    let b := s.m.calBank p
    let e := s.m.calEnt p b slot.toNat
    s.m.canonical = true ∧ s.m.power.routerReset = false ∧
    e.opens (s.m.calCycle p b) (s.m.calOrigin p b) s.m.now = true ∧ e.kind ≠ 0 ∧
    ((∀ o ∈ s.m.fab.offers, offerFrom e o = false)) ∧ e.fallen = true) ∧
   (let s : State := st (slotted (1 + 2 + 0 * 8 + 100 * 2^36) (2^40) grid)
    let p : PortId := 0
    let slot : BitVec 10 := 0
    let b := s.m.calBank p
    let e := s.m.calEnt p b slot.toNat
    s.m.canonical = true ∧ s.m.power.routerReset = false ∧
    e.opens (s.m.calCycle p b) (s.m.calOrigin p b) s.m.now = true ∧ e.kind ≠ 0 ∧
    ((∀ o ∈ s.m.fab.offers, offerFrom e o = false)) ∧ e.fallen = false) ∧
   (let s : State := st (let m := slotted (1 + 1 * 2 + 8191 * 8 + 100 * 2^36) (2^40) grid; { m with fab := { m.fab with offers := [⟨pkt 0 0 1 0, .ring 8191 3⟩] } })
    let p : PortId := 0
    let slot : BitVec 10 := 0
    let b := s.m.calBank p
    let e := s.m.calEnt p b slot.toNat
    let o := ⟨pkt 0 0 1 0, .ring 8191 3⟩
    let f := s.m.flowTx (asFlow o.pk).flow
    s.m.canonical = true ∧ s.m.power.routerReset = false ∧
    e.opens (s.m.calCycle p b) (s.m.calOrigin p b) s.m.now = true ∧ e.kind ≠ 0 ∧
    (s.m.fab.offers.find? (fun o => decide (o.pk.tc = 0 ∧ o.pk.dstX.toNat = e.x ∧ o.pk.dstY.toNat = e.y) && offerFrom e o) = some o) ∧
    s.m.injectCode (asFlow o.pk) = none ∧ f.closed = false ∧ s.m.admits f (asFlow o.pk) = true) :=
  by refine ⟨?_, ?_, ?_, ?_, ?_, ?_, ?_, ?_, ?_⟩ <;> decide +kernel

theorem meets_RouterReset :
   (let s : State := st { flows grid (flowOne none) with time := { grid.time with ns := 5 } }
    let w : RegWrite := own 2
    let m : Mach := { up with power := { up.power with routerReset := true } }
    live s.m w pwrPage 0x910 = true ∧ s.m.power.routerReset = false ∧ bit w.bits 1 = true ∧ bit w.bits 0 = false ∧
    m.power.routerReset = true ∧ m.power.flash.placement = none) ∧
   (let s : State := st { flows grid (flowOne none) with time := { grid.time with ns := 5 } }
    let w : RegWrite := own 2
    let m : Mach := { mapped with power := { mapped.power with routerReset := true, flash := { mapped.power.flash with records := [⟨7, 1, 1, true, true, .placement ⟨3, 2, 1, 1, [true, false, false, true]⟩⟩] } } }
    let r : Placement := ⟨3, 2, 1, 1, [true, false, false, true]⟩
    live s.m w pwrPage 0x910 = true ∧ s.m.power.routerReset = false ∧ m.canonical = true ∧ m.power.routerReset = true ∧
    m.power.flash.placement = some r) :=
  by refine ⟨?_, ?_⟩ <;> decide +kernel

theorem meets_TimePackets :
   (let s : State := st (grid)
    let p : PortId := 1
    let x := s.m.timePort p
    let tp : TimePkt := ⟨0, 1000, 2000, 3000, 4, 0, 3, 1, 1, 7, 99, true⟩
    s.m.canonical = true ∧ s.m.portUp p = true ∧ ((∀ a, x.sentAt = some a → a + 10000 ≤ s.m.ticks)) ∧
    s.m.slotBars p (s.m.linkTime p 96) = false ∧ bit (s.m.hdr (portPage p)).inject 21 = false ∧ tp.crcGood = true ∧
    ¬ (tp.rootX.toNat = s.m.myX ∧ tp.rootY.toNat = s.m.myY) ∧ s.m.timeState = 0 ∧ s.m.rootPrio = 0 ∧
    s.m.time.roots = [] ∧ s.m.time.root = none ∧ tp.rootPrio ≠ 0 ∧ ((tp.state = 2 ∨ tp.state = 4)) ∧
    tp.depth.toNat < 176 ∧ x.excluded = none ∧ ((∀ q : PortId, q ≠ p → (s.m.timePort q).heard = none))) ∧
   (let s : State := st (grid)
    let p : PortId := 1
    let tp : TimePkt := ⟨0, 1000, 2000, 3000, 2, 3, 3, 1, 1, 7, 99, false⟩
    s.m.canonical = true ∧ s.m.portUp p = true ∧ tp.crcGood = false) :=
  by refine ⟨?_, ?_⟩ <;> decide +kernel

theorem meets_TimeSilence :
   (let s : State := st ({ ((grid.setTimeState 2)) with ticks := 2000000, time := { grid.time with roots := [⟨3, 1, 1, 7, 0, false⟩], root := some (3, 1, 1) } })
    let x := ⟨3, 1, 1, 7, 0, false⟩
    let holdEnd := s.m.time.holdSince + 1000000 * s.m.act timePage Reg.TIME.TIMECTL_HOLD_LIMIT
    s.m.canonical = true ∧ s.m.time.roots.any s.m.silentRoot = true ∧ s.m.time.root = some x.id ∧ s.m.time.roots = [x] ∧
    x.tick + 2000000 ≤ s.m.ticks ∧ x.lost = false ∧ s.m.timeState = 2 ∧ (s.m.timeState ≠ 3 ∨ s.m.ticks ≤ holdEnd)) ∧
   (let s : State := st ({ ((grid.setTimeState 2).setLive timePage Reg.TIME.STATUS_PARENT 3) with ticks := 40000 })
    let par := s.m.live timePage Reg.TIME.STATUS_PARENT
    s.m.canonical = true ∧ s.m.timeState = 2 ∧ par < 4 ∧ ((s.m.timePort par).heard.getD 0) + 40000 ≤ s.m.ticks ∧
    s.m.target = none) ∧
   (let s : State := st ({ (((grid.setTimeState 1).setLive timePage Reg.TIME.STATUS_PARENT 3)) with ticks := 40000 })
    let par := s.m.live timePage Reg.TIME.STATUS_PARENT
    s.m.canonical = true ∧ s.m.timeState = 1 ∧ par < 4 ∧ ((s.m.timePort par).heard.getD 0) + 40000 ≤ s.m.ticks ∧
    s.m.target = none) ∧
   (let s : State := st ({ (force (grid.setTimeState 0) timePage Reg.TIME.TIMECTL_ROOT_PRIO 15) with ticks := 2000000 })
    s.m.canonical = true ∧ 1 ≤ s.m.rootPrio ∧ s.m.timeState ≠ 4 ∧ s.m.target = none ∧
    s.m.time.betterAt + 2000000 ≤ s.m.ticks) ∧
   (let s : State := st ({ (grid.setTimeState 3) with ticks := 100000001 })
    let holdEnd := s.m.time.holdSince + 1000000 * s.m.act timePage Reg.TIME.TIMECTL_HOLD_LIMIT
    s.m.canonical = true ∧ s.m.timeState = 3 ∧ holdEnd < s.m.ticks) ∧
   (let s : State := st ({ (grid.setTimePort 3 { TimePort.reset with excluded := some 0 }) with ticks := 1000000000 })
    let p : PortId := 3
    let a := 0
    s.m.canonical = true ∧ (s.m.timePort p).excluded = some a ∧ a + 1000000000 ≤ s.m.ticks) :=
  by refine ⟨?_, ?_, ?_, ?_, ?_, ?_⟩ <;> decide +kernel

theorem meets_TimeInputs :
   (let s : State := st ({ (force (grid.setTimeState 4) timePage Reg.TIME.TIMECTL_EXTREF 1) with time := { grid.time with ns := 0, frac := 0xFFFF } })
    let w : RegWrite := own (0)
    let e : Int := ((s.m.now : Int) - (s.m.act timePage Reg.TIME.EXTCTL_PPS_DELAY : Nat)) % 1000000000
    s.m.canonical = true ∧ live s.m w timePage 0x928 = true ∧ ((s.m.timeState ≠ 0 ∨ s.m.rootPrio = 0)) ∧
    s.m.timeState = 4 ∧ s.m.act timePage Reg.TIME.TIMECTL_EXTREF = 1 ∧ s.m.time.extLost = false ∧ e ≤ 10000) ∧
   (let s : State := st ({ (force (grid.setTimeState 4) timePage Reg.TIME.TIMECTL_EXTREF 1) with time := { grid.time with ns := 499999999, frac := 0xFFFF } })
    let e : Int := ((s.m.now : Int) - (s.m.act timePage Reg.TIME.EXTCTL_PPS_DELAY : Nat)) % 1000000000
    s.m.canonical = true ∧ s.m.timeState = 4 ∧ s.m.act timePage Reg.TIME.TIMECTL_EXTREF = 1 ∧ s.m.time.extLost = false ∧
    10000 < e ∧ e < 500000000) ∧
   (let s : State := st ({ (force (grid.setTimeState 4) timePage Reg.TIME.TIMECTL_EXTREF 1) with time := { grid.time with ns := 500000000, frac := 0xFFFF } })
    let e : Int := ((s.m.now : Int) - (s.m.act timePage Reg.TIME.EXTCTL_PPS_DELAY : Nat)) % 1000000000
    s.m.canonical = true ∧ s.m.timeState = 4 ∧ s.m.act timePage Reg.TIME.TIMECTL_EXTREF = 1 ∧ s.m.time.extLost = false ∧
    500000000 ≤ e ∧ e < 1000000000 - 10000) ∧
   (let s : State := st ({ (force (grid.setTimeState 4) timePage Reg.TIME.TIMECTL_EXTREF 1) with time := { grid.time with ns := 999990000, frac := 0xFFFF } })
    let e : Int := ((s.m.now : Int) - (s.m.act timePage Reg.TIME.EXTCTL_PPS_DELAY : Nat)) % 1000000000
    s.m.canonical = true ∧ s.m.timeState = 4 ∧ s.m.act timePage Reg.TIME.TIMECTL_EXTREF = 1 ∧ s.m.time.extLost = false ∧
    1000000000 - 10000 ≤ e) ∧
   (let s : State := st (force grid timePage Reg.TIME.TIMECTL_ROOT_PRIO 1)
    let w : RegWrite := own (0xFFFFFFFFFFFFFFFF)
    s.m.canonical = true ∧ live s.m w timePage 0x928 = true ∧ s.m.timeState = 0 ∧ 1 ≤ s.m.rootPrio ∧ w.lanes = .full) ∧
   (let s : State := st (grid.setLive timePage Reg.TIME.FREEZE_AT 999)
    let w : RegWrite := own (1)
    s.m.canonical = true ∧ live s.m w timePage 0x940 = true ∧ bit w.bits 0 = true ∧
    s.m.live timePage Reg.TIME.FREEZE_AT < s.m.now + 1000) ∧
   (let s : State := st (grid.setLive timePage Reg.TIME.FREEZE_AT 1000)
    let w : RegWrite := own (1)
    s.m.canonical = true ∧ live s.m w timePage 0x940 = true ∧ bit w.bits 0 = true ∧
    s.m.now + 1000 ≤ s.m.live timePage Reg.TIME.FREEZE_AT) ∧
   (let s : State := st ({ grid with time := { grid.time with armed := some (0, 5) } })
    let id := 5
    s.m.canonical = true ∧ s.m.time.armed = some (s.m.now, id) ∧ s.m.power.on = true) ∧
   (let s : State := st ({ (force (grid.setTimeState 4) timePage Reg.TIME.TIMECTL_EXTREF 1) with time := { grid.time with ns := 9999, frac := 0xFFFF } })
    let e : Int := ((s.m.now : Int) - (s.m.act timePage Reg.TIME.EXTCTL_PPS_DELAY : Nat)) % 1000000000
    s.m.canonical = true ∧ s.m.timeState = 4 ∧ s.m.act timePage Reg.TIME.TIMECTL_EXTREF = 1 ∧ s.m.time.extLost = false ∧
    e ≤ 10000) ∧
   (let s : State := st ({ (force (grid.setTimeState 4) timePage Reg.TIME.TIMECTL_EXTREF 1) with time := { grid.time with ns := 10000, frac := 0xFFFF } })
    let e : Int := ((s.m.now : Int) - (s.m.act timePage Reg.TIME.EXTCTL_PPS_DELAY : Nat)) % 1000000000
    s.m.canonical = true ∧ s.m.timeState = 4 ∧ s.m.act timePage Reg.TIME.TIMECTL_EXTREF = 1 ∧ s.m.time.extLost = false ∧
    e ≤ 10000) :=
  by refine ⟨?_, ?_, ?_, ?_, ?_, ?_, ?_, ?_, ?_, ?_⟩ <;> decide +kernel

theorem meets_WaitBar :
   (let u : UnitId := 0
    let c : CtxId := 0
    let ga : RegNo := 1
    let s : State := st (barrier ({ leaf with arr0 := 1, arr1 := 1 }) (cell { busyCtx with g := [(1, 0xFFF)] }))
    let g := s.m.g u c ga
    let o := fld g 11 0
    let p := fld g 17 12
    let b := s.m.bar o
    ready s.m u c = true ∧ fld g 63 19 = 0 ∧ b.valid = true ∧ p < b.localN ∧ b.arr0.toNat.testBit p = true ∧
    b.arr1.toNat.testBit p = true) ∧
   (let u : UnitId := 0
    let c : CtxId := 0
    let ga : RegNo := 1
    let s : State := st (barrier ({ leaf with arr0 := 1 }) (cell { busyCtx with g := [(1, 0xFFF + 2^18)] }))
    let g := s.m.g u c ga
    let o := fld g 11 0
    let p := fld g 17 12
    let b := s.m.bar o
    ready s.m u c = true ∧ fld g 63 19 = 0 ∧ b.valid = true ∧ p < b.localN ∧ b.arr0.toNat.testBit p = true ∧
    b.arr1.toNat.testBit p = false ∧ bit g 18 = true) ∧
   (let u : UnitId := 0
    let c : CtxId := 0
    let ga : RegNo := 1
    let s : State := st (barrier ({ leaf with arr0 := 1 }) (cell { busyCtx with g := [(1, 0xFFF)] }))
    let g := s.m.g u c ga
    let o := fld g 11 0
    let p := fld g 17 12
    let b := s.m.bar o
    ready s.m u c = true ∧ fld g 63 19 = 0 ∧ b.valid = true ∧ p < b.localN ∧ b.arr0.toNat.testBit p = true ∧
    b.arr1.toNat.testBit p = false ∧ bit g 18 = false) ∧
   (let u : UnitId := 0
    let c : CtxId := 0
    let ga : RegNo := 1
    let s : State := st (barrier (leaf) (cell { busyCtx with g := [(1, 0xFFF)] }))
    let g := s.m.g u c ga
    let o := fld g 11 0
    let p := fld g 17 12
    let b := s.m.bar o
    let b1 := { b with arr0 := b.arr0 ||| BitVec.ofNat 64 (2 ^ p) }
    ready s.m u c = true ∧ fld g 63 19 = 0 ∧ b.valid = true ∧ p < b.localN ∧ b.arr0.toNat.testBit p = false ∧
    b1.full = false ∧ bit g 18 = false) ∧
   (let u : UnitId := 0
    let c : CtxId := 0
    let ga : RegNo := 1
    let s : State := st (barrier ({ leaf with arr0 := 1 }) (cell { busyCtx with g := [(1, 0xFFF + 1 * 2^12 + 2^18)] }))
    let g := s.m.g u c ga
    let o := fld g 11 0
    let p := fld g 17 12
    let b := s.m.bar o
    let b1 := { b with arr0 := b.arr0 ||| BitVec.ofNat 64 (2 ^ p) }
    ready s.m u c = true ∧ fld g 63 19 = 0 ∧ b.valid = true ∧ p < b.localN ∧ b.arr0.toNat.testBit p = false ∧
    b1.full = true ∧ b.complete = false ∧ b.root = false ∧
    s.m.shut (barPacket b.parentX b.parentY o b.gen b.summed none).unstamped = false ∧ bit g 18 = true) ∧
   (let u : UnitId := 0
    let c : CtxId := 0
    let ga : RegNo := 1
    let s : State := st (barrier ({ leaf with arr0 := 1 }) (cell { busyCtx with g := [(1, 0xFFF + 1 * 2^12)] }))
    let g := s.m.g u c ga
    let o := fld g 11 0
    let p := fld g 17 12
    let b := s.m.bar o
    let b1 := { b with arr0 := b.arr0 ||| BitVec.ofNat 64 (2 ^ p) }
    ready s.m u c = true ∧ fld g 63 19 = 0 ∧ b.valid = true ∧ p < b.localN ∧ b.arr0.toNat.testBit p = false ∧
    b1.full = true ∧ b.complete = false ∧ b.root = false ∧
    s.m.shut (barPacket b.parentX b.parentY o b.gen b.summed none).unstamped = false ∧ bit g 18 = false) ∧
   (let u : UnitId := 0
    let c : CtxId := 0
    let ga : RegNo := 1
    let s : State := st (barrier (leaf) (cell { busyCtx with g := [(1, 0x80FFF)] }))
    let g := s.m.g u c ga
    ready s.m u c = true ∧ fld g 63 19 ≠ 0) ∧
   (let u : UnitId := 0
    let c : CtxId := 0
    let ga : RegNo := 1
    let s : State := st (barrier (leaf) (cell { busyCtx with g := [(1, 0xFFE)] }))
    let g := s.m.g u c ga
    let o := fld g 11 0
    let b := s.m.bar o
    ready s.m u c = true ∧ fld g 63 19 = 0 ∧ b.valid = false) ∧
   (let u : UnitId := 0
    let c : CtxId := 0
    let ga : RegNo := 1
    let s : State := st (barrier (leaf) (cell { busyCtx with g := [(1, 0xFFF + 2 * 2^12)] }))
    let g := s.m.g u c ga
    let o := fld g 11 0
    let p := fld g 17 12
    let b := s.m.bar o
    ready s.m u c = true ∧ fld g 63 19 = 0 ∧ b.valid = true ∧ b.localN ≤ p) ∧
   (let u : UnitId := 0
    let c : CtxId := 0
    let ga : RegNo := 1
    let s : State := st (barrier (leaf) (cell { busyCtx with g := [(1, 0xFFF + 2^18)] }))
    let g := s.m.g u c ga
    let o := fld g 11 0
    let p := fld g 17 12
    let b := s.m.bar o
    let b1 := { b with arr0 := b.arr0 ||| BitVec.ofNat 64 (2 ^ p) }
    ready s.m u c = true ∧ fld g 63 19 = 0 ∧ b.valid = true ∧ p < b.localN ∧ b.arr0.toNat.testBit p = false ∧
    b1.full = false ∧ bit g 18 = true) ∧
   (let u : UnitId := 0
    let c : CtxId := 0
    let ga : RegNo := 1
    let s : State := st (barrier ({ leaf with cfg := 1 + 64 * 2^4 + 2^14 + 64 * 2^32 }) (cell { busyCtx with g := [(1, 0xFFF + 63 * 2^12)] }))
    let g := s.m.g u c ga
    let o := fld g 11 0
    let p := fld g 17 12
    let b := s.m.bar o
    let b1 := { b with arr0 := b.arr0 ||| BitVec.ofNat 64 (2 ^ p) }
    ready s.m u c = true ∧ fld g 63 19 = 0 ∧ b.valid = true ∧ p < b.localN ∧ b.arr0.toNat.testBit p = false ∧
    b1.full = false ∧ bit g 18 = false) :=
  by refine ⟨?_, ?_, ?_, ?_, ?_, ?_, ?_, ?_, ?_, ?_, ?_⟩ <;> decide +kernel

theorem meets_Barriers :
   (let s : State := st ((grid.setLive barrPage Reg.BARR.BWIN_BASE 127))
    let a : BarMsg := arrival false
    let b := s.m.bar a.obj.toNat
    let off : BitVec 12 := 0xDE8
    let w : RegWrite := own (0xFFFFFFFF)
    let n := s.m.barAt off.toNat
    let y := s.m.bar n
    let held := heldBits .barr off.toNat &&& w.cover
    let merged := fun (old : Word) => (old &&& ~~~held) ||| (w.bits &&& held)
    let lead := { y with lead := fld (merged (w64 y.lead)) 31 0 }
    s.m.canonical = true ∧ s.m.coll = [] ∧ b.valid = false ∧ barOff off.toNat = true ∧
    live s.m w barrPage off.toNat = true ∧ (off.toNat - 0xA00) % 32 = 8 ∧ y.busy = false ∧ s.m.barBad lead = false) ∧
   (let s : State := st (barrier { leaf with complete := true } { up with time := { up.time with ns := 1001 } })
    let a : BarMsg := arrival false
    let b := s.m.bar a.obj.toNat
    let k := (a.srcX.toNat, a.srcY.toNat, a.count)
    let off : BitVec 12 := 0xA00
    let w : RegWrite := own (0)
    let n := s.m.barAt off.toNat
    let odd := fun (n : Nat) => decide (n % 2 = 1)
    let y := s.m.bar n
    let held := heldBits .barr off.toNat &&& w.cover
    let merged := fun (old : Word) => (old &&& ~~~held) ||| (w.bits &&& held)
    let started := fun (z : BarObj) =>
      if z.valid && !y.valid then { z with gen := 0, complete := false, release := none } else z
    let cfg := started { y with cfg := merged y.cfg }
    s.m.canonical = true ∧ s.m.coll = [] ∧ b.valid = true ∧ a.parity = odd b.gen ∧
    ({ b with kids0 := b.kids0 ++ [k] } : BarObj).full = false ∧ b.complete = true ∧ b.release = none ∧
    a.tRel.toNat < s.m.now ∧ b.job = false ∧ barOff off.toNat = true ∧ live s.m w barrPage off.toNat = true ∧
    (off.toNat - 0xA00) % 32 = 0 ∧ bit w.bits 3 = false ∧ y.busy = false ∧ s.m.barBad cfg = false) ∧
   (let s : State := st (barrier { leaf with complete := true, release := some 1000, arr1 := 2 } { cell (waits (.bar 0xFFF 0 31)) with time := { up.time with ns := 1000 } })
    let o : BitVec 12 := 0xFFF
    let x := s.m.bar o.toNat
    let i := 1000
    s.m.canonical = true ∧ s.m.coll = [] ∧ x.release = some i ∧ i ≤ s.m.now ∧ x.valid = true ∧ x.job = false) ∧
   (let s : State := st ((grid.setLive barrPage Reg.BARR.BWIN_BASE 127))
    let off : BitVec 12 := 0xDE0
    let w : RegWrite := own (1 + 2 * 2^4 + 3 * 2^14 + 5 * 2^32)
    let n := s.m.barAt off.toNat
    let y := s.m.bar n
    let held := heldBits .barr off.toNat &&& w.cover
    let merged := fun (old : Word) => (old &&& ~~~held) ||| (w.bits &&& held)
    let started := fun (z : BarObj) =>
      if z.valid && !y.valid then { z with gen := 0, complete := false, release := none } else z
    let cfg := started { y with cfg := merged y.cfg }
    s.m.canonical = true ∧ s.m.coll = [] ∧ barOff off.toNat = true ∧ live s.m w barrPage off.toNat = true ∧
    (off.toNat - 0xA00) % 32 = 0 ∧ bit w.bits 3 = false ∧ y.busy = false ∧ s.m.barBad cfg = true) ∧
   (let s : State := st (barrier leaf up)
    let a : BarMsg := arrival true
    let b := s.m.bar a.obj.toNat
    let odd := fun (n : Nat) => decide (n % 2 = 1)
    s.m.canonical = true ∧ s.m.coll = [] ∧ b.valid = true ∧ a.parity ≠ odd b.gen) ∧
   (let s : State := st (barrier { leaf with complete := true } { up with time := { up.time with ns := 1000 } })
    let a : BarMsg := arrival false
    let b := s.m.bar a.obj.toNat
    let odd := fun (n : Nat) => decide (n % 2 = 1)
    s.m.canonical = true ∧ s.m.coll = [] ∧ b.valid = true ∧ a.parity = odd b.gen ∧ b.complete = true ∧ b.release = none ∧
    s.m.now ≤ a.tRel.toNat) ∧
   (let s : State := st (barrier { leaf with arr0 := 1 } (grid.setLive barrPage Reg.BARR.BWIN_BASE 127))
    let off : BitVec 12 := 0xDE0
    let w : RegWrite := own (1)
    let n := s.m.barAt off.toNat
    let y := s.m.bar n
    s.m.canonical = true ∧ s.m.coll = [] ∧ barOff off.toNat = true ∧ live s.m w barrPage off.toNat = true ∧
    (off.toNat - 0xA00) % 32 = 0 ∧ bit w.bits 3 = false ∧ y.busy = true) ∧
   (let s : State := st (barrier leaf (((grid.setLive barrPage Reg.BARR.BWIN_BASE 127).setCtx 0 0 (waits (.bar 0xFFF 0 31)))))
    let off : BitVec 12 := 0xDE0
    let w : RegWrite := own (8)
    s.m.canonical = true ∧ s.m.coll = [] ∧ barOff off.toNat = true ∧ live s.m w barrPage off.toNat = true ∧
    (off.toNat - 0xA00) % 32 = 0 ∧ bit w.bits 3 = true) ∧
   (let s : State := st (barrier { leaf with arr0 := 1 } (grid.setLive barrPage Reg.BARR.BWIN_BASE 127))
    let off : BitVec 12 := 0xDE8
    let w : RegWrite := own (1)
    let n := s.m.barAt off.toNat
    let y := s.m.bar n
    s.m.canonical = true ∧ s.m.coll = [] ∧ barOff off.toNat = true ∧ live s.m w barrPage off.toNat = true ∧
    (off.toNat - 0xA00) % 32 = 8 ∧ y.busy = true) ∧
   (let s : State := st (barrier { leaf with cfg := 1 + 2 * 2^4 + 2^14 + 1 * 2^32 } (grid.setLive barrPage Reg.BARR.BWIN_BASE 127))
    let off : BitVec 12 := 0xDE8
    let w : RegWrite := own (0)
    let n := s.m.barAt off.toNat
    let y := s.m.bar n
    let held := heldBits .barr off.toNat &&& w.cover
    let merged := fun (old : Word) => (old &&& ~~~held) ||| (w.bits &&& held)
    let lead := { y with lead := fld (merged (w64 y.lead)) 31 0 }
    s.m.canonical = true ∧ s.m.coll = [] ∧ barOff off.toNat = true ∧ live s.m w barrPage off.toNat = true ∧
    (off.toNat - 0xA00) % 32 = 8 ∧ y.busy = false ∧ s.m.barBad lead = true) :=
  by refine ⟨?_, ?_, ?_, ?_, ?_, ?_, ?_, ?_, ?_, ?_⟩ <;> decide +kernel

theorem meets_SparesAndParity :
   (let s : State := st (drains ⟨0, 0, 176⟩)
    let u : UnitId := 0
    let c : SpareCopy := ⟨0, 0, 176⟩
    let pg : Page := poolPage 19
    s.m.canonical = true ∧ (s.m.spare.copies.find? (fun c => decide (c.fromUnit = u.val)) = some c) ∧ c.toUnit < 204 ∧
    s.m.unitDrained u = true ∧ s.m.ras.errors = [] ∧ pg.ok = true ∧ s.m.runs = true) :=
  by decide +kernel

theorem meets_Digests :
   (let e : DigId := 7
    let w : RegWrite := own 1
    let p := digPage e
    let s : State := st (digest 2)
    let st := s.m.live p Reg.DIG.STATE
    let base := s.m.live p Reg.DIG.BASE
    let len := s.m.live p Reg.DIG.LEN
    let bad := (s.m.digOf e).poisoned || (s.m.digReads e).any (fun r => (s.m.memPeek (base + r.1) r.2).any (fun b => b.2))
    s.m.canonical = true ∧ live s.m w p 0x918 = true ∧ bit w.bits 0 = true ∧
    ((st = 1 ∨ st = 2 ∨ base % 64 ≠ 0 ∨ 2 ^ 40 < len)) ∧ s.m.digEnds e = true ∧ quiet s.m = true ∧ bad = false ∧
    (s.m.digOf e).raced = false ∧ s.m.live p Reg.DIG.TRAILER = 0) ∧
   (let e : DigId := 7
    let w : RegWrite := own 1
    let p := digPage e
    let s : State := st ((digest 0).setLive (digPage 7) Reg.DIG.LEN (2^40))
    let st := s.m.live p Reg.DIG.STATE
    let base := s.m.live p Reg.DIG.BASE
    let len := s.m.live p Reg.DIG.LEN
    s.m.canonical = true ∧ live s.m w p 0x918 = true ∧ bit w.bits 0 = true ∧ st ≠ 1 ∧ st ≠ 2 ∧ base % 64 = 0 ∧
    len ≤ 2 ^ 40 ∧ s.m.live p Reg.DIG.MODE = 0) ∧
   (let e : DigId := 7
    let w : RegWrite := own 4
    let p := digPage e
    let s : State := st (digest 1)
    let st := s.m.live p Reg.DIG.STATE
    s.m.canonical = true ∧ live s.m w p 0x918 = true ∧ bit w.bits 2 = true ∧ ((st = 1 ∨ st = 2))) ∧
   (let e : DigId := 7
    let w : RegWrite := own 1
    let p := digPage e
    let s : State := st ((digest 0).setLive (digPage 7) Reg.DIG.MODE 1)
    let st := s.m.live p Reg.DIG.STATE
    let base := s.m.live p Reg.DIG.BASE
    let len := s.m.live p Reg.DIG.LEN
    s.m.canonical = true ∧ live s.m w p 0x918 = true ∧ bit w.bits 0 = true ∧ st ≠ 1 ∧ st ≠ 2 ∧ base % 64 = 0 ∧
    len ≤ 2 ^ 40 ∧ s.m.live p Reg.DIG.MODE = 1) ∧
   (let e : DigId := 7
    let w : RegWrite := own 2
    let p := digPage e
    let s : State := st (digest 1)
    let st := s.m.live p Reg.DIG.STATE
    s.m.canonical = true ∧ live s.m w p 0x918 = true ∧ bit w.bits 1 = true ∧ st = 1) ∧
   (let e : DigId := 7
    let w : RegWrite := own 8
    let p := digPage e
    let s : State := st (digest 0)
    let st := s.m.live p Reg.DIG.STATE
    s.m.canonical = true ∧ live s.m w p 0x918 = true ∧ bit w.bits 3 = true ∧ st ≠ 2) ∧
   (let s : State := st ({ digest 2 with dig := [(7, { DigSt.reset with poisoned := true })] })
    let e : DigId := 7
    let p := digPage e
    let base := s.m.live p Reg.DIG.BASE
    let bad := (s.m.digOf e).poisoned || (s.m.digReads e).any (fun r => (s.m.memPeek (base + r.1) r.2).any (fun b => b.2))
    s.m.canonical = true ∧ s.m.digEnds e = true ∧ quiet s.m = true ∧ bad = true) ∧
   (let s : State := st ({ digest 2 with dig := [(7, { DigSt.reset with raced := true })] })
    let e : DigId := 7
    let p := digPage e
    let base := s.m.live p Reg.DIG.BASE
    let bad := (s.m.digOf e).poisoned || (s.m.digReads e).any (fun r => (s.m.memPeek (base + r.1) r.2).any (fun b => b.2))
    s.m.canonical = true ∧ s.m.digEnds e = true ∧ quiet s.m = true ∧ bad = false ∧ (s.m.digOf e).raced = true) ∧
   (let e : DigId := 7
    let w : RegWrite := own 1
    let p := digPage e
    let s : State := st ((digest 0).setLive (digPage 7) Reg.DIG.LEN (2^40 + 1))
    let st := s.m.live p Reg.DIG.STATE
    let base := s.m.live p Reg.DIG.BASE
    let len := s.m.live p Reg.DIG.LEN
    s.m.canonical = true ∧ live s.m w p 0x918 = true ∧ bit w.bits 0 = true ∧
    ((st = 1 ∨ st = 2 ∨ base % 64 ≠ 0 ∨ 2 ^ 40 < len))) :=
  by refine ⟨?_, ?_, ?_, ?_, ?_, ?_, ?_, ?_, ?_⟩ <;> decide +kernel

theorem meets_CheckClearAndSlotImage :
   (let s : State := st (up)
    let n : ChkId := 95
    let w : RegWrite := own 1
    let p := chkPage n
    s.m.canonical = true ∧ live s.m w p 0x928 = true ∧ bit w.bits 0 = true ∧ live s.m w rasPage 0x948 = true ∧
    fld w.bits 1 0 = 1) ∧
   (let s : State := st (up)
    let w : RegWrite := own 2
    s.m.canonical = true ∧ live s.m w rasPage 0x948 = true ∧ fld w.bits 1 0 = 2) :=
  by refine ⟨?_, ?_⟩ <;> decide +kernel

theorem meets_Firmware :
   (let w : RegWrite := own 2
    let s : State := st (firmware 3)
    let st := s.m.fwState
    s.m.canonical = true ∧ live s.m w keepPage 0x930 = true ∧ fld w.bits 1 0 = 2 ∧ st ≠ 2 ∧ s.m.keeperRuns = true ∧
    s.m.inRecovery = false ∧ st = 3) ∧
   (let w : RegWrite := own 3
    let s : State := st (firmware 1)
    let st := s.m.fwState
    let r := s.m.locRead (.mem (s.m.live keepPage Reg.KEEP.FW_ADDR)) (s.m.live keepPage Reg.KEEP.FW_LEN)
    let parts := imageParts (r.1.map (fun b => b.1.toNat))
    s.m.canonical = true ∧ live s.m w keepPage 0x930 = true ∧ fld w.bits 1 0 = 3 ∧ st = 1 ∧ s.m.inRecovery = false ∧
    s.m.keeperRuns = true ∧ quiet s.m = true ∧
    s.m.memHeld (s.m.live keepPage Reg.KEEP.FW_ADDR) (s.m.live keepPage Reg.KEEP.FW_LEN) = false ∧
    ((r.1.any (fun b => b.2) = true ∨ parts = none))) ∧
   (let w : RegWrite := own 2
    let s : State := st (firmware 2)
    let st := s.m.fwState
    s.m.canonical = true ∧ live s.m w keepPage 0x930 = true ∧ fld w.bits 1 0 = 2 ∧ st = 2) ∧
   (let w : RegWrite := own 3
    let s : State := st (firmware 0)
    let st := s.m.fwState
    s.m.canonical = true ∧ live s.m w keepPage 0x930 = true ∧ fld w.bits 1 0 = 3 ∧ ((st ≠ 1 ∨ s.m.inRecovery = true))) ∧
   (let b : BootReport := ⟨true, [], [], [], [], [], [], true, 5⟩
    let s : State := st (let m := (firmware 3).setLive secPage Reg.SEC.BOOT_STATE 0xB; { m with power := { m.power with boot := some ⟨true, [], [], [], [], [], [], true, 5⟩ } })
    let st := s.m.fwState
    s.m.canonical = true ∧ s.m.keeperRuns = true ∧ st = 3 ∧ s.m.inRecovery = true ∧ s.m.power.boot = some b) ∧
   (let w : RegWrite := own 1
    let s : State := st (firmware 0)
    let st := s.m.fwState
    s.m.canonical = true ∧ live s.m w keepPage 0x930 = true ∧ fld w.bits 1 0 = 1 ∧ ((st = 0 ∨ st = 2 ∨ st = 4 ∨ st = 5))) ∧
   (let w : RegWrite := own 1
    let s : State := st (firmware 1)
    let st := s.m.fwState
    s.m.canonical = true ∧ live s.m w keepPage 0x930 = true ∧ fld w.bits 1 0 = 1 ∧ st ≠ 0 ∧ st ≠ 2 ∧ st ≠ 4 ∧ st ≠ 5) ∧
   (let w : RegWrite := own 2
    let s : State := st (firmware 0)
    let st := s.m.fwState
    s.m.canonical = true ∧ live s.m w keepPage 0x930 = true ∧ fld w.bits 1 0 = 2 ∧ st ≠ 2) ∧
   (let s : State := st (firmware 1)
    let st := s.m.fwState
    let r := s.m.locRead (.mem (s.m.live keepPage Reg.KEEP.FW_ADDR)) (s.m.live keepPage Reg.KEEP.FW_LEN)
    let parts := imageParts (r.1.map (fun b => b.1.toNat))
    s.m.canonical = true ∧ s.m.keeperRuns = true ∧ s.m.inRecovery = false ∧ st = 1 ∧ quiet s.m = true ∧
    s.m.memHeld (s.m.live keepPage Reg.KEEP.FW_ADDR) (s.m.live keepPage Reg.KEEP.FW_LEN) = false ∧
    ((r.1.any (fun b => b.2) = true ∨ parts = none))) ∧
   (let w : RegWrite := own 2
    let s : State := st (firmware 4)
    let st := s.m.fwState
    s.m.canonical = true ∧ live s.m w keepPage 0x930 = true ∧ fld w.bits 1 0 = 2 ∧ st ≠ 2) ∧
   (let w : RegWrite := own 2
    let s : State := st (firmware 5)
    let st := s.m.fwState
    s.m.canonical = true ∧ live s.m w keepPage 0x930 = true ∧ fld w.bits 1 0 = 2 ∧ st ≠ 2) :=
  by refine ⟨?_, ?_, ?_, ?_, ?_, ?_, ?_, ?_, ?_, ?_, ?_⟩ <;> decide +kernel

theorem meets_KeeperSupervision :
   (let s : State := st (beating)
    let due := s.m.power.wdogAt + 1000000 * s.m.act keepPage Reg.KEEP.KEEPCTL_WDOG_MS
    let h : HostId := 1
    let p := hostPage h
    let w : RegWrite := ⟨.hostB, .full, BitVec.ofNat 64 (1)⟩
    let v := w.merge (s.m.reg p 0xA08)
    s.m.canonical = true ∧ s.m.keeperRuns = true ∧ due ≤ s.m.ticks ∧ s.m.live p Reg.HOST.PORT_STATE_HB_ARMED = 1 ∧
    (s.m.port h).hbSince + s.m.hbTimeout ≤ s.m.ticks ∧ live s.m w p 0xA18 = true ∧ bit w.bits 0 = true ∧
    (s.m.port h).echoSince + s.m.hbTimeout ≤ s.m.ticks ∧ live s.m w p 0xA08 = true ∧ v ≠ 0) ∧
   (let s : State := st (up)
    let due := s.m.power.wdogAt + 1000000 * s.m.act keepPage Reg.KEEP.KEEPCTL_WDOG_MS
    let h : HostId := 1
    let w : RegWrite := ⟨.hostB, .full, BitVec.ofNat 64 (0)⟩
    let p := hostPage h
    let v := w.merge (s.m.reg p 0xA08)
    s.m.canonical = true ∧ s.m.keeperRuns = true ∧ s.m.ticks < due ∧ live s.m w p 0xA08 = true ∧ v = 0) ∧
   (let s : State := st ({ beating with ticks := 1 })
    let h : HostId := 1
    let w : RegWrite := ⟨.hostB, .full, BitVec.ofNat 64 (1)⟩
    let p := hostPage h
    s.m.canonical = true ∧ live s.m w p 0xA18 = true ∧ bit w.bits 0 = true ∧
    s.m.ticks < (s.m.port h).echoSince + s.m.hbTimeout) ∧
   (let s : State := st ({ up with power := { up.power with restarting := true } })
    let f := s.m.power.flash
    let first := f.bootSel.getD false
    s.m.canonical = true ∧ s.m.runs = true ∧ s.m.power.restarting = true ∧ s.m.ready = true ∧
    f.passes (f.image first) = true) ∧
   (let s : State := st ({ up with power := { up.power with restarting := true, flash := { Flash.reset with imgA := { Flash.reset.imgA with ok := false }, imgB := { Flash.reset.imgB with ok := false } } } })
    let f := s.m.power.flash
    let first := f.bootSel.getD false
    s.m.canonical = true ∧ s.m.runs = true ∧ s.m.power.restarting = true ∧ s.m.ready = true ∧
    f.passes (f.image first) = false ∧ f.passes (f.image (!first)) = false) ∧
   (let s : State := st (up)
    let due := s.m.power.wdogAt + 1000000 * s.m.act keepPage Reg.KEEP.KEEPCTL_WDOG_MS
    s.m.canonical = true ∧ s.m.keeperRuns = true ∧ s.m.ticks < due) :=
  by refine ⟨?_, ?_, ?_, ?_, ?_, ?_⟩ <;> decide +kernel

theorem meets_RingControl :
   (let s : State := st (ringed { ringFor 0 0 with state := .draining } up)
    let port : HostId := 0
    let ring : BitVec 13 := 8191
    let half : Bool := false
    let bytes : Nat := 8
    let x := s.m.ringOf ring.toNat
    let mw : MsixWrite := ⟨2047, 3, false, 0⟩
    let slot := port.val * 2048 + mw.vec.toNat
    let waits := SMap.get s.m.host.pend (fun _ => false) slot
    let off : BitVec 12 := 0xA00
    let w : RegWrite := ⟨.hostA, .full, BitVec.ofNat 64 (0)⟩
    let r := (s.m.windowRing off.toNat).1
    let y := s.m.ringOf r
    s.m.canonical = true ∧ s.m.runs = true ∧ ((bytes = 4 ∨ (bytes = 8 ∧ half = false))) ∧ port = x.owner ∧
    x.state ≠ .active ∧ mw.qword = false ∧ mw.dword = 3 ∧ bit mw.val 0 = false ∧
    ((waits = false ∨ s.m.failed port = true)) ∧ ringOff off.toNat = true ∧ owner s.m w ringPage = true ∧
    off.toNat % 64 = 0 ∧ y.state = .disabled ∧ x.state = .draining ∧ x.started = []) ∧
   (let s : State := st ((let m := ringed (ringFor 0 0) up; { m with host := { m.host with pend := [(2047, true)] } }))
    let port : HostId := 0
    let ring : BitVec 13 := 8191
    let half : Bool := false
    let bytes : Nat := 8
    let v : Word := 0
    let x := s.m.ringOf ring.toNat
    let d := dbValues half bytes v
    let m1 := s.m.accessWakes
    let waking := decide (m1.live pwrPage Reg.PWR.STATE = 5 ∧ m1.act pwrPage Reg.PWR.PWRCTL_AUTOWAKE = 1)
    let mw : MsixWrite := ⟨2047, 3, false, 0⟩
    let slot := port.val * 2048 + mw.vec.toNat
    let waits := SMap.get s.m.host.pend (fun _ => false) slot
    s.m.canonical = true ∧ s.m.runs = true ∧ ((bytes = 4 ∨ (bytes = 8 ∧ half = false))) ∧ port = x.owner ∧
    x.state = .active ∧ waking = false ∧ (d.1.any x.badTail || d.2.any x.badHead) = false ∧ mw.qword = false ∧
    mw.dword = 3 ∧ bit mw.val 0 = false ∧ waits = true ∧ s.m.failed port = false) ∧
   (let s : State := st (ringed (ringFor 0 0) up)
    let port : HostId := 0
    let ring : BitVec 13 := 8191
    let half : Bool := false
    let bytes : Nat := 8
    let v : Word := 17
    let x := s.m.ringOf ring.toNat
    let d := dbValues half bytes v
    let m1 := s.m.accessWakes
    let waking := decide (m1.live pwrPage Reg.PWR.STATE = 5 ∧ m1.act pwrPage Reg.PWR.PWRCTL_AUTOWAKE = 1)
    s.m.canonical = true ∧ s.m.runs = true ∧ ((bytes = 4 ∨ (bytes = 8 ∧ half = false))) ∧ port = x.owner ∧
    x.state = .active ∧ waking = false ∧ (d.1.any x.badTail || d.2.any x.badHead) = true) ∧
   (let s : State := st (ringed (ringFor 0 0) up)
    let port : HostId := 1
    let ring : BitVec 13 := 8191
    let half : Bool := false
    let bytes : Nat := 8
    let x := s.m.ringOf ring.toNat
    s.m.canonical = true ∧ s.m.runs = true ∧ ((bytes = 4 ∨ (bytes = 8 ∧ half = false))) ∧ port ≠ x.owner) ∧
   (let s : State := st (((ringed { ringFor 0 0 with state := .disabled } up).setLive ringPage Reg.RING.RWIN_BASE 511))
    let off : BitVec 12 := 0xDC8
    let w : RegWrite := ⟨.hostA, .full, BitVec.ofNat 64 (64)⟩
    let r := (s.m.windowRing off.toNat).1
    let y := s.m.ringOf r
    s.m.canonical = true ∧ s.m.runs = true ∧ ringOff off.toNat = true ∧ owner s.m w ringPage = true ∧
    off.toNat % 64 = 8 ∧ y.state = .disabled) ∧
   (let s : State := st (((ringed { ringFor 0 0 with state := .disabled } up).setLive ringPage Reg.RING.RWIN_BASE 511))
    let off : BitVec 12 := 0xDD0
    let w : RegWrite := ⟨.hostA, .full, BitVec.ofNat 64 (16 + 2^6 + 0 * 2^7 + 2559 * 2^10 + 2^35)⟩
    let r := (s.m.windowRing off.toNat).1
    let y := s.m.ringOf r
    s.m.canonical = true ∧ s.m.runs = true ∧ ringOff off.toNat = true ∧ owner s.m w ringPage = true ∧
    off.toNat % 64 = 16 ∧ fld w.bits 63 59 = 0 ∧ y.state = .disabled ∧ bit w.bits 6 = true ∧
    s.m.enableOk { y with cfg := w.merge y.cfg } = true) ∧
   (let s : State := st (((ringed { ringFor 0 0 with state := .disabled } up).setLive ringPage Reg.RING.RWIN_BASE 511))
    let off : BitVec 12 := 0xDD0
    let w : RegWrite := ⟨.hostA, .full, BitVec.ofNat 64 (16 + 2^6 + 0 * 2^7 + 2560 * 2^10 + 2^35)⟩
    let r := (s.m.windowRing off.toNat).1
    let y := s.m.ringOf r
    s.m.canonical = true ∧ s.m.runs = true ∧ ringOff off.toNat = true ∧ owner s.m w ringPage = true ∧
    off.toNat % 64 = 16 ∧ fld w.bits 63 59 = 0 ∧ y.state = .disabled ∧ bit w.bits 6 = true ∧
    s.m.enableOk { y with cfg := w.merge y.cfg } = false) ∧
   (let s : State := st ((ringed { ringFor 0 0 with state := .error } up).setLive ringPage Reg.RING.RWIN_BASE 511)
    let off : BitVec 12 := 0xDD0
    let w : RegWrite := ⟨.hostA, .full, BitVec.ofNat 64 (0)⟩
    let r := (s.m.windowRing off.toNat).1
    let y := s.m.ringOf r
    s.m.canonical = true ∧ s.m.runs = true ∧ ringOff off.toNat = true ∧ owner s.m w ringPage = true ∧
    off.toNat % 64 = 16 ∧ fld w.bits 63 59 = 0 ∧ bit w.cover 6 = true ∧ bit w.bits 6 = false ∧
    ((y.state = .active ∨ y.state = .error))) ∧
   (let s : State := st (((ringed { ringFor 0 0 with state := .disabled } up).setLive ringPage Reg.RING.RWIN_BASE 511))
    let off : BitVec 12 := 0xDD8
    let w : RegWrite := ⟨.hostA, .full, BitVec.ofNat 64 (1)⟩
    let r := (s.m.windowRing off.toNat).1
    let y := s.m.ringOf r
    s.m.canonical = true ∧ s.m.runs = true ∧ ringOff off.toNat = true ∧ owner s.m w ringPage = true ∧
    off.toNat % 64 = 24 ∧ fld w.bits 63 2 = 0 ∧ fld w.bits 1 0 = 1 ∧ y.state ≠ .orphaned) ∧
   (let s : State := st ((ringed { ringFor 0 0 with state := .orphaned, held := [[0,0,0,0]] } up).setLive ringPage Reg.RING.RWIN_BASE 511)
    let off : BitVec 12 := 0xDD8
    let w : RegWrite := ⟨.hostA, .full, BitVec.ofNat 64 (1)⟩
    let r := (s.m.windowRing off.toNat).1
    let y := s.m.ringOf r
    s.m.canonical = true ∧ s.m.runs = true ∧ ringOff off.toNat = true ∧ owner s.m w ringPage = true ∧
    off.toNat % 64 = 24 ∧ fld w.bits 63 2 = 0 ∧ fld w.bits 1 0 = 1 ∧ y.state = .orphaned ∧ y.started = []) ∧
   (let s : State := st (((force (ringed (ringFor 0 0) up) pwrPage Reg.PWR.PWRCTL_AUTOWAKE 1).setLive pwrPage Reg.PWR.STATE 5))
    let port : HostId := 0
    let ring : BitVec 13 := 8191
    let half : Bool := false
    let bytes : Nat := 8
    let x := s.m.ringOf ring.toNat
    let m1 := s.m.accessWakes
    let waking := decide (m1.live pwrPage Reg.PWR.STATE = 5 ∧ m1.act pwrPage Reg.PWR.PWRCTL_AUTOWAKE = 1)
    s.m.canonical = true ∧ s.m.runs = true ∧ ((bytes = 4 ∨ (bytes = 8 ∧ half = false))) ∧ port = x.owner ∧
    x.state = .active ∧ waking = true) ∧
   (let s : State := st ((ringed (ringFor 0 0) up).setLive ringPage Reg.RING.RWIN_BASE 511)
    let off : BitVec 12 := 0xDC0
    let w : RegWrite := ⟨.hostA, .full, BitVec.ofNat 64 (64)⟩
    let r := (s.m.windowRing off.toNat).1
    let y := s.m.ringOf r
    s.m.canonical = true ∧ s.m.runs = true ∧ ringOff off.toNat = true ∧ owner s.m w ringPage = true ∧
    ((off.toNat % 64 = 0 ∨ off.toNat % 64 = 8)) ∧ y.state ≠ .disabled) ∧
   (let s : State := st ((let m := ringed (ringFor 0 0) up; { m with host := { m.host with pend := [(2047, true)], unmasked := [(2047, true)] } }))
    let mw : MsixWrite := ⟨2047, 0, false, 0xFFFFFFFF⟩
    s.m.canonical = true ∧ s.m.runs = true ∧ mw.qword = false ∧ mw.dword = 0) ∧
   (let s : State := st ((let m := ringed (ringFor 0 0) up; { m with host := { m.host with pend := [(2047, true)], unmasked := [(2047, true)] } }))
    let mw : MsixWrite := ⟨2047, 0, true, 0xFFFFFFFFFFFFFFFF⟩
    s.m.canonical = true ∧ s.m.runs = true ∧ mw.qword = true ∧ mw.dword = 0 ∧
    (SMap.wf s.m.host.table (fun _ => (0, 0)) = true)) ∧
   (let s : State := st ((let m := ringed (ringFor 0 0) up; { m with host := { m.host with pend := [(2047, true)], unmasked := [(2047, true)] } }))
    let mw : MsixWrite := ⟨2047, 1, false, 0xFFFFFFFF⟩
    s.m.canonical = true ∧ s.m.runs = true ∧ mw.qword = false ∧ mw.dword = 1) ∧
   (let s : State := st ((let m := ringed (ringFor 0 0) up; { m with host := { m.host with pend := [(2047, true)], unmasked := [(2047, true)] } }))
    let mw : MsixWrite := ⟨2047, 1, true, 0xFFFFFFFFFFFFFFFF⟩
    s.m.canonical = true ∧ s.m.runs = true ∧ mw.qword = true ∧ ((mw.dword = 1 ∨ mw.dword = 3))) ∧
   (let s : State := st ((let m := ringed (ringFor 0 0) up; { m with host := { m.host with pend := [(2047, true)], unmasked := [(2047, true)] } }))
    let mw : MsixWrite := ⟨2047, 2, false, 0xFFFFFFFF⟩
    s.m.canonical = true ∧ s.m.runs = true ∧ mw.qword = false ∧ mw.dword = 2) ∧
   (let s : State := st ((let m := ringed (ringFor 0 0) up; { m with host := { m.host with pend := [(2047, true)], unmasked := [(2047, true)] } }))
    let mw : MsixWrite := ⟨2047, 3, false, 0xFFFFFFFF⟩
    s.m.canonical = true ∧ s.m.runs = true ∧ mw.qword = false ∧ mw.dword = 3 ∧ bit mw.val 0 = true) ∧
   (let s : State := st (ringed (ringFor 0 0) up)
    let half : Bool := false
    let bytes : Nat := 3
    s.m.canonical = true ∧ s.m.runs = true ∧ bytes ≠ 4 ∧ ((bytes ≠ 8 ∨ half = true))) ∧
   (let s : State := st (ringed (ringFor 0 0) up)
    let port : HostId := 0
    let ring : BitVec 13 := 8191
    let half : Bool := false
    let bytes : Nat := 8
    let v : Word := 16
    let x := s.m.ringOf ring.toNat
    let d := dbValues half bytes v
    let m1 := s.m.accessWakes
    let waking := decide (m1.live pwrPage Reg.PWR.STATE = 5 ∧ m1.act pwrPage Reg.PWR.PWRCTL_AUTOWAKE = 1)
    s.m.canonical = true ∧ s.m.runs = true ∧ ((bytes = 4 ∨ (bytes = 8 ∧ half = false))) ∧ port = x.owner ∧
    x.state = .active ∧ waking = false ∧ (d.1.any x.badTail || d.2.any x.badHead) = false) :=
  by refine ⟨?_, ?_, ?_, ?_, ?_, ?_, ?_, ?_, ?_, ?_, ?_, ?_, ?_, ?_, ?_, ?_, ?_, ?_, ?_, ?_⟩ <;> decide +kernel

theorem meets_RingOperations :
   (let s : State := st (oneEntry 0 0 (entry 1 [0, 4 * 2^60 + 0x40, 8]))
    let d : HostData := answered true false (List.replicate 8 0)
    let y : HostRead := ⟨true, List.replicate 8 (0, false)⟩
    let ring : BitVec 13 := 8191
    let idx : BitVec 32 := 0
    let e : RingEnt := started (entry 1 [0, 4 * 2^60 + 0x40, 8]) false
    let r := ring.toNat
    let x := s.m.ringOf r
    let l := .mem 0x40
    s.m.canonical = true ∧ d.ok = true ∧ d = [y] ∧ s.m.ringEntry r idx.toNat 1 = some e ∧ s.m.copyLoc x e.words = .ok l ∧
    d.bytes.length = seLen e.words ∧ s.m.locFree l (seLen e.words) = true ∧ d.err = true ∧ y.err = true) ∧
   (let s : State := st (oneEntry 0 0 (entry 1 [0, 4 * 2^60 + 0x40, 8]))
    let ring : BitVec 13 := 8191
    let idx : BitVec 32 := 0
    let d : HostData := hostData [5]
    let e : RingEnt := started (entry 1 [0, 4 * 2^60 + 0x40, 8]) false
    let r := ring.toNat
    let x := s.m.ringOf r
    let l := .mem 0x40
    let y : HostRead := ⟨false, (toBytes 8 5).map (fun b => (b, false))⟩
    s.m.canonical = true ∧ d.ok = true ∧ s.m.ringEntry r idx.toNat 1 = some e ∧ s.m.copyLoc x e.words = .ok l ∧
    d.bytes.length = seLen e.words ∧ s.m.locFree l (seLen e.words) = true ∧ d.err = false ∧ d.ep = false ∧ d = [y] ∧
    y.err = false) ∧
   (let s : State := st (oneEntry 0 0 (entry 7 [0, 4 * 2^60 + 0x40, 8128, 9 * 2^16 + 1]))
    let ring : BitVec 13 := 8191
    let idx : BitVec 32 := 0
    let d : HostData := [⟨false, List.replicate 4096 (7, false)⟩, ⟨false, List.replicate 4032 (7, false)⟩]
    let e : RingEnt := started (entry 7 [0, 4 * 2^60 + 0x40, 8128, 9 * 2^16 + 1]) false
    let r := ring.toNat
    s.m.canonical = true ∧ d.ok = true ∧ s.m.ringEntry r idx.toNat 7 = some e ∧ e.placed = false ∧ 0 < seLen e.words ∧
    seLen e.words ≤ 8128 ∧ d.err = false ∧ d.bytes.length = seLen e.words ∧ ((∀ f ∈ s.m.fab.tx, f.closed = false))) ∧
   (let s : State := st (ringed { ringFor 0 0 with sqTail := 1 } mapped)
    let ring : BitVec 13 := 8191
    let d : HostData := answered true false (List.replicate 64 0)
    let r := ring.toNat
    let x := s.m.ringOf r
    s.m.canonical = true ∧ d.ok = true ∧ s.m.ringFetches x = true ∧ d.bytes.length = 64 ∧ ((d.err = true ∨ d.ep = true))) ∧
   (let s : State := st (ringed { ringFor 0 0 with sqTail := 2, sqHead := 1, started := [started (entry 0 []) true] } mapped)
    let ring : BitVec 13 := 8191
    let d : HostData := hostData (entry 16 [])
    let r := ring.toNat
    let x := s.m.ringOf r
    let w := wordsOf 8 d.bytes
    let code := s.m.seCode x w
    s.m.canonical = true ∧ d.ok = true ∧ s.m.ringFetches x = true ∧ d.bytes.length = 64 ∧ d.err = false ∧ d.ep = false ∧
    (((seFence w = true ∧ x.started ≠ []) ∨ (code = 0 ∧ seAt w = true ∧ s.m.now < wordAt w 5)))) ∧
   (let s : State := st (ringed { ringFor 0 0 with sqTail := 1 } mapped)
    let ring : BitVec 13 := 8191
    let d : HostData := hostData (entry 0 [])
    let r := ring.toNat
    let x := s.m.ringOf r
    let w := wordsOf 8 d.bytes
    let code := s.m.seCode x w
    s.m.canonical = true ∧ d.ok = true ∧ s.m.ringFetches x = true ∧ d.bytes.length = 64 ∧ d.err = false ∧ d.ep = false ∧
    ((seFence w = false ∨ x.started = [])) ∧ ((code ≠ 0 ∨ seAt w = false ∨ wordAt w 5 ≤ s.m.now))) ∧
   (let s : State := st (oneEntry 0 0 (entry 0 []))
    let ring : BitVec 13 := 8191
    let idx : BitVec 32 := 0
    let d : HostData := hostData [0]
    let e : RingEnt := started (entry 0 []) false
    let r := ring.toNat
    s.m.canonical = true ∧ d.ok = true ∧ s.m.ringEntry r idx.toNat 0 = some e) ∧
   (let s : State := st (oneEntry 0 0 (entry 1 [0, 4 * 2^60 + 0x40, 0]))
    let ring : BitVec 13 := 8191
    let idx : BitVec 32 := 0
    let d : HostData := hostData [0]
    let e : RingEnt := started (entry 1 [0, 4 * 2^60 + 0x40, 0]) false
    let r := ring.toNat
    let x := s.m.ringOf r
    let c := 0x01
    s.m.canonical = true ∧ d.ok = true ∧ s.m.ringEntry r idx.toNat 1 = some e ∧ s.m.copyLoc x e.words = .error c) ∧
   (let s : State := st ((let m := oneEntry 0 0 (entry 1 [0, 4 * 2^60 + 0x40, 8]); { m with chan := { m.chan with scratchDue := (upTo 20).map (fun i => (i, true)) } }))
    let ring : BitVec 13 := 8191
    let idx : BitVec 32 := 0
    let d : HostData := hostData [5]
    let e : RingEnt := started (entry 1 [0, 4 * 2^60 + 0x40, 8]) false
    let r := ring.toNat
    let x := s.m.ringOf r
    let l := .mem 0x40
    s.m.canonical = true ∧ d.ok = true ∧ s.m.ringEntry r idx.toNat 1 = some e ∧ s.m.copyLoc x e.words = .ok l ∧
    d.bytes.length = seLen e.words ∧ s.m.locFree l (seLen e.words) = false) ∧
   (let s : State := st (oneEntry 0 0 (entry 1 [0, 4 * 2^60 + 0x40, 4104]))
    let ring : BitVec 13 := 8191
    let idx : BitVec 32 := 0
    let d : HostData := [⟨true, List.replicate 4096 (0, false)⟩, ⟨false, (toBytes 8 5).map (fun b => (b, false))⟩]
    let e : RingEnt := started (entry 1 [0, 4 * 2^60 + 0x40, 4104]) false
    let r := ring.toNat
    let x := s.m.ringOf r
    let l := .mem 0x40
    let y : HostRead := ⟨true, List.replicate 4096 (0, false)⟩
    let z : HostRead := ⟨false, (toBytes 8 5).map (fun b => (b, false))⟩
    s.m.canonical = true ∧ d.ok = true ∧ s.m.ringEntry r idx.toNat 1 = some e ∧ s.m.copyLoc x e.words = .ok l ∧
    d.bytes.length = seLen e.words ∧ s.m.locFree l (seLen e.words) = true ∧ d = [y, z] ∧ y.err = true ∧ z.err = false) ∧
   (let s : State := st (oneEntry 0 0 (entry 1 [0, 4 * 2^60 + 0x40, 8]))
    let ring : BitVec 13 := 8191
    let idx : BitVec 32 := 0
    let d : HostData := answered false true [1,2,3,4,5,6,7,8]
    let e : RingEnt := started (entry 1 [0, 4 * 2^60 + 0x40, 8]) false
    let r := ring.toNat
    let x := s.m.ringOf r
    let l := .mem 0x40
    s.m.canonical = true ∧ d.ok = true ∧ s.m.ringEntry r idx.toNat 1 = some e ∧ s.m.copyLoc x e.words = .ok l ∧
    d.bytes.length = seLen e.words ∧ s.m.locFree l (seLen e.words) = true ∧ d.err = false ∧ d.ep = true) ∧
   (let s : State := st (oneEntry 0 0 (entry 2 [0, 4 * 2^60 + 0x40, 0]))
    let ring : BitVec 13 := 8191
    let idx : BitVec 32 := 0
    let d : HostData := hostData [0]
    let e : RingEnt := started (entry 2 [0, 4 * 2^60 + 0x40, 0]) false
    let r := ring.toNat
    let x := s.m.ringOf r
    let c := 0x01
    s.m.canonical = true ∧ d.ok = true ∧ s.m.ringEntry r idx.toNat 2 = some e ∧ s.m.copyLoc x e.words = .error c) ∧
   (let s : State := st (oneEntry 0 0 (entry 2 [0x123, 4 * 2^60 + 0x40, 8]))
    let ring : BitVec 13 := 8191
    let idx : BitVec 32 := 0
    let d : HostData := hostData [0]
    let e : RingEnt := started (entry 2 [0x123, 4 * 2^60 + 0x40, 8]) false
    let r := ring.toNat
    let x := s.m.ringOf r
    let l := .mem 0x40
    let b := s.m.locPeek l (seLen e.words)
    let bad := (s.m.locRead l (seLen e.words)).1.any (fun b => b.2)
    s.m.canonical = true ∧ d.ok = true ∧ s.m.ringEntry r idx.toNat 2 = some e ∧ s.m.copyLoc x e.words = .ok l ∧
    s.m.computeUp = true ∧ s.m.locHeld l (seLen e.words) = false ∧ bad = false) ∧
   (let s : State := st ((oneEntry 0 15 (entry 2 [0x123, 0x3FFFFF, 1])).wrBytes (pondKey 0 0x3FFFFF) [9] true)
    let ring : BitVec 13 := 8191
    let idx : BitVec 32 := 0
    let d : HostData := hostData [0]
    let e : RingEnt := started (entry 2 [0x123, 0x3FFFFF, 1]) false
    let r := ring.toNat
    let x := s.m.ringOf r
    let l := .pond 0 0x3FFFFF
    let b := s.m.locPeek l (seLen e.words)
    let bad := (s.m.locRead l (seLen e.words)).1.any (fun b => b.2)
    s.m.canonical = true ∧ d.ok = true ∧ s.m.ringEntry r idx.toNat 2 = some e ∧ s.m.copyLoc x e.words = .ok l ∧
    s.m.computeUp = true ∧ s.m.locHeld l (seLen e.words) = false ∧ bad = true) ∧
   (let s : State := st (oneEntry 0 15 (entry 3 [0, 0, 0, 0x3FFFFC]))
    let ring : BitVec 13 := 8191
    let idx : BitVec 32 := 0
    let d : HostData := hostData [0]
    let e : RingEnt := started (entry 3 [0, 0, 0, 0x3FFFFC]) false
    let r := ring.toNat
    let x := s.m.ringOf r
    let u := 0
    let c := x.target % 16
    let y := s.m.ctx u c
    s.m.canonical = true ∧ d.ok = true ∧ s.m.ringUnit x = some u ∧ s.m.domainGone = false ∧
    s.m.ringEntry r idx.toNat 3 = some e ∧ y.state = .halted) ∧
   (let s : State := st (((oneEntry 0 15 (entry 3 [0, 0, 0, 0x3FFFFC])).setCtx 0 15 (busyCtx)))
    let ring : BitVec 13 := 8191
    let idx : BitVec 32 := 0
    let d : HostData := hostData [0]
    let e : RingEnt := started (entry 3 [0, 0, 0, 0x3FFFFC]) false
    let r := ring.toNat
    let x := s.m.ringOf r
    let u := 0
    let c := x.target % 16
    let y := s.m.ctx u c
    s.m.canonical = true ∧ d.ok = true ∧ s.m.ringUnit x = some u ∧ s.m.domainGone = false ∧
    s.m.ringEntry r idx.toNat 3 = some e ∧ y.state ≠ .halted) ∧
   (let s : State := st (((oneEntry 0 15 (entry 4 [0, 0, 0, 0x3FFFFC])).setCtx 0 15 (busyCtx)))
    let ring : BitVec 13 := 8191
    let idx : BitVec 32 := 0
    let d : HostData := hostData [0]
    let e : RingEnt := started (entry 4 [0, 0, 0, 0x3FFFFC]) false
    let r := ring.toNat
    let x := s.m.ringOf r
    let u := 0
    let c := x.target % 16
    let y := s.m.ctx u c
    s.m.canonical = true ∧ d.ok = true ∧ s.m.ringUnit x = some u ∧ s.m.domainGone = false ∧
    s.m.ringEntry r idx.toNat 4 = some e ∧ (y.state = .ready ∨ y.state = .running)) ∧
   (let s : State := st ((oneEntry 0 15 (entry 4 [0, 0, 0, 0x3FFFFC])).setCtx 0 15 (waits (.bar 0xFFF 1 31)))
    let ring : BitVec 13 := 8191
    let idx : BitVec 32 := 0
    let d : HostData := hostData [0]
    let e : RingEnt := started (entry 4 [0, 0, 0, 0x3FFFFC]) false
    let r := ring.toNat
    let x := s.m.ringOf r
    let u := 0
    let c := x.target % 16
    let y := s.m.ctx u c
    let o := 0xFFF
    let g := 1
    let i := 31
    s.m.canonical = true ∧ d.ok = true ∧ s.m.ringUnit x = some u ∧ s.m.domainGone = false ∧
    s.m.ringEntry r idx.toNat 4 = some e ∧ y.state = .waiting ∧ y.wait = .bar o g i) ∧
   (let s : State := st (((oneEntry 0 15 (entry 4 [0, 0, 0, 0x3FFFFC])).setCtx 0 15 ({ Ctx.reset with state := .faulted })))
    let ring : BitVec 13 := 8191
    let idx : BitVec 32 := 0
    let d : HostData := hostData [0]
    let e : RingEnt := started (entry 4 [0, 0, 0, 0x3FFFFC]) false
    let r := ring.toNat
    let x := s.m.ringOf r
    let u := 0
    let c := x.target % 16
    let y := s.m.ctx u c
    s.m.canonical = true ∧ d.ok = true ∧ s.m.ringUnit x = some u ∧ s.m.domainGone = false ∧
    s.m.ringEntry r idx.toNat 4 = some e ∧ y.stopped = true) ∧
   (let s : State := st (((oneEntry 0 15 (entry 5 [0, 0, 0, 0x3FFFFC])).setCtx 0 15 ({ Ctx.reset with state := .faulted, fault := 3 })))
    let ring : BitVec 13 := 8191
    let idx : BitVec 32 := 0
    let d : HostData := hostData [0]
    let e : RingEnt := started (entry 5 [0, 0, 0, 0x3FFFFC]) false
    let r := ring.toNat
    let x := s.m.ringOf r
    let u := 0
    let c := x.target % 16
    let y := s.m.ctx u c
    s.m.canonical = true ∧ d.ok = true ∧ s.m.ringUnit x = some u ∧ s.m.domainGone = false ∧
    s.m.ringEntry r idx.toNat 5 = some e ∧ y.stopped = true) ∧
   (let s : State := st (((oneEntry 0 15 (entry 5 [0, 0, 0, 0x3FFFFC])).setCtx 0 15 (busyCtx)))
    let ring : BitVec 13 := 8191
    let idx : BitVec 32 := 0
    let d : HostData := hostData [0]
    let e : RingEnt := started (entry 5 [0, 0, 0, 0x3FFFFC]) false
    let r := ring.toNat
    let x := s.m.ringOf r
    let u := 0
    let c := x.target % 16
    let y := s.m.ctx u c
    s.m.canonical = true ∧ d.ok = true ∧ s.m.ringUnit x = some u ∧ s.m.domainGone = false ∧
    s.m.ringEntry r idx.toNat 5 = some e ∧ y.stopped = false) ∧
   (let s : State := st (oneEntry 1 0 (entry 6 [0x20]))
    let ring : BitVec 13 := 8191
    let idx : BitVec 32 := 0
    let d : HostData := hostData [0]
    let e : RingEnt := started (entry 6 [0x20]) false
    let r := ring.toNat
    s.m.canonical = true ∧ d.ok = true ∧ s.m.ringEntry r idx.toNat 6 = some e ∧ e.placed = false ∧
    s.m.domainGone = false ∧ s.m.live pwrPage Reg.PWR.STATE = 1 ∧ seHaddr e.words % 64 ≠ 0) ∧
   (let s : State := st (grp5 (oneEntry 1 0 (entry 6 [0x40])))
    let ring : BitVec 13 := 8191
    let idx : BitVec 32 := 0
    let d : HostData := descData coFar
    let e : RingEnt := started (entry 6 [0x40]) false
    let r := ring.toNat
    let x := s.m.ringOf r
    let q := s.m.collOf x.target
    let cw := wordsOf 16 d.bytes
    s.m.canonical = true ∧ d.ok = true ∧ s.m.ringEntry r idx.toNat 6 = some e ∧ e.placed = false ∧
    s.m.domainGone = false ∧ s.m.live pwrPage Reg.PWR.STATE = 1 ∧ seHaddr e.words % 64 = 0 ∧ d.err = false ∧
    d.ep = false ∧ d.bytes.length = 128 ∧ x.kind = 1 ∧ q.queue.length < 32 ∧ s.m.collEntryHeld none cw = false ∧
    coListed cw = false ∧ s.m.coCode x.target none (cw ++ wordsOf (4 * coCount cw) []) = 0) ∧
   (let s : State := st (((oneEntry 2 0 (entry 6 [0x40])).setLive timePage Reg.TIME.STATUS_STATE 2).setLive timePage Reg.TIME.STATUS_VALID 1)
    let ring : BitVec 13 := 8191
    let idx : BitVec 32 := 0
    let d : HostData := descData (svDesc (2^40))
    let e : RingEnt := started (entry 6 [0x40]) false
    let r := ring.toNat
    let x := s.m.ringOf r
    let u := 180
    s.m.canonical = true ∧ d.ok = true ∧ s.m.ringEntry r idx.toNat 6 = some e ∧ e.placed = false ∧
    s.m.domainGone = false ∧ s.m.live pwrPage Reg.PWR.STATE = 1 ∧ seHaddr e.words % 64 = 0 ∧ d.err = false ∧
    d.ep = false ∧ d.bytes.length = 128 ∧ x.kind = 2 ∧ s.m.ringUnit x = some u ∧ (s.m.svOf (u - 180)).queue.length < 16 ∧
    svKind (wordsOf 16 d.bytes) = 0 ∧ s.m.svEarly (wordsOf 16 d.bytes) = none ∧
    s.m.svCode (u - 180) (wordsOf 16 d.bytes) = 0) ∧
   (let s : State := st (oneEntry 3 0 (entry 8 [0x100, 0, 1 * 2^32]))
    let ring : BitVec 13 := 8191
    let idx : BitVec 32 := 0
    let d : HostData := hostData [0]
    let e : RingEnt := started (entry 8 [0x100, 0, 1 * 2^32]) false
    let r := ring.toNat
    s.m.canonical = true ∧ d.ok = true ∧ s.m.ringEntry r idx.toNat 8 = some e ∧ s.m.keeperAnswers = true ∧
    seKreq e.words = 1) ∧
   (let s : State := st (oneEntry 3 0 (entry 8 [0x100, 0, 2 * 2^32]))
    let ring : BitVec 13 := 8191
    let idx : BitVec 32 := 0
    let d : HostData := hostData [0]
    let e : RingEnt := started (entry 8 [0x100, 0, 2 * 2^32]) false
    let r := ring.toNat
    s.m.canonical = true ∧ d.ok = true ∧ s.m.ringEntry r idx.toNat 8 = some e ∧ s.m.keeperAnswers = true ∧
    seKreq e.words = 2) ∧
   (let s : State := st (oneEntry 3 0 (entry 8 [0x100, 0, 3 * 2^32]))
    let ring : BitVec 13 := 8191
    let idx : BitVec 32 := 0
    let d : HostData := hostData [0]
    let e : RingEnt := started (entry 8 [0x100, 0, 3 * 2^32]) false
    let r := ring.toNat
    s.m.canonical = true ∧ d.ok = true ∧ s.m.ringEntry r idx.toNat 8 = some e ∧ s.m.keeperAnswers = true ∧
    seKreq e.words = 3) ∧
   (let s : State := st (oneEntry 0 0 (entry 7 [0, 4 * 2^60 + 0x40, 1, 9 * 2^16 + 1]))
    let ring : BitVec 13 := 8191
    let idx : BitVec 32 := 0
    let d : HostData := answered false true [7]
    let e : RingEnt := started (entry 7 [0, 4 * 2^60 + 0x40, 1, 9 * 2^16 + 1]) false
    let r := ring.toNat
    s.m.canonical = true ∧ d.ok = true ∧ s.m.ringEntry r idx.toNat 7 = some e ∧ e.placed = false ∧ 0 < seLen e.words ∧
    seLen e.words ≤ 8128 ∧ d.err = false ∧ d.bytes.length = seLen e.words ∧ ((∀ f ∈ s.m.fab.tx, f.closed = false))) :=
  by refine ⟨⟨?_, ?_, ?_, ?_, ?_, ?_, ?_, ?_, ?_⟩, ⟨?_, ?_, ?_, ?_, ?_, ?_, ?_, ?_, ?_, ?_⟩, ?_, ?_, ?_, ?_, 
      ?_, ⟨?_, ?_, ?_, ?_⟩, ⟨?_, ?_, ?_, ?_, ?_, ?_⟩, ⟨?_, ?_, ?_, ?_, ?_, ?_, ?_, ?_, ?_⟩, ⟨?_, ?_, ?_, ?_, 
      ?_, ?_, ?_, ?_⟩, ⟨?_, ?_, ?_, ?_⟩, ⟨?_, ?_, ?_, ?_, ?_, ?_, ?_⟩, ⟨?_, ?_, ?_, ?_, ?_, ?_, ?_⟩, ?_, ?_, 
      ?_, ?_, ?_, ?_, ?_, ?_, ?_, ?_, ?_, ?_, ?_, ?_⟩ <;>
    first | decide +kernel | exact okOf _ _ (by decide +kernel) | exact errorOf _ _ (by decide +kernel)

theorem meets_RingCompletion :
   (let s : State := st (ringed ({ ringFor 0 0 with started := [{ started (entry 0 []) true with outcome := some (0x0B, 5) }], cqTail := 4294967295, cqHead := 4294967295 }) { up with ticks := 1000 })
    let ring : BitVec 13 := 8191
    let idx : BitVec 32 := 0
    let e : RingEnt := { started (entry 0 []) true with outcome := some (0x0B, 5) }
    let o : Nat × Nat := (0x0B, 5)
    let r := ring.toNat
    let x := s.m.ringOf r
    s.m.canonical = true ∧ (x.started.find? (fun e => decide (e.index = idx.toNat) && e.outcome.isSome) = some e) ∧
    e.outcome = some o ∧ x.state ≠ .orphaned) ∧
   (let s : State := st (ringed ({ ringFor 0 0 with state := .orphaned, started := [{ started (entry 0 []) true with outcome := some (0x0B, 5) }] }) { up with ticks := 1000 })
    let ring : BitVec 13 := 8191
    let idx : BitVec 32 := 0
    let e : RingEnt := { started (entry 0 []) true with outcome := some (0x0B, 5) }
    let o : Nat × Nat := (0x0B, 5)
    let r := ring.toNat
    let x := s.m.ringOf r
    s.m.canonical = true ∧ (x.started.find? (fun e => decide (e.index = idx.toNat) && e.outcome.isSome) = some e) ∧
    e.outcome = some o ∧ x.state = .orphaned ∧ x.discard = none) ∧
   (let s : State := st (ringed ({ ringFor 0 0 with cfg := (ringFor 0 0).cfg + BitVec.ofNat 64 (2^43 + 2^36), unsignalled := 1 }) { up with ticks := 1000 })
    let ring : BitVec 13 := 8191
    let r := ring.toNat
    let x := s.m.ringOf r
    s.m.canonical = true ∧ x.unsignalled ≠ 0 ∧ x.coalUs ≠ 0 ∧ x.state ≠ .orphaned ∧
    x.oldest + 1000 * x.coalUs ≤ s.m.ticks ∧ x.msixEn = true) :=
  by refine ⟨?_, ?_, ?_⟩ <;> decide +kernel

theorem meets_HostPorts :
   (let s : State := st ({ (ringed { ringFor 0 0 with cfg := (ringFor 0 0).cfg + 2^5 } up) with ticks := 100000000 })
    let speed : BitVec 4 := 6
    let width : BitVec 4 := 8
    let h : HostId := 1
    let x := s.m.port h
    let w : RegWrite := ⟨.hostB, .full, BitVec.ofNat 64 (0)⟩
    let p := hostPage h
    s.m.canonical = true ∧ s.m.runs = true ∧ 1 ≤ speed.toNat ∧ speed.toNat ≤ 6 ∧
    ((width = 1 ∨ width = 2 ∨ width = 4 ∨ width = 8)) ∧ x.linkUp = false ∧ x.downSince + 100000000 ≤ s.m.ticks ∧
    s.m.failed h = false ∧ live s.m w p 0x908 = true ∧ w.lanes = .full) ∧
   (let s : State := st (Mach.reset)
    s.m.canonical = true ∧ s.m.power.on = false) ∧
   (let s : State := st ({ up with power := { up.power with dead := true } })
    let speed : BitVec 4 := 6
    let width : BitVec 4 := 8
    s.m.canonical = true ∧ s.m.power.on = true ∧ s.m.power.dead = true ∧ 1 ≤ speed.toNat ∧ speed.toNat ≤ 6 ∧
    ((width = 1 ∨ width = 2 ∨ width = 4 ∨ width = 8))) :=
  by refine ⟨?_, ?_, ?_⟩ <;> decide +kernel

theorem meets_FailedPortRecovers :
   (let s : State := st (failedPort ({ HostPort.reset with linkUp := true }) (up))
    let h : HostId := 1
    s.m.canonical = true ∧ s.m.power.on = true ∧ s.m.failed h = true) :=
  by decide +kernel

theorem meets_PowerAndBoot :
   (let s : State := st ({ Mach.reset with power := { PowerSt.reset with lockout := true, pwrOk := true, flash := { Flash.reset with imgA := { Flash.reset.imgA with ok := false }, imgB := { Flash.reset.imgB with ok := false } } } })
    let rep : BootReport := ⟨true, [], [], [], [], [], [], true, 5⟩
    let rd : PowerReading := ⟨100, 2813, 30, 40⟩
    bootOk rep = true ∧ s.m.power.pwrOk = true ∧ 45000 ≤ rd.millivoltDiv16.toNat * 16 ∧ s.m.power.lockout = true) ∧
   (let s : State := st ({ Mach.reset with power := { PowerSt.reset with lockout := true } })
    let rep : BootReport := ⟨true, [], [], [], [], [], [], true, 5⟩
    bootOk rep = true ∧ s.m.power.pwrOk = false ∧ s.m.power.lockout = true) ∧
   (let s : State := st ({ Mach.reset with power := { PowerSt.reset with flash := { Flash.reset with imgA := { Flash.reset.imgA with ok := false }, imgB := { Flash.reset.imgB with ok := false } } } })
    let rep : BootReport := ⟨true, [], [], [], [], [], [], true, 5⟩
    bootOk rep = true ∧ s.m.power.pwrOk = false ∧ s.m.power.lockout = false) ∧
   (let s : State := st (up)
    let rep : BootReport := ⟨true, [], [], [], [], [], [], true, 5⟩
    let rd : PowerReading := ⟨100, 2812, 30, 40⟩
    bootOk rep = true ∧ rd.millivoltDiv16.toNat * 16 < 45000 ∧ s.m.power.lockout = false) ∧
   (let s : State := st ({ Mach.reset with power := { PowerSt.reset with flash := { { Flash.reset with imgA := { Flash.reset.imgA with ok := false }, imgB := { Flash.reset.imgB with ok := false } } with records := selB } } })
    let rep : BootReport := ⟨true, [], [], [], [], [], [], true, 5⟩
    bootOk rep = true ∧ s.m.power.pwrOk = false ∧ s.m.power.lockout = false) :=
  by refine ⟨?_, ?_, ?_, ?_, ?_⟩ <;> decide +kernel

theorem meets_PowerStates :
   (let w : RegWrite := own (1)
    let s : State := st ((up.setLive pwrPage Reg.PWR.STATE 5))
    let st := s.m.live pwrPage Reg.PWR.STATE
    s.m.canonical = true ∧ live s.m w pwrPage 0x908 = true ∧ s.m.power.forced = false ∧ fld w.bits 1 0 = 1 ∧ st = 5 ∧
    s.m.chan.held = [] ∧ s.m.host.bells = [] ∧ s.m.power.again = false ∧ s.m.ready = true ∧ s.m.runs = true ∧ st ≠ 1 ∧
    st ≠ 2) ∧
   (let w : RegWrite := own (1)
    let s : State := st ((up.setLive pwrPage Reg.PWR.STATE 4))
    let st := s.m.live pwrPage Reg.PWR.STATE
    s.m.canonical = true ∧ s.m.domainUp = true ∧ st = 4 ∧ s.m.power.forced = false ∧ s.m.busy = false ∧
    s.m.waitsForTime = false ∧ live s.m w pwrPage 0x908 = true ∧ fld w.bits 1 0 = 1 ∧ st ≠ 1 ∧ st ≠ 2 ∧ st ≠ 5) ∧
   (let w : RegWrite := own (1)
    let s : State := st ((up.setLive pwrPage Reg.PWR.STATE 1))
    let st := s.m.live pwrPage Reg.PWR.STATE
    s.m.canonical = true ∧ live s.m w pwrPage 0x908 = true ∧ s.m.power.forced = false ∧ fld w.bits 1 0 = 1 ∧
    ((st = 1 ∨ st = 2)) ∧ s.m.ready = true ∧ s.m.runs = true) ∧
   (let s : State := st ({ (up.setLive pwrPage Reg.PWR.STATE 4) with power := { up.power with forced := true } })
    let st := s.m.live pwrPage Reg.PWR.STATE
    s.m.canonical = true ∧ s.m.domainUp = true ∧ st = 4 ∧ s.m.power.forced = true ∧ s.m.drained = true ∧
    s.m.ready = true ∧ s.m.runs = true) ∧
   (let s : State := st ({ (force up pwrPage Reg.PWR.PWRCTL_IDLE_US 1) with ticks := 1000 })
    let st := s.m.live pwrPage Reg.PWR.STATE
    let us := s.m.act pwrPage Reg.PWR.PWRCTL_IDLE_US
    s.m.canonical = true ∧ s.m.domainUp = true ∧ st = 1 ∧ us ≠ 0 ∧ s.m.power.busyAt + 1000 * us ≤ s.m.ticks ∧
    s.m.busy = false) ∧
   (let w : RegWrite := own (2)
    let s : State := st ((up.setLive pwrPage Reg.PWR.STATE 4))
    let st := s.m.live pwrPage Reg.PWR.STATE
    s.m.canonical = true ∧ live s.m w pwrPage 0x908 = true ∧ s.m.power.forced = false ∧ fld w.bits 1 0 = 2 ∧ st = 4) ∧
   (let w : RegWrite := own (2)
    let s : State := st ((up.setLive pwrPage Reg.PWR.STATE 3))
    let st := s.m.live pwrPage Reg.PWR.STATE
    s.m.canonical = true ∧ live s.m w pwrPage 0x908 = true ∧ s.m.power.forced = false ∧ fld w.bits 1 0 = 2 ∧ st = 3) ∧
   (let w : RegWrite := own (2)
    let s : State := st ((up.setLive pwrPage Reg.PWR.STATE 5))
    let st := s.m.live pwrPage Reg.PWR.STATE
    s.m.canonical = true ∧ live s.m w pwrPage 0x908 = true ∧ s.m.power.forced = false ∧ fld w.bits 1 0 = 2 ∧ st = 5) ∧
   (let w : RegWrite := own (2)
    let s : State := st ((up.setLive pwrPage Reg.PWR.STATE 1))
    let st := s.m.live pwrPage Reg.PWR.STATE
    s.m.canonical = true ∧ live s.m w pwrPage 0x908 = true ∧ s.m.power.forced = false ∧ fld w.bits 1 0 = 2 ∧ st ≠ 3 ∧
    st ≠ 4 ∧ st ≠ 5) ∧
   (let s : State := st ({ (up.setLive pwrPage Reg.PWR.STATE 5) with power := { up.power with forced := true } })
    let st := s.m.live pwrPage Reg.PWR.STATE
    s.m.canonical = true ∧ s.m.ready = true ∧ s.m.runs = true ∧ s.m.power.forced = true ∧ st ≠ 3 ∧ st ≠ 4) ∧
   (let s : State := st ({ (up.setLive pwrPage Reg.PWR.STATE 3) with power := { up.power with forced := true } })
    let st := s.m.live pwrPage Reg.PWR.STATE
    s.m.canonical = true ∧ s.m.ready = true ∧ s.m.runs = true ∧ s.m.power.forced = true ∧ st = 3) ∧
   (let w : RegWrite := own (1)
    let s : State := st ((up.setLive pwrPage Reg.PWR.STATE 2))
    let st := s.m.live pwrPage Reg.PWR.STATE
    s.m.canonical = true ∧ live s.m w pwrPage 0x908 = true ∧ s.m.power.forced = false ∧ fld w.bits 1 0 = 1 ∧
    ((st = 1 ∨ st = 2))) ∧
   (let w : RegWrite := own (1)
    let s : State := st ((up.setLive pwrPage Reg.PWR.STATE 3))
    let st := s.m.live pwrPage Reg.PWR.STATE
    s.m.canonical = true ∧ live s.m w pwrPage 0x908 = true ∧ s.m.power.forced = false ∧ fld w.bits 1 0 = 1 ∧ st ≠ 1 ∧
    st ≠ 2 ∧ st ≠ 5) ∧
   (let s : State := st ({ (up.setLive pwrPage Reg.PWR.STATE 2) with time := { up.time with armed := some (1000, 5) } })
    let st := s.m.live pwrPage Reg.PWR.STATE
    s.m.canonical = true ∧ s.m.ready = true ∧ s.m.runs = true ∧ s.m.power.forced = false ∧ ((st = 1 ∨ st = 2))) ∧
   (let s : State := st ((up.setLive pwrPage Reg.PWR.STATE 2).setCtx 0 0 (waits (.time 1)))
    let st := s.m.live pwrPage Reg.PWR.STATE
    s.m.canonical = true ∧ s.m.ready = true ∧ s.m.runs = true ∧ s.m.power.forced = false ∧ ((st = 1 ∨ st = 2))) :=
  by refine ⟨?_, ?_, ?_, ?_, ?_, ?_, ?_, ?_, ?_, ?_, ?_, ?_, ?_, ?_, ?_⟩ <;> decide +kernel

theorem meets_ComputeReset :
   (let s : State := st ((mapped.wrBytes (2 ^ 48) [5] true))
    let w : RegWrite := own (5)
    let pll : BitVec 6 := 0
    let p := pll.toNat
    s.m.canonical = true ∧ live s.m w pwrPage 0x910 = true ∧ bit w.bits 0 = true ∧ bit w.bits 1 = false ∧
    s.m.power.computeReset = false ∧ bit w.bits 2 = true ∧ s.m.runs = true ∧ p ≤ 20 ∧ s.m.locked p = false) ∧
   (let s : State := st (grid.setReg clkPage 0x900 0x1FFFFF)
    let pll : BitVec 6 := 15
    let p := pll.toNat
    s.m.canonical = true ∧ s.m.runs = true ∧ p ≤ 20 ∧ s.m.locked p = true) ∧
   (let s : State := st ({ up with power := { up.power with computeReset := true } })
    let rep : BootReport := ⟨true, [], [], [], [], [], [], true, 5⟩
    s.m.canonical = true ∧ bootOk rep = true ∧ s.m.power.computeReset = true ∧ s.m.power.bist = false) ∧
   (let s : State := st ({ (up.setPllAt 20 (some 0)) with ticks := 10000000 })
    let pll : BitVec 6 := 20
    let p := pll.toNat
    let a := 0
    s.m.canonical = true ∧ s.m.runs = true ∧ p ≤ 20 ∧ (SMap.get s.m.power.pllAt (fun _ => none) p = some a) ∧
    a + 10000000 ≤ s.m.ticks) ∧
   (let s : State := st (up)
    let pll : BitVec 6 := 20
    let p := pll.toNat
    s.m.canonical = true ∧ s.m.runs = true ∧ p ≤ 20 ∧ s.m.locked p = false) ∧
   (let s : State := st (grid.setReg clkPage 0x900 0x1FFFFF)
    let pll : BitVec 6 := 20
    let p := pll.toNat
    s.m.canonical = true ∧ s.m.runs = true ∧ p ≤ 20 ∧ s.m.locked p = true) ∧
   (let s : State := st ((grid).setReg clkPage 0x900 0x1FFFFF)
    let pll : BitVec 6 := 16
    let p := pll.toNat
    s.m.canonical = true ∧ s.m.runs = true ∧ p ≤ 20 ∧ s.m.locked p = true) :=
  by refine ⟨?_, ?_, ?_, ?_, ?_, ?_, ?_⟩ <;> decide +kernel

theorem meets_Governors :
   (let s : State := st (force up pwrPage Reg.PWR.PWRCTL_LIMIT_W 1000)
    let c : Int := 0
    let hot := s.m.tHot
    s.m.canonical = true ∧ s.m.runs = true ∧ c ≤ hot ∧ c < hot - 5) ∧
   (let s : State := st ({ up with ticks := 1000000, power := { up.power with hotAt := [(3, some 0)] } })
    let c : Int := up.tHot + 16
    let hot := s.m.tHot
    let f : FieldId := 3
    let a := 0
    s.m.canonical = true ∧ s.m.runs = true ∧ hot + 10 < c ∧ hot + 15 < c ∧
    (SMap.get s.m.power.hotAt (fun _ => none) f = some a) ∧ a + 1000000 ≤ s.m.ticks ∧ s.m.power.computeReset = false) ∧
   (let s : State := st (up)
    let c : Int := up.tHot + 1
    let hot := s.m.tHot
    s.m.canonical = true ∧ s.m.runs = true ∧ hot < c ∧ c ≤ hot + 10) ∧
   (let s : State := st (up)
    let c : Int := 0
    let hot := s.m.tHot
    s.m.canonical = true ∧ s.m.runs = true ∧ c < hot - 5) ∧
   (let s : State := st ((force up pwrPage Reg.PWR.PWRCTL_LIMIT_W 1000).setLive pwrPage Reg.PWR.THROTTLE_A_CAP 1)
    let c : Int := 0
    let hot := s.m.tHot
    s.m.canonical = true ∧ s.m.runs = true ∧ c < hot - 5) ∧
   (let s : State := st ((force up pwrPage Reg.PWR.PWRCTL_LIMIT_W 1000).setLive pwrPage Reg.PWR.THROTTLE_A_CAP 3)
    let c : Int := 0
    let hot := s.m.tHot
    s.m.canonical = true ∧ s.m.runs = true ∧ c < hot - 5) ∧
   (let s : State := st (up)
    let c : Int := up.tHot - 6
    let hot := s.m.tHot
    s.m.canonical = true ∧ s.m.runs = true ∧ c < hot - 5) :=
  by refine ⟨?_, ?_, ?_, ?_, ?_, ?_, ?_⟩ <;> decide +kernel

theorem meets_Management :
   (let s : State := st (up)
    let id : BitVec 4 := 5
    let code : Byte := 0
    let b := (match (0 : Nat) with | 0 => up.live pwrPage Reg.PWR.STATE | 1 => up.live secPage Reg.SEC.BOOT_STATE | 2 => up.live pwrPage Reg.PWR.DIE_TEMP | 3 => up.live pwrPage Reg.PWR.IN | 4 => up.live pwrPage Reg.PWR.OUT | 5 => up.live pwrPage Reg.PWR.INPUT_W % 256 | 6 => up.live pwrPage Reg.PWR.INPUT_W / 256 | 7 => b2n (bit (up.hdr rasPage).event 21) + 2 * b2n (bit (up.hdr rasPage).event 20) + 4 * b2n (bit (up.hdr pwrPage).event 17) | _ => 0xFF)
    let data : Bytes := []
    s.m.keeperRuns = true ∧ s.m.live keepPage Reg.KEEP.TRAY_ID ≠ id.toNat ∧
    b = (match code.toNat with | 0 => s.m.live pwrPage Reg.PWR.STATE | 1 => s.m.live secPage Reg.SEC.BOOT_STATE | 2 => s.m.live pwrPage Reg.PWR.DIE_TEMP | 3 => s.m.live pwrPage Reg.PWR.IN | 4 => s.m.live pwrPage Reg.PWR.OUT | 5 => s.m.live pwrPage Reg.PWR.INPUT_W % 256 | 6 => s.m.live pwrPage Reg.PWR.INPUT_W / 256 | 7 => b2n (bit (s.m.hdr rasPage).event 21) + 2 * b2n (bit (s.m.hdr rasPage).event 20) + 4 * b2n (bit (s.m.hdr pwrPage).event 17) | _ => 0xFF) ∧
    (data.length ≠ 64 ∨ s.m.inRecovery = true)) ∧
   (let s : State := st (up.setLive keepPage Reg.KEEP.TRAY_ID 5)
    let id : BitVec 4 := 5
    s.m.keeperRuns = true ∧ s.m.live keepPage Reg.KEEP.TRAY_ID = id.toNat) ∧
   (let s : State := st (up)
    let data : Bytes := (([0, 0, 0, 0, 0, 0, 0, 0] : List Nat).map (toBytes 8)).flatten
    let w := wordsOf 8 data
    s.m.keeperRuns = true ∧ data.length = 64 ∧ s.m.inRecovery = false ∧ s.m.fwState ≠ 3 ∧ seOp w = 0 ∧
    seReserved w = false) ∧
   (let s : State := st (up)
    let data : Bytes := (([256, 0, 0, 0, 0, 0, 0, 0] : List Nat).map (toBytes 8)).flatten
    let w := wordsOf 8 data
    s.m.keeperRuns = true ∧ data.length = 64 ∧ s.m.inRecovery = false ∧ s.m.fwState ≠ 3 ∧ ((seOp w = 0 ∨ seOp w = 8)) ∧
    seReserved w = true) ∧
   (let s : State := st (up)
    let data : Bytes := (([3, 0, 0, 0, 0, 0, 0, 0] : List Nat).map (toBytes 8)).flatten
    let w := wordsOf 8 data
    s.m.keeperRuns = true ∧ data.length = 64 ∧ s.m.inRecovery = false ∧ s.m.fwState ≠ 3 ∧ seOp w ≠ 0 ∧ seOp w ≠ 8) ∧
   (let s : State := st (up)
    let data : Bytes := (([8, 0, 0, 8589934592, 0, 0, 0, 0] : List Nat).map (toBytes 8)).flatten
    let w := wordsOf 8 data
    s.m.keeperRuns = true ∧ data.length = 64 ∧ s.m.inRecovery = false ∧ s.m.fwState ≠ 3 ∧ seOp w = 8 ∧
    seReserved w = false) ∧
   (let s : State := st (up.setFwState 3)
    let data : Bytes := List.replicate 64 0
    s.m.keeperRuns = true ∧ data.length = 64 ∧ s.m.inRecovery = false ∧ s.m.fwState = 3) :=
  by refine ⟨?_, ?_, ?_, ?_, ?_, ?_, ?_⟩ <;> decide +kernel

theorem meets_Commits :
   (let s : State := st ((up).setHdr (timePage) { (up).hdr (timePage) with pending := true })
    let p : Page := timePage
    let off : BitVec 12 := 0x100
    let w : RegWrite := own (1)
    let h := s.m.hdr p
    s.m.canonical = true ∧ p.ok = true ∧ owner s.m w p = true ∧ 0x100 ≤ off.toNat ∧ off.toNat < 0x500 ∧
    off.toNat % 8 = 0 ∧ fieldsAt p.blk off.toNat ≠ [] ∧ ((h.pending = true ∨ h.checking = true)) ∧ fld w.bits 7 6 = 0 ∧
    fld w.bits 63 16 = 0 ∧ bit w.bits 0 = true ∧ bit w.bits 4 = false ∧ h.pending = true ∧
    ((h.scheduled = true → h.goTarget.toNat ≤ s.m.now)) ∧ s.m.atCommitPoint p = true ∧ p.blk ≠ .region ∧ p.blk ≠ .pool) ∧
   (let s : State := st (up)
    let p : Page := regionPage
    let off : BitVec 12 := 0x4F8
    let w : RegWrite := own (3)
    let h := s.m.hdr p
    let calm := (p.blk ≠ .region ∧ p.blk ≠ .pool) ∨ s.m.chan.held = []
    s.m.canonical = true ∧ p.ok = true ∧ owner s.m w p = true ∧ 0x100 ≤ off.toNat ∧ off.toNat < 0x500 ∧
    off.toNat % 8 = 0 ∧ fieldsAt p.blk off.toNat ≠ [] ∧ h.pending = false ∧ h.checking = false ∧ fld w.bits 7 6 = 0 ∧
    fld w.bits 63 16 = 0 ∧ bit w.bits 0 = true ∧ bit w.bits 4 = false ∧ calm) ∧
   (let s : State := st ((up).setHdr (routerPage) { (up).hdr (routerPage) with checking := true })
    let p : Page := routerPage
    let w : RegWrite := own (3)
    let h := s.m.hdr p
    let calm := (p.blk ≠ .region ∧ p.blk ≠ .pool) ∨ s.m.chan.held = []
    s.m.canonical = true ∧ p.ok = true ∧ owner s.m w p = true ∧ fld w.bits 7 6 = 0 ∧ fld w.bits 63 16 = 0 ∧
    bit w.bits 0 = true ∧ bit w.bits 4 = false ∧ h.pending = false ∧ h.checking = true ∧ calm) ∧
   (let s : State := st (up)
    let p : Page := routerPage
    let off : BitVec 12 := 0x4F8
    let w : RegWrite := own (3)
    s.m.canonical = true ∧ p.ok = true ∧ owner s.m w p = true ∧ 0x100 ≤ off.toNat ∧ off.toNat < 0x500 ∧
    off.toNat % 8 = 0 ∧ fieldsAt p.blk off.toNat = []) ∧
   (let s : State := st ((up).setHdr (timePage) { (up).hdr (timePage) with pending := true })
    let p : Page := timePage
    let w : RegWrite := own (16)
    let h := s.m.hdr p
    let calm := (p.blk ≠ .region ∧ p.blk ≠ .pool) ∨ s.m.chan.held = []
    s.m.canonical = true ∧ p.ok = true ∧ owner s.m w p = true ∧ fld w.bits 7 6 = 0 ∧ fld w.bits 63 16 = 0 ∧
    bit w.bits 4 = true ∧ ((h.pending = true ∨ h.checking = true)) ∧ calm) ∧
   (let s : State := st ((up).setHdr (regionPage) { (up).hdr (regionPage) with pending := true })
    let p : Page := regionPage
    let h := s.m.hdr p
    s.m.canonical = true ∧ p.ok = true ∧ h.pending = true ∧ ((h.scheduled = true → h.goTarget.toNat ≤ s.m.now)) ∧
    s.m.atCommitPoint p = true ∧ p.blk = .region) ∧
   (let s : State := st ((up).setHdr (poolPage 19) { (up).hdr (poolPage 19) with pending := true })
    let p : Page := poolPage 19
    let h := s.m.hdr p
    s.m.canonical = true ∧ p.ok = true ∧ h.pending = true ∧ ((h.scheduled = true → h.goTarget.toNat ≤ s.m.now)) ∧
    s.m.atCommitPoint p = true ∧ p.blk = .pool) :=
  by refine ⟨?_, ?_, ?_, ?_, ?_, ?_, ?_⟩ <;> decide +kernel

theorem meets_PageWrites :
   (let s : State := st (up)
    let p : Page := timePage
    let w : RegWrite := ⟨.hostA, .full, BitVec.ofNat 64 (1)⟩
    let h := s.m.hdr p
    let mine := owner s.m w p = true
    let addr : BitVec 28 := BitVec.ofNat 28 ((timePage).num * 0x1000 + 0x4F8)
    let bytes : Nat := 8
    let off : BitVec 12 := 0x4F8
    s.m.canonical = true ∧ p.ok = true ∧ bit w.cover 0 = true ∧ fld w.bits 63 1 = 0 ∧
    ((mine ∨ (s.m.runs = true ∧ s.m.ready = true ∧ s.m.live (hostPage h.port) Reg.HOST.PORT_STATE_FAILED = 1))) ∧ mine ∧
    p.blk ≠ .ras ∧ p.blk ≠ .clk ∧ s.m.runs = true ∧ lanesOf addr.toNat bytes = some w.lanes ∧ off.toNat % 8 = 0 ∧
    addr.toNat / 8 * 8 = p.num * 0x1000 + off.toNat ∧ 0x100 ≤ off.toNat ∧ off.toNat < 0x500) ∧
   (let s : State := st up
    let p : Page := rasPage
    let w : RegWrite := own (2^22 + 2^24)
    let mine := owner s.m w p = true
    let n := 22
    s.m.canonical = true ∧ p.ok = true ∧ mine ∧ p.blk = .ras ∧ ((n = 22 ∨ n = 23 ∨ n = 24)) ∧ bit w.bits n = true) ∧
   (let s : State := st (up)
    let p : Page := timePage
    let w : RegWrite := ⟨.hostA, .full, BitVec.ofNat 64 (1)⟩
    let addr : BitVec 28 := 0
    let bytes : Nat := 3
    s.m.canonical = true ∧ p.ok = true ∧ s.m.runs = true ∧ lanesOf addr.toNat bytes = none ∧ w.src = .hostA) ∧
   (let s : State := st (up)
    let p : Page := timePage
    let w : RegWrite := ⟨.hostA, .full, BitVec.ofNat 64 (0)⟩
    let addr : BitVec 28 := BitVec.ofNat 28 ((timePage).num * 0x1000 + 0x010)
    let bytes : Nat := 8
    let off : BitVec 12 := 0x010
    s.m.canonical = true ∧ p.ok = true ∧ s.m.runs = true ∧ lanesOf addr.toNat bytes = some w.lanes ∧ off.toNat % 8 = 0 ∧
    addr.toNat / 8 * 8 = p.num * 0x1000 + off.toNat ∧ off = 0x010) ∧
   (let s : State := st (up)
    let p : Page := timePage
    let w : RegWrite := ⟨.hostA, .full, BitVec.ofNat 64 (1)⟩
    let addr : BitVec 28 := BitVec.ofNat 28 ((timePage).num * 0x1000 + 0x020)
    let bytes : Nat := 8
    let off : BitVec 12 := 0x020
    s.m.canonical = true ∧ p.ok = true ∧ s.m.runs = true ∧ lanesOf addr.toNat bytes = some w.lanes ∧ off.toNat % 8 = 0 ∧
    addr.toNat / 8 * 8 = p.num * 0x1000 + off.toNat ∧ off = 0x020) ∧
   (let s : State := st (up)
    let p : Page := timePage
    let w : RegWrite := ⟨.hostA, .full, BitVec.ofNat 64 (1)⟩
    let addr : BitVec 28 := BitVec.ofNat 28 ((timePage).num * 0x1000 + 0x030)
    let bytes : Nat := 8
    let off : BitVec 12 := 0x030
    s.m.canonical = true ∧ p.ok = true ∧ s.m.runs = true ∧ lanesOf addr.toNat bytes = some w.lanes ∧ off.toNat % 8 = 0 ∧
    addr.toNat / 8 * 8 = p.num * 0x1000 + off.toNat ∧ off = 0x030) ∧
   (let s : State := st (up)
    let p : Page := timePage
    let w : RegWrite := ⟨.hostA, .full, BitVec.ofNat 64 (0)⟩
    let addr : BitVec 28 := BitVec.ofNat 28 ((timePage).num * 0x1000 + 0xFF8)
    let bytes : Nat := 8
    let mine := owner s.m w p = true
    let off : BitVec 12 := 0xFF8
    s.m.canonical = true ∧ p.ok = true ∧ s.m.runs = true ∧ lanesOf addr.toNat bytes = some w.lanes ∧ off.toNat % 8 = 0 ∧
    addr.toNat / 8 * 8 = p.num * 0x1000 + off.toNat ∧ mine ∧ 0x900 ≤ off.toNat ∧ fieldsAt p.blk off.toNat = []) ∧
   (let s : State := st (up)
    let p : Page := timePage
    let w : RegWrite := ⟨.hostA, .full, BitVec.ofNat 64 (1)⟩
    let addr : BitVec 28 := BitVec.ofNat 28 ((timePage).num * 0x1000 + 0x900)
    let bytes : Nat := 8
    let mine := owner s.m w p = true
    let off : BitVec 12 := 0x900
    s.m.canonical = true ∧ p.ok = true ∧ s.m.runs = true ∧ lanesOf addr.toNat bytes = some w.lanes ∧ off.toNat % 8 = 0 ∧
    addr.toNat / 8 * 8 = p.num * 0x1000 + off.toNat ∧ mine ∧ 0x900 ≤ off.toNat ∧ fieldsAt p.blk off.toNat ≠ [] ∧
    (heldBits p.blk off.toNat ||| commandBits p.blk off.toNat) = 0 ∧ clearBits p.blk off.toNat = 0) ∧
   (let s : State := st (up)
    let p : Page := timePage
    let w : RegWrite := ⟨.hostA, .full, BitVec.ofNat 64 (0)⟩
    let addr : BitVec 28 := 0xFFFFFF8
    let bytes : Nat := 8
    s.m.canonical = true ∧ p.ok = true ∧ s.m.runs = true ∧ lanesOf addr.toNat bytes = some w.lanes ∧
    pageAt (addr.toNat / 0x1000) = none) ∧
   (let s : State := st (up)
    let p : Page := timePage
    let w : RegWrite := ⟨.hostA, .full, BitVec.ofNat 64 (2^64-1)⟩
    let addr : BitVec 28 := BitVec.ofNat 28 ((timePage).num * 0x1000 + 0x028)
    let bytes : Nat := 8
    let mine := owner s.m w p = true
    let off : BitVec 12 := 0x028
    s.m.canonical = true ∧ p.ok = true ∧ s.m.runs = true ∧ lanesOf addr.toNat bytes = some w.lanes ∧ off.toNat % 8 = 0 ∧
    addr.toNat / 8 * 8 = p.num * 0x1000 + off.toNat ∧ mine ∧ off = 0x028) ∧
   (let s : State := st (up)
    let p : Page := timePage
    let w : RegWrite := ⟨.hostA, .full, BitVec.ofNat 64 (2^64-1)⟩
    let addr : BitVec 28 := BitVec.ofNat 28 ((timePage).num * 0x1000 + 0x040)
    let bytes : Nat := 8
    let mine := owner s.m w p = true
    let off : BitVec 12 := 0x040
    s.m.canonical = true ∧ p.ok = true ∧ s.m.runs = true ∧ lanesOf addr.toNat bytes = some w.lanes ∧ off.toNat % 8 = 0 ∧
    addr.toNat / 8 * 8 = p.num * 0x1000 + off.toNat ∧ mine ∧ off = 0x040) ∧
   (let s : State := st (up)
    let p : Page := timePage
    let w : RegWrite := ⟨.hostA, .full, BitVec.ofNat 64 (4)⟩
    let addr : BitVec 28 := BitVec.ofNat 28 ((timePage).num * 0x1000 + 0x940)
    let bytes : Nat := 8
    let mine := owner s.m w p = true
    let off : BitVec 12 := 0x940
    s.m.canonical = true ∧ p.ok = true ∧ s.m.runs = true ∧ lanesOf addr.toNat bytes = some w.lanes ∧ off.toNat % 8 = 0 ∧
    addr.toNat / 8 * 8 = p.num * 0x1000 + off.toNat ∧ mine ∧ 0x900 ≤ off.toNat ∧ fieldsAt p.blk off.toNat ≠ [] ∧
    (heldBits p.blk off.toNat ||| commandBits p.blk off.toNat) ≠ 0 ∧ clean p off.toNat w = false) ∧
   (let s : State := st (up)
    let p : Page := hostPage 0
    let w : RegWrite := ⟨.hostA, .full, BitVec.ofNat 64 (2^18 - 1)⟩
    let addr : BitVec 28 := BitVec.ofNat 28 ((hostPage 0).num * 0x1000 + 0xA00)
    let bytes : Nat := 8
    let mine := owner s.m w p = true
    let off : BitVec 12 := 0xA00
    s.m.canonical = true ∧ p.ok = true ∧ s.m.runs = true ∧ lanesOf addr.toNat bytes = some w.lanes ∧ off.toNat % 8 = 0 ∧
    addr.toNat / 8 * 8 = p.num * 0x1000 + off.toNat ∧ mine ∧ 0x900 ≤ off.toNat ∧ p.blk = .host ∧ off = 0xA00 ∧
    clean p 0xA00 w = true ∧ w.lanes = .full) ∧
   (let s : State := st (up)
    let p : Page := timePage
    let w : RegWrite := ⟨.hostB, .full, BitVec.ofNat 64 (0)⟩
    let addr : BitVec 28 := BitVec.ofNat 28 ((timePage).num * 0x1000 + 0x100)
    let bytes : Nat := 8
    let h := s.m.hdr p
    let off : BitVec 12 := 0x100
    let x : HostId := 1
    s.m.canonical = true ∧ p.ok = true ∧ s.m.runs = true ∧ lanesOf addr.toNat bytes = some w.lanes ∧ off.toNat % 8 = 0 ∧
    addr.toNat / 8 * 8 = p.num * 0x1000 + off.toNat ∧ off ≠ 0x010 ∧ s.m.ready = true ∧ writerPort w.src = some x ∧
    x ≠ h.port) ∧
   (let s : State := st up
    let p : Page := rasPage
    let w : RegWrite := own (2^23)
    let mine := owner s.m w p = true
    let n := 23
    s.m.canonical = true ∧ p.ok = true ∧ mine ∧ p.blk = .ras ∧ ((n = 22 ∨ n = 23 ∨ n = 24)) ∧ bit w.bits n = true) ∧
   (let s : State := st up
    let p : Page := rasPage
    let w : RegWrite := own (2^24)
    let mine := owner s.m w p = true
    let n := 24
    s.m.canonical = true ∧ p.ok = true ∧ mine ∧ p.blk = .ras ∧ ((n = 22 ∨ n = 23 ∨ n = 24)) ∧ bit w.bits n = true) :=
  by refine ⟨?_, ?_, ?_, ?_, ?_, ?_, ?_, ?_, ?_, ?_, ?_, ?_, ?_, ?_, ?_, ?_⟩ <;> decide +kernel

theorem meets_StagedWritesChangeOnlyStaged :
   (let s : State := st (up)
    let p : Page := timePage
    let off : BitVec 12 := 0x100
    let w : RegWrite := own (3)
    let takes := fun (o : BitVec 12) (v : RegWrite) => owner s.m v p = true ∧ 0x100 ≤ o.toNat ∧ o.toNat < 0x500 ∧
      o.toNat % 8 = 0 ∧ fieldsAt p.blk o.toNat ≠ []
    let n : Mach := (up.setReg timePage 0x100 3).setHdr (timePage) { (up.setReg timePage 0x100 3).hdr (timePage) with pending := true }
    s.m.canonical = true ∧ p.ok = true ∧ takes off w ∧ (s.m.hdr p).pending = false ∧ (s.m.hdr p).checking = false ∧
    n.canonical = true ∧ (n.hdr p).pending = true ∧ (((n.hdr p).scheduled = true → (n.hdr p).goTarget.toNat ≤ n.now)) ∧
    n.atCommitPoint p = true ∧ p.blk ≠ .region ∧ p.blk ≠ .pool) ∧
   (let s : State := st (up)
    let p : Page := regionPage
    let n : Mach := { ((up.setReg regionPage 0x4F8 3).setHdr (regionPage) { (up.setReg regionPage 0x4F8 3).hdr (regionPage) with pending := true }) with chan := { MemSt.reset with remap := true, scratchDue := [(19, true)] } }
    s.m.canonical = true ∧ p.ok = true ∧ n.canonical = true ∧ (n.hdr regionPage).pending = true ∧ n.chan.remap = true ∧
    n.remapBusy = false) ∧
   (let s : State := st (up)
    let p : Page := poolPage 19
    let n : Mach := { ((up.setLive (poolPage 19) Reg.POOL.SCRATCH_MIB 24).setHdr (poolPage 19) { (up.setLive (poolPage 19) Reg.POOL.SCRATCH_MIB 24).hdr (poolPage 19) with pending := true }) with chan := { MemSt.reset with remap := true, scratchDue := [(19, true)] } }
    let sl : SliceId := 19
    s.m.canonical = true ∧ p.ok = true ∧ n.canonical = true ∧ (n.hdr (poolPage sl)).pending = true ∧
    (SMap.get n.chan.scratchDue (fun _ => false) sl = true) ∧ n.sliceBusy sl = false) :=
  by refine ⟨?_, ?_, ?_⟩ <;> decide +kernel

end Sys2Proof.Tests
end

section
/-! MX.WAIT (R93): its arm, its two outcomes in a tensor cell, and the wait with its result. -/

namespace Sys2Proof.Machine

/-- MX.WAIT is an instruction that a context issues. -/
theorem exec_mxWait (u : UnitId) (c : CtxId) (gd ga : RegNo) (imm : BitVec 13) (s : State) :
    exec (.mxWait u c gd ga imm) s = s.issue u c (fun m => m.mxWait u.val c.val gd) := rfl

/-- The units below 180 are tensor cells. -/
theorem isSolver_of_lt {u : Nat} (h : u < 180) : isSolver u = false :=
  decide_eq_false (Nat.not_le_of_lt h)

/-- R93. While an instruction of the context is outstanding, the context sleeps at MX.WAIT. -/
theorem Mach.mxWait_of_outstanding (m : Mach) (u c : Nat) (gd : RegNo) (hu : u < 180) (h : (m.ctx u c).mx.out ≠ 0) :
    m.mxWait u c gd = m.sleep u c .mxWait := by
  simp only [Mach.mxWait, isSolver_of_lt hu, Bool.false_eq_true, if_false, if_pos h]

/-- R93. With none outstanding, MX.WAIT clears what it reports and writes back the result word. -/
theorem Mach.mxWait_of_none_outstanding (m : Mach) (u c : Nat) (gd : RegNo) (hu : u < 180) (h : (m.ctx u c).mx.out = 0) :
    m.mxWait u c gd =
      (m.setIssuedMx u c { (m.ctx u c).mx with refused := false, poisoned := false }).writeBack u c gd (m.ctx u c).mx.word := by
  simp only [Mach.mxWait, isSolver_of_lt hu, Bool.false_eq_true, if_false, h, ne_eq, not_true_eq_false]

/-- Settles O27, by whether an instruction of the context is outstanding. -/
theorem matrixWaitResult : Obligations.MatrixWaitResult := by
  intro s u c gd ga imm hready hu i
  rw [Claim.Gives, exec_mxWait, State.issue_of_ready s u c _ hready]
  by_cases hout : i.out = 0
  · rw [if_neg (fun hne => hne hout), Mach.mxWait_of_none_outstanding s.m u c gd hu hout]
    rfl
  · rw [if_pos hout, Mach.mxWait_of_outstanding s.m u c gd hu hout]

end Sys2Proof.Machine
end

section
/-! The shards of a tensor over the ranks of a group (R362). -/

namespace Sys2Proof.Machine

/-- b times a / b rounded up reaches a. -/
theorem le_mul_ceilDiv (a : Nat) {b : Nat} (hb : 0 < b) : a ≤ b * ceilDiv a b := by
  have hlt : a + b - 1 < b * (ceilDiv a b + 1) := Nat.lt_mul_div_succ (a + b - 1) hb
  rw [Nat.mul_succ] at hlt
  omega

/-- The shards of the P ranks together reach every element. -/
theorem le_mul_shardSize (n : Nat) {p : Nat} (hp : 1 ≤ p) : n ≤ p * shardSize n p := by
  have hceil : n ≤ 4096 * p * ceilDiv n (4096 * p) := le_mul_ceilDiv n (by omega)
  rwa [Nat.mul_comm 4096 p, Nat.mul_assoc, Nat.mul_comm p 4096] at hceil

/-- Where a tensor has an element, its shards are not of size 0. -/
theorem shardSize_pos {n p e : Nat} (hp : 1 ≤ p) (he : e < n) : 0 < shardSize n p :=
  Nat.pos_of_mul_pos_left (Nat.lt_of_lt_of_le (Nat.zero_lt_of_lt he) (le_mul_shardSize n hp))

/-- The cut at n takes no element of the tensor from a rank. -/
theorem mem_shardOf_iff {n e : Nat} (p r : Nat) (he : e < n) :
    (shardOf n p r).1 ≤ e ∧ e < (shardOf n p r).2 ↔ r * shardSize n p ≤ e ∧ e < (r + 1) * shardSize n p := by
  simp only [shardOf]
  omega

/-- The owner of element e is rank e / S: the fact behind both that a rank holds it and that no other does. -/
theorem mem_shardOf_iff_div_eq {n p e : Nat} (r : Nat) (hp : 1 ≤ p) (he : e < n) :
    (shardOf n p r).1 ≤ e ∧ e < (shardOf n p r).2 ↔ e / shardSize n p = r := by
  rw [mem_shardOf_iff p r he, Nat.div_eq_iff (shardSize_pos hp he), Nat.succ_mul]
  have hpos := shardSize_pos hp he
  omega

/-- The owner of an element is one of the P ranks. -/
theorem div_shardSize_lt {n p e : Nat} (hp : 1 ≤ p) (he : e < n) : e / shardSize n p < p :=
  (Nat.div_lt_iff_lt_mul (shardSize_pos hp he)).mpr (Nat.lt_of_lt_of_le he (le_mul_shardSize n hp))

/-- A rank whose first element would lie at n or after it holds none. -/
theorem shardLen_eq_zero {n p r : Nat} (h : n ≤ r * shardSize n p) : shardLen n p r = 0 := by
  simp only [shardLen, shardOf, Nat.min_eq_right h]
  exact Nat.sub_eq_zero_of_le (Nat.min_le_right _ n)

/-- A boundary r × S that the cut at n leaves below n is a multiple of 4,096. -/
theorem min_mul_shardSize_mod {n p r : Nat} (h : min (r * shardSize n p) n < n) :
    min (r * shardSize n p) n % 4096 = 0 := by
  have hdvd : 4096 ∣ r * shardSize n p := Nat.dvd_mul_left_of_dvd (Nat.dvd_mul_right 4096 _) r
  rw [Nat.min_eq_left (by omega)]
  exact Nat.mod_eq_zero_of_dvd hdvd

/-- Settles O38, by the owner of element e, which is rank e / S. -/
theorem shards : Obligations.Shards := by
  intro n p hp size
  have hsize : shardSize n p = size := rfl
  rw [← hsize]
  refine ⟨rfl, fun r e he => mem_shardOf_iff p r he, fun r h => shardLen_eq_zero h, fun e he => ?owner, fun r => ?bounds⟩
  case owner =>
    obtain ⟨hfirst, hlast⟩ := (mem_shardOf_iff_div_eq (e / shardSize n p) hp he).mpr rfl
    exact ⟨_, div_shardSize_lt hp he, hfirst, hlast,
      fun q hq hq' => ((mem_shardOf_iff_div_eq q hp he).mp ⟨hq, hq'⟩).symm⟩
  case bounds => exact ⟨Nat.min_le_right _ n, min_mul_shardSize_mod, min_mul_shardSize_mod⟩

end Sys2Proof.Machine
end
